-- ==== Sys2Proof/Word.lean ====
section
/-! DEFINITION. The word types of the model and nothing else: bytes, 32-bit register words and 64-bit
queue words (R3, R4). -/

namespace Sys2Proof

/-- One byte of memory or of a packet. -/
abbrev Byte := BitVec 8

/-- A register or a packet word (R4). -/
abbrev Word := BitVec 32

/-- A queue word, a grain or an address. -/
abbrev Word64 := BitVec 64

end Sys2Proof
end

