-- ==== Sys2Proof/Syntax.lean ====
section
/-! DEFINITION. The commands of the package, one constructor of `Instr` for each row of
spec/opcode_table.json, and the plain types of their operands. Micro-instructions (R111), vector
instructions (R132) and core instructions (R241) are carried as the encoded words of the spec; a command
packet's parameters are its 64-bit parameter words (R446). -/

namespace Sys2Proof

/-- Who issues an access or writes a register (R340, R449). Numbers are the spec's: function 0-15, core
0-127, die 0-11 and tile 0-767, solver engine 0-7, copy engine 0-19, place. -/
inductive Agent where
  | host (fn : Nat) (secure : Bool)
  | core (c : Nat)
  | tile (d t : Nat)
  | dieSeq (d : Nat)
  | solver (e : Nat)
  | copy (e : Nat)
  | pkc
  | mgt
  | remote (place : Nat)
  deriving DecidableEq, Repr

/-- An access through the scratch window from outside the die (R157, R169). -/
inductive WindowOp where
  | read (len : Nat)
  | write (data : List Byte) (fill poison : Bool)
  | atomic
  deriving DecidableEq, Repr

/-- A window access: offset inside the 1 GiB window of the die, job of the packet and requester's place. -/
structure WindowAccess where
  off : Nat
  op : WindowOp
  job : Word
  place : Nat
  deriving DecidableEq, Repr

/-- What a bit upset hits: a data word (R175), a tag copy (R176) or a stack sector (R293). -/
inductive UpsetKind where
  | dataSingle | dataDouble | tagSingle | tagAll | sectorOne | sectorMany
  deriving DecidableEq, Repr

/-- An upset waiting in an array: `unit` is a scratch slot number (die, tile, slot) or a stack sector
number, `word` the 8-byte word of the slot. -/
structure Upset where
  unit : Nat
  word : Nat
  kind : UpsetKind
  deriving DecidableEq, Repr

/-- Access sizes of a core load or store. -/
inductive MemSize where
  | b1 | b2 | b4 | b8
  deriving DecidableEq, Repr

/-- How the forward error correction of a block ends (R305, R306). -/
inductive Fec where
  | clean | corrected | uncorrectable
  deriving DecidableEq, Repr

/-- What takes a port DOWN (R310). -/
inductive DownCause where
  | failedReplays | noGoodCrc | retryFull
  deriving DecidableEq, Repr

/-- What a cache error of R215 strikes as a load meets it: nothing, a line in the L1 of its core, the L2 of its cluster or the L3
of its die, or a directory entry that covers some lines. -/
inductive CacheError where
  | none | line (level : Fin 3) | directory (lines : List Nat)
  deriving DecidableEq, Repr

/-- How a core's load goes: whether it fetches instructions, and the cache error that it meets (R204, R215). -/
structure LoadWay where
  fetch : Bool := false
  err : CacheError := .none
  deriving DecidableEq, Repr

/-- The core that takes an interrupt, and whether firmware has just routed a machine error to it (R218). -/
structure IrqTaking where
  core : Fin 128
  machineError : Bool
  deriving DecidableEq, Repr

/-- What the pages say to the elements of a vector access: those in privileged pages, and the one whose translation fails
(R204, R238). -/
structure PageView where
  priv : List Nat
  xlat : Option Nat
  deriving DecidableEq, Repr

/-- The far-tier device that answers, and its poison indication (R298, R300). -/
structure FarAnswer where
  dev : Fin 4
  poison : Bool
  deriving DecidableEq, Repr

/-- From where a broadcast resumes: the first chunk that the child lacks, or, with `fetch`, that chunk of SRC alone, for a
package that stays where it is in the tree (R391). -/
structure ResumeAsk where
  chunk : Nat
  fetch : Bool
  deriving DecidableEq, Repr

/-- A fabric packet (R319, R342): header fields, and `rsv` true when some reserved bit is not zero. The status of a response and
the poison of its bytes travel with it, in bits that the spec does not place (log entry 40). -/
structure Packet where
  tc : Nat
  hops : Nat
  detour : Bool
  member : Bool
  kind : Nat
  length : Nat
  dst : Nat
  src : Nat
  via : Nat
  epoch : Nat
  seq : Nat
  srcDie : Nat
  srcUnit : Nat
  job : Word
  space : Nat
  addr : Nat
  word7 : Word
  payload : List Byte
  rsv : Bool
  status : Nat := 0
  poison : Bool := false
  port : Option Nat := none
  deriving DecidableEq, Repr

/-- The protection in force when a command was acknowledged (R466): the rights entries of its channel, none where nothing has
set them, and the partition. -/
structure Grant where
  rights : Option (List Word64)
  base : Nat
  limit : Nat
  deriving DecidableEq, Repr

/-- A command's header as its execution needs it (R446, R467): channel, sequence, TARGET, launch grain,
flags, the role and job it runs under, and the entry place when it is a member command. -/
structure CmdHdr where
  chan : Nat
  seq : Word
  target : Word
  launch : Word64
  early : Bool
  indirect : Bool
  member : Bool
  entry : Nat
  role : Nat
  job : Word
  /-- the dies that another channel owned when the command was acknowledged (R466, R492) -/
  barred : List Nat := []
  /-- the protection that its accesses run under (R466); none: that of the moment -/
  grant : Option Grant := none
  deriving DecidableEq, Repr

/-- An up-message of a collective (R380): from the node at place `child` of the tree. -/
structure UpMessage where
  team : Word
  seq : Word
  child : Nat
  fingerprint : Word64
  mismatches : List Word
  mismatchCount : Nat
  operand : Word64
  flags : Nat
  ranks : List Nat
  timedOut : Bool
  deriving DecidableEq, Repr

/-- A release of a collective (R381, R382, R389, R392). -/
structure ReleaseMsg where
  team : Word
  seq : Word
  status : Nat
  cgrain : Word64
  result : Word64
  flags : Nat
  sourceLost : Bool
  survivors : List Nat
  /-- true for the agreement release that starts the data phase of a bulk call (R383) -/
  agreement : Bool
  deriving DecidableEq, Repr

/-- A data chunk on a tree edge (R388): `up` toward the root, with the sending node's place. -/
structure ChunkMsg where
  team : Word
  seq : Word
  sender : Nat
  up : Bool
  chunk : Nat
  data : List Byte
  deriving DecidableEq, Repr

/-- The unit a sensor belongs to (R398, R506, R582). -/
inductive SensorUnit where
  | die (d : Nat) (region : Nat)
  | stack (k : Nat)
  deriving DecidableEq, Repr

/-- A sensor reading: temperature in degrees C and supply minus setpoint in mV (R397). -/
structure Reading where
  unit : SensorUnit
  temp : Int
  mv : Int
  deriving DecidableEq, Repr

/-- The payload of a TC4 timebase packet (R404): TIMESTAMP and FRACTION as one count of 1/65,536 grain. -/
structure TbMsg where
  stamp : Nat
  distance : Nat
  ppsLocked : Bool
  gmPlace : Nat
  deriving DecidableEq, Repr

/-- What wakes a domain (R503). -/
inductive WakeSource where
  | lane (group : Nat)
  | host
  deriving DecidableEq, Repr

/-- The straps of R535. -/
structure Straps where
  place : BitVec 15
  shapeG : BitVec 7
  shapeN : BitVec 5
  ftBifur : BitVec 2
  mgtAddr : BitVec 2
  secClear : Bool
  deriving DecidableEq, Repr

/-- How the PUF tries of a boot end (R476, R477): a try matches, or none does. -/
inductive PufOutcome where
  | ok | fail
  deriving DecidableEq, Repr

/-- The commands, one constructor for each row of spec/opcode_table.json, in its order. -/
inductive Instr where
  /-- REGISTER_WRITE (R6). -/
  | registerWrite (who : Agent) (off : Nat) (wide : Bool) (v : Word64)
  /-- STEP_CUT (R29). -/
  | stepCut (d : Fin 12)
  /-- SWITCH_STEP_START (R125). -/
  | switchStepStart (d : Fin 12)
  /-- DIE_START (R98). -/
  | dieStart (d : Fin 12)
  /-- ARM (R129). -/
  | arm (d : Fin 12)
  /-- STOP (R101). -/
  | stop (d : Fin 12)
  /-- ABORT (R102). -/
  | abort (d : Fin 12)
  /-- DIE_AT_END (R116). -/
  | dieAtEnd (d : Fin 12)
  /-- NOP (R114). -/
  | nop (d : Fin 12) (t : Fin 768) (w : BitVec 128)
  /-- END (R116). -/
  | endStep (d : Fin 12) (t : Fin 768) (w : BitVec 128)
  /-- IDLE (R114). -/
  | idle (d : Fin 12) (t : Fin 768) (w : BitVec 128)
  /-- LOOP (R114). -/
  | loop (d : Fin 12) (t : Fin 768) (w : BitVec 128)
  /-- BRL (R114). -/
  | brl (d : Fin 12) (t : Fin 768) (w : BitVec 128)
  /-- MMA (R78). -/
  | mma (d : Fin 12) (t : Fin 768) (w : BitVec 128)
  /-- MMA_COMPLETE (R84). -/
  | mmaComplete (d : Fin 12) (t : Fin 768)
  /-- VEC (R134). -/
  | vec (d : Fin 12) (t : Fin 768) (w : BitVec 128)
  /-- VEC_PROGRAM_COMPLETE (R141). -/
  | vecProgramComplete (d : Fin 12) (t : Fin 768)
  /-- SEND (R114). -/
  | send (d : Fin 12) (t : Fin 768) (w : BitVec 128)
  /-- SEND_COMPLETE (R114). -/
  | sendComplete (d : Fin 12) (t : Fin 768)
  /-- RECV (R114). -/
  | recv (d : Fin 12) (t : Fin 768) (w : BitVec 128)
  /-- RECV_COMPLETE (R114). -/
  | recvComplete (d : Fin 12) (t : Fin 768)
  /-- TAGS (R114). -/
  | tags (d : Fin 12) (t : Fin 768) (w : BitVec 128)
  /-- REQ_READ (R357). -/
  | reqRead (d : Fin 12) (t : Fin 768) (w : BitVec 128)
  /-- REQ_WRITE (R357). -/
  | reqWrite (d : Fin 12) (t : Fin 768) (w : BitVec 128)
  /-- REQ_ATOMIC (R357). -/
  | reqAtomic (d : Fin 12) (t : Fin 768) (w : BitVec 128)
  /-- REQ_COPY (R359). -/
  | reqCopy (d : Fin 12) (t : Fin 768) (w : BitVec 128)
  /-- REQ_FENCE (R353). -/
  | reqFence (d : Fin 12) (t : Fin 768) (w : BitVec 128)
  /-- TAG_WAIT_RELEASE (R92). -/
  | tagWaitRelease (d : Fin 12)
  /-- TAG_WAIT_TIMEOUT (R104). -/
  | tagWaitTimeout (d : Fin 12)
  /-- STATIC_ROUTE_ARRIVAL (R90). -/
  | staticRouteArrival (src : Fin 12) (d : Fin 12) (t : Fin 768) (slot : Fin 5120) (data : List Byte)
  /-- SCRATCH_ARRIVAL (R159). -/
  | scratchArrival (d : Fin 12) (t : Fin 768) (slot : Fin 5120) (ofs : Fin 256) (data : List Byte) (fill : Bool) (poison : Bool)
  /-- SCRATCH_WINDOW_ACCESS (R169). -/
  | scratchWindowAccess (d : Fin 12) (a : WindowAccess)
  /-- SCR_CLEAR_GO (R173). -/
  | scrClearGo (d : Fin 12) (v : Word)
  /-- SCR_CLEAR_DONE (R173). -/
  | scrClearDone (d : Fin 12)
  /-- SCRATCH_SCRUB (R177). -/
  | scratchScrub (d : Fin 12) (struck : List Upset)
  /-- COPY (R137). -/
  | copy (d : Fin 12) (t : Fin 768) (w : BitVec 64)
  /-- ADD (R137). -/
  | add (d : Fin 12) (t : Fin 768) (w : BitVec 64)
  /-- SUB (R137). -/
  | sub (d : Fin 12) (t : Fin 768) (w : BitVec 64)
  /-- MUL (R137). -/
  | mul (d : Fin 12) (t : Fin 768) (w : BitVec 64)
  /-- FMA (R137). -/
  | fma (d : Fin 12) (t : Fin 768) (w : BitVec 64)
  /-- MIN (R137). -/
  | min (d : Fin 12) (t : Fin 768) (w : BitVec 64)
  /-- MAX (R137). -/
  | max (d : Fin 12) (t : Fin 768) (w : BitVec 64)
  /-- ABS (R137). -/
  | abs (d : Fin 12) (t : Fin 768) (w : BitVec 64)
  /-- NEG (R137). -/
  | neg (d : Fin 12) (t : Fin 768) (w : BitVec 64)
  /-- DIV (R137). -/
  | div (d : Fin 12) (t : Fin 768) (w : BitVec 64)
  /-- SQRT (R137). -/
  | sqrt (d : Fin 12) (t : Fin 768) (w : BitVec 64)
  /-- RSQRT (R138). -/
  | rsqrt (d : Fin 12) (t : Fin 768) (w : BitVec 64)
  /-- EXP (R138). -/
  | exp (d : Fin 12) (t : Fin 768) (w : BitVec 64)
  /-- LOG (R138). -/
  | log (d : Fin 12) (t : Fin 768) (w : BitVec 64)
  /-- TANH (R138). -/
  | tanh (d : Fin 12) (t : Fin 768) (w : BitVec 64)
  /-- SIGM (R138). -/
  | sigm (d : Fin 12) (t : Fin 768) (w : BitVec 64)
  /-- SIN (R138). -/
  | sin (d : Fin 12) (t : Fin 768) (w : BitVec 64)
  /-- COS (R138). -/
  | cos (d : Fin 12) (t : Fin 768) (w : BitVec 64)
  /-- CVT (R147). -/
  | cvt (d : Fin 12) (t : Fin 768) (w : BitVec 64)
  /-- BAMAX (R154). -/
  | bamax (d : Fin 12) (t : Fin 768) (w : BitVec 64)
  /-- RSUM (R153). -/
  | rsum (d : Fin 12) (t : Fin 768) (w : BitVec 64)
  /-- RMAX (R154). -/
  | rmax (d : Fin 12) (t : Fin 768) (w : BitVec 64)
  /-- RMIN (R154). -/
  | rmin (d : Fin 12) (t : Fin 768) (w : BitVec 64)
  /-- RAMAX (R154). -/
  | ramax (d : Fin 12) (t : Fin 768) (w : BitVec 64)
  /-- ARGMAX (R154). -/
  | argmax (d : Fin 12) (t : Fin 768) (w : BitVec 64)
  /-- AMXRD (R137). -/
  | amxrd (d : Fin 12) (t : Fin 768) (w : BitVec 64)
  /-- FLG (R156). -/
  | flg (d : Fin 12) (t : Fin 768) (w : BitVec 64)
  /-- LDS (R137). -/
  | lds (d : Fin 12) (t : Fin 768) (w : BitVec 64)
  /-- STS (R137). -/
  | sts (d : Fin 12) (t : Fin 768) (w : BitVec 64)
  /-- MOULD_LOAD (R119). -/
  | mouldLoad (h : CmdHdr) (ps : List Word64)
  /-- MOULD_STREAM_DONE (R119). -/
  | mouldStreamDone (d : Fin 12) (slot : Fin 4)
  /-- MOULD_CHECK_DONE (R119). -/
  | mouldCheckDone (d : Fin 12) (slot : Fin 4)
  /-- MOULD_SWITCH (R128). -/
  | mouldSwitch (h : CmdHdr) (ps : List Word64)
  /-- MOULD_EVICT (R123). -/
  | mouldEvict (h : CmdHdr) (ps : List Word64)
  /-- REFIRE_SWITCH (R195). -/
  | refireSwitch (d : Fin 12)
  /-- TNM_SLOT_WRITE (R197). -/
  | tnmSlotWrite (d : Fin 12) (slot : Fin 4) (v : Word)
  /-- FENCE_L (R209). -/
  | fenceL (c : Fin 128) (w : Word)
  /-- FENCE_G (R210). -/
  | fenceG (c : Fin 128) (w : Word)
  /-- FENCE_G_COMPLETE (R210). -/
  | fenceGComplete (c : Fin 128)
  /-- INVL (R211). -/
  | invl (c : Fin 128) (w : Word)
  /-- INVR (R211). -/
  | invr (c : Fin 128) (w : Word)
  /-- INVA (R211). -/
  | inva (c : Fin 128) (w : Word)
  /-- INVALIDATION_COMPLETE (R213). -/
  | invalidationComplete (c : Fin 128)
  /-- WAIT (R216). -/
  | wait (c : Fin 128) (w : Word)
  /-- GATE (R203). -/
  | gate (c : Fin 128) (w : Word)
  /-- ERET (R203). -/
  | eret (c : Fin 128) (w : Word)
  /-- GRAIN (R401). -/
  | grain (c : Fin 128) (w : Word)
  /-- CORE_LOAD (R204). -/
  | coreLoad (c : Fin 128) (rd : Fin 32) (addr : Word64) (size : MemSize) (privPage : Bool) (way : LoadWay)
  /-- CORE_STORE (R206). -/
  | coreStore (c : Fin 128) (rs : Fin 32) (addr : Word64) (size : MemSize) (privPage : Bool)
  /-- CORE_ATOMIC (R282). -/
  | coreAtomic (c : Fin 128) (rd : Fin 32) (rs : Fin 32) (rc : Fin 32) (aop : Nat) (size64 : Bool) (addr : Word64) (privPage : Bool)
  /-- CORE_LOAD_REPLY (R212). -/
  | coreLoadReply (c : Fin 128) (id : Nat)
  /-- INTERRUPT_TAKE (R219). -/
  | interruptTake (x : IrqTaking)
  /-- GRAIN_CMP_MATCH (R218). -/
  | grainCmpMatch (c : Fin 128)
  /-- CORE_RELEASE (R203). -/
  | coreRelease (c : Fin 128)
  /-- NMI (R203). -/
  | nmi (c : Fin 128)
  /-- IPI_SEND (R218). -/
  | ipiSend (c : Fin 128) (target : Fin 128)
  /-- IPI_CLEAR (R220). -/
  | ipiClear (c : Fin 128)
  /-- VADD (R230). -/
  | vadd (c : Fin 128) (w : Word)
  /-- VSUB (R230). -/
  | vsub (c : Fin 128) (w : Word)
  /-- VMUL (R230). -/
  | vmul (c : Fin 128) (w : Word)
  /-- VDIV (R230). -/
  | vdiv (c : Fin 128) (w : Word)
  /-- VSQRT (R230). -/
  | vsqrt (c : Fin 128) (w : Word)
  /-- VMIN (R230). -/
  | vmin (c : Fin 128) (w : Word)
  /-- VMAX (R230). -/
  | vmax (c : Fin 128) (w : Word)
  /-- VSEL (R242). -/
  | vsel (c : Fin 128) (w : Word)
  /-- VFMA (R230). -/
  | vfma (c : Fin 128) (w : Word)
  /-- VFMS (R230). -/
  | vfms (c : Fin 128) (w : Word)
  /-- VNEG (R230). -/
  | vneg (c : Fin 128) (w : Word)
  /-- VCMUL (R231). -/
  | vcmul (c : Fin 128) (w : Word)
  /-- VCMULC (R231). -/
  | vcmulc (c : Fin 128) (w : Word)
  /-- VCMULA (R231). -/
  | vcmula (c : Fin 128) (w : Word)
  /-- VCMPEQ (R242). -/
  | vcmpeq (c : Fin 128) (w : Word)
  /-- VCMPLT (R242). -/
  | vcmplt (c : Fin 128) (w : Word)
  /-- VCMPLE (R242). -/
  | vcmple (c : Fin 128) (w : Word)
  /-- VIADD (R233). -/
  | viadd (c : Fin 128) (w : Word)
  /-- VISUB (R233). -/
  | visub (c : Fin 128) (w : Word)
  /-- VIMUL (R233). -/
  | vimul (c : Fin 128) (w : Word)
  /-- VAND (R233). -/
  | vand (c : Fin 128) (w : Word)
  /-- VOR (R233). -/
  | vor (c : Fin 128) (w : Word)
  /-- VXOR (R233). -/
  | vxor (c : Fin 128) (w : Word)
  /-- VSLL (R242). -/
  | vsll (c : Fin 128) (w : Word)
  /-- VSRA (R242). -/
  | vsra (c : Fin 128) (w : Word)
  /-- VFCVT_I (R234). -/
  | vfcvtI (c : Fin 128) (w : Word)
  /-- VICVT_F (R234). -/
  | vicvtF (c : Fin 128) (w : Word)
  /-- VWCVT (R234). -/
  | vwcvt (c : Fin 128) (w : Word)
  /-- VNCVT (R234). -/
  | vncvt (c : Fin 128) (w : Word)
  /-- VRSUM (R232). -/
  | vrsum (c : Fin 128) (w : Word)
  /-- VRMAX (R232). -/
  | vrmax (c : Fin 128) (w : Word)
  /-- VRMIN (R232). -/
  | vrmin (c : Fin 128) (w : Word)
  /-- VSPLAT (R242). -/
  | vsplat (c : Fin 128) (w : Word)
  /-- SCALAR_FP_OP (R242). -/
  | scalarFpOp (c : Fin 128) (w : Word)
  /-- SETVL (R226). -/
  | setvl (c : Fin 128) (w : Word)
  /-- VLR (R242). -/
  | vlr (c : Fin 128) (w : Word)
  /-- VLW (R242). -/
  | vlw (c : Fin 128) (w : Word)
  /-- VSTR (R242). -/
  | vstr (c : Fin 128) (w : Word)
  /-- VSTW (R242). -/
  | vstw (c : Fin 128) (w : Word)
  /-- MAND (R242). -/
  | mand (c : Fin 128) (w : Word)
  /-- MOR (R242). -/
  | mor (c : Fin 128) (w : Word)
  /-- MNOT (R242). -/
  | mnot (c : Fin 128) (w : Word)
  /-- MPOP (R242). -/
  | mpop (c : Fin 128) (w : Word)
  /-- MFIRST (R242). -/
  | mfirst (c : Fin 128) (w : Word)
  /-- FSRR (R242). -/
  | fsrr (c : Fin 128) (w : Word)
  /-- FSRW (R242). -/
  | fsrw (c : Fin 128) (w : Word)
  /-- VMVG (R242). -/
  | vmvg (c : Fin 128) (w : Word)
  /-- VMVF (R242). -/
  | vmvf (c : Fin 128) (w : Word)
  /-- VECTOR_LOAD (R238). -/
  | vectorLoad (c : Fin 128) (w : Word) (pages : PageView) (irqAt : Option Nat)
  /-- VECTOR_STORE (R237). -/
  | vectorStore (c : Fin 128) (w : Word) (pages : PageView) (irqAt : Option Nat)
  /-- SLV_SUBMIT (R273). -/
  | slvSubmit (e : Fin 8) (who : Agent) (hi : Word)
  /-- BATCH_START (R268). -/
  | batchStart (e : Fin 8)
  /-- BATCH_ENGINE_DONE (R263). -/
  | batchEngineDone (e : Fin 8)
  /-- REDO_DONE (R263). -/
  | redoDone (e : Fin 8)
  /-- BATCH_DEADLINE (R270). -/
  | batchDeadline (e : Fin 8) (started : Nat)
  /-- BATCH_COMPLETE (R259). -/
  | batchComplete (e : Fin 8)
  /-- STACK_OP_APPLY (R279). -/
  | stackOpApply (k : Fin 12) (pc : Fin 64)
  /-- DIGEST_JOB_DONE (R292). -/
  | digestJobDone (unit : Fin 13)
  /-- MEM_SCRUB (R295). -/
  | memScrub (k : Fin 12) (struck : List Upset)
  /-- FAR_TIER_ACCESS (R298). -/
  | farTierAccess (x : FarAnswer)
  /-- FT_DEV_COMMIT (R297). -/
  | ftDevCommit (dev : Fin 4) (v : Word)
  /-- FT_LINK_DOWN (R300). -/
  | ftLinkDown (dev : Fin 4) (viral : Bool)
  /-- FT_LINK_UP (R527). -/
  | ftLinkUp (dev : Fin 4)
  /-- FT_BAD_RESPONSE (R528). -/
  | ftBadResponse (dev : Fin 4) (tag : Nat)
  /-- FLIT_RECEIVE (R309). -/
  | flitReceive (p : Fin 36) (fec : Fec) (blockCount : BitVec 16) (words : List Word)
  /-- NAK_RECEIVE (R309). -/
  | nakReceive (p : Fin 36) (words : List Word)
  /-- CREDIT_RECEIVE (R310). -/
  | creditReceive (p : Fin 36) (words : List Word)
  /-- IDENT_RECEIVE (R333). -/
  | identReceive (p : Fin 36) (words : List Word) (laneRev : Bool)
  /-- QUARANTINE_RECEIVE (R335). -/
  | quarantineReceive (p : Fin 36) (words : List Word)
  /-- PORT_DOWN (R310). -/
  | portDown (p : Fin 36) (cause : DownCause)
  /-- PORT_TRAIN_START (R333). -/
  | portTrainStart (p : Fin 36)
  /-- TRAINING_TIMEOUT (R333). -/
  | trainingTimeout (p : Fin 36)
  /-- PORT_RELEASE (R336). -/
  | portRelease (p : Fin 36) (role : Nat)
  /-- RETRAIN (R333). -/
  | retrain (p : Fin 36)
  /-- PORT_ENABLE (R504). -/
  | portEnable (p : Fin 36) (on : Bool)
  /-- KNOCK (R504). -/
  | knock (p : Fin 36)
  /-- PACKET_FORWARD (R321). -/
  | packetForward (inp : Option (Fin 36)) (pkt : Packet) (overrun : Bool)
  /-- CONG_SAMPLE (R325). -/
  | congSample (node : Byte) (group : Byte) (system : Byte) (peers : List Byte)
  /-- ROUTE_NOTICE (R330). -/
  | routeNotice (pkt : Packet) (unreachable : List Nat)
  /-- RESEND_TIMEOUT (R331). -/
  | resendTimeout (dst : BitVec 15) (seq : BitVec 16)
  /-- REQUEST_SEND (R344). -/
  | requestSend
  /-- REMOTE_REQUEST_RECEIVE (R345). -/
  | remoteRequestReceive (pkt : Packet)
  /-- HELD_REQUEST_RELEASE (R350). -/
  | heldRequestRelease (src : BitVec 15) (seq : BitVec 16)
  /-- ACK_SEND (R347). -/
  | ackSend (dst : BitVec 15)
  /-- ACK_RECEIVE (R353). -/
  | ackReceive (pkt : Packet)
  /-- READ_RESP_RECEIVE (R357); STATUS and the poison of its bytes come with it (log entry 40). -/
  | readRespReceive (pkt : Packet) (status : Nat) (poison : Bool)
  /-- ATOMIC_RESP_RECEIVE (R348); its STATUS comes with it (log entry 40). -/
  | atomicRespReceive (pkt : Packet) (status : Nat)
  /-- RESP_ACK_RECEIVE (R348). -/
  | respAckReceive (pkt : Packet)
  /-- FENCE_COMPLETE (R354). -/
  | fenceComplete (a : Agent)
  /-- CPE_SUBMIT (R367). -/
  | cpeSubmit (e : Fin 20) (who : Agent) (hi : Word)
  /-- CPE_WRITE (R365). -/
  | cpeWrite (e : Fin 20)
  /-- CPE_ATOMIC (R365). -/
  | cpeAtomic (e : Fin 20)
  /-- CPE_COPY (R359). -/
  | cpeCopy (e : Fin 20)
  /-- CPE_FENCE (R353). -/
  | cpeFence (e : Fin 20)
  /-- CPE_DESCRIPTOR_COMPLETE (R366). -/
  | cpeDescriptorComplete (e : Fin 20)
  /-- TEAM_CREATE (R371). -/
  | teamCreate (h : CmdHdr) (ps : List Word64)
  /-- TEAM_DESTROY (R373). -/
  | teamDestroy (h : CmdHdr) (ps : List Word64)
  /-- TEAM_RESET (R373). -/
  | teamReset (h : CmdHdr) (ps : List Word64)
  /-- TEAM_INFO (R471). -/
  | teamInfo (h : CmdHdr) (ps : List Word64)
  /-- COLL_BARRIER (R377). -/
  | collBarrier (die : Fin 14) (rec : Word64)
  /-- COLL_SCALAR (R377). -/
  | collScalar (die : Fin 14) (rec : Word64)
  /-- COLL_VOTE (R377). -/
  | collVote (d : Fin 12) (team : Word) (ovf : Bool) (unable : Bool)
  /-- COLL_BCAST (R388). -/
  | collBcast (die : Fin 14) (rec : Word64)
  /-- COLL_REDUCE (R388). -/
  | collReduce (die : Fin 14) (rec : Word64)
  /-- COLL_ALLREDUCE (R388). -/
  | collAllreduce (die : Fin 14) (rec : Word64)
  /-- UP_MESSAGE_RECEIVE (R380). -/
  | upMessageReceive (m : UpMessage)
  /-- RELEASE_RECEIVE (R384). -/
  | releaseReceive (m : ReleaseMsg)
  /-- ALIGNED_COMPLETION (R384). -/
  | alignedCompletion (team : Word) (seq : Word) (die : Fin 14)
  /-- CHUNK_RECEIVE (R388). -/
  | chunkReceive (m : ChunkMsg)
  /-- CHUNK_ACK_RECEIVE (R388). -/
  | chunkAckReceive (team : Word) (seq : Word) (child : BitVec 15) (chunk : Nat)
  /-- DONE_RECEIVE (R389). -/
  | doneReceive (team : Word) (seq : Word) (child : BitVec 15) (ranks : List Nat) (flags : Nat)
  /-- HEARTBEAT (R390). -/
  | heartbeat (team : Word) (peer : BitVec 15)
  /-- PARENT_LOST (R390). -/
  | parentLost (team : Word)
  /-- INPUT_LOST (R390). -/
  | inputLost (team : Word) (child : BitVec 15)
  /-- RESUME_RECEIVE (R391). -/
  | resumeReceive (team : Word) (seq : Word) (child : BitVec 15) (ask : ResumeAsk)
  /-- CALL_TIMEOUT (R393). -/
  | callTimeout (team : Word) (seq : Word) (die : Fin 14)
  /-- SENSOR_SAMPLE (R398). -/
  | sensorSample (rs : List Reading)
  /-- CLOCK_DEMAND_END (R397). -/
  | clockDemandEnd (d : Fin 14) (cause : Fin 6)
  /-- DROOP_DETECT (R398). -/
  | droopDetect (d : Fin 14) (region : Nat)
  /-- TB_SYNC_SEND (R404). -/
  | tbSyncSend
  /-- TB_SYNC (R405). -/
  | tbSync (p : Fin 36) (m : TbMsg) (rx : Nat)
  /-- TB_DELAY_REQ (R405). -/
  | tbDelayReq (p : Fin 36) (m : TbMsg) (rx : Nat)
  /-- TB_DELAY_RESP (R405). -/
  | tbDelayResp (p : Fin 36) (m : TbMsg)
  /-- UPSTREAM_LOSS (R407). -/
  | upstreamLoss
  /-- PPS_EDGE (R408). -/
  | ppsEdge
  /-- PPS_MISS (R408). -/
  | ppsMiss
  /-- TB_RESELECT (R404). -/
  | tbReselect
  /-- TB_NOW_READ (R401). -/
  | tbNowRead
  /-- COMMAND_LAUNCH (R410). -/
  | commandLaunch (chan : Nat) (seq : Word)
  /-- CH_REQ_PUSH (R452). -/
  | chReqPush (who : Agent) (chan : Nat) (w : Word64)
  /-- CH_RSP_READ (R458). -/
  | chRspRead (who : Agent) (chan : Nat)
  /-- KEEPALIVE (R461). -/
  | keepalive (who : Agent) (chan : Nat)
  /-- RESYNC (R453). -/
  | resync (who : Agent) (chan : Nat)
  /-- COMMAND_PACKET_RECEIVE (R454). -/
  | commandPacketReceive (chan : Nat)
  /-- COMMAND_ACKNOWLEDGE (R455). -/
  | commandAcknowledge (chan : Nat)
  /-- SESSION_IDLE_TIMEOUT (R465). -/
  | sessionIdleTimeout (chan : Nat)
  /-- CMD_FWD (R467). -/
  | cmdFwd (pkt : Packet)
  /-- CMD_RPL (R21). -/
  | cmdRpl (pkt : Packet)
  /-- MEMBER_REPLY_TIMEOUT (R23). -/
  | memberReplyTimeout (chan : Nat) (seq : Word) (unit : Word)
  /-- MGMT_READ (R468). -/
  | mgmtRead (pkt : Packet)
  /-- MGMT_WRITE (R468). -/
  | mgmtWrite (pkt : Packet)
  /-- MGMT_RESP (R468). -/
  | mgmtResp (pkt : Packet) (status : Nat)
  /-- SESSION_CHALLENGE (R462). -/
  | sessionChallenge (h : CmdHdr) (ps : List Word64)
  /-- SESSION_OPEN (R463). -/
  | sessionOpen (h : CmdHdr) (ps : List Word64)
  /-- SESSION_CLOSE (R465). -/
  | sessionClose (h : CmdHdr) (ps : List Word64)
  /-- SESSION_INFO (R471). -/
  | sessionInfo (h : CmdHdr) (ps : List Word64)
  /-- NOP_COMMAND (R471). -/
  | nopCommand (h : CmdHdr) (ps : List Word64)
  /-- UNIT_ARM (R99). -/
  | unitArm (h : CmdHdr) (ps : List Word64)
  /-- UNIT_STOP (R101). -/
  | unitStop (h : CmdHdr) (ps : List Word64)
  /-- UNIT_ABORT (R102). -/
  | unitAbort (h : CmdHdr) (ps : List Word64)
  /-- REG_READ (R471). -/
  | regRead (h : CmdHdr) (ps : List Word64)
  /-- REG_WRITE (R471). -/
  | regWrite (h : CmdHdr) (ps : List Word64)
  /-- TASK_SET (R471). -/
  | taskSet (h : CmdHdr) (ps : List Word64)
  /-- MODE_SET (R24). -/
  | modeSet (h : CmdHdr) (ps : List Word64)
  /-- MEM_READ (R471). -/
  | memRead (h : CmdHdr) (ps : List Word64)
  /-- MEM_WRITE (R471). -/
  | memWrite (h : CmdHdr) (ps : List Word64)
  /-- MEM_FILL (R471). -/
  | memFill (h : CmdHdr) (ps : List Word64)
  /-- COPY_COMMAND (R471). -/
  | copyCommand (h : CmdHdr) (ps : List Word64)
  /-- MRT_WRITE (R318). -/
  | mrtWrite (h : CmdHdr) (ps : List Word64)
  /-- SCR_CLEAR (R173). -/
  | scrClear (h : CmdHdr) (ps : List Word64)
  /-- STRATUM_CONFIG (R414). -/
  | stratumConfig (h : CmdHdr) (ps : List Word64)
  /-- STRATUM_TENSOR (R412). -/
  | stratumTensor (h : CmdHdr) (ps : List Word64)
  /-- STRATUM_ARM (R418). -/
  | stratumArm (h : CmdHdr) (ps : List Word64)
  /-- STRATUM_ABANDON (R437). -/
  | stratumAbandon (h : CmdHdr) (ps : List Word64)
  /-- STRATUM_COMMITTED (R428). -/
  | stratumCommitted (h : CmdHdr) (ps : List Word64)
  /-- STRATUM_LIST (R471). -/
  | stratumList (h : CmdHdr) (ps : List Word64)
  /-- STRATUM_TIMER_EXPIRE (R439). -/
  | stratumTimerExpire (job : Word)
  /-- SHARD_FORM (R423). -/
  | shardForm (job : Word)
  /-- STRATUM_COMMIT (R428). -/
  | stratumCommit (job : Word)
  /-- STRATUM_COMMIT_TIMEOUT (R437). -/
  | stratumCommitTimeout (job : Word)
  /-- STR_ABANDON (R438). -/
  | strAbandon (d : Fin 12)
  /-- RESTORE (R440). -/
  | restore (h : CmdHdr) (ps : List Word64)
  /-- CAP_SET (R27). -/
  | capSet (h : CmdHdr) (ps : List Word64)
  /-- PWR_CAP_WRITE (R27). -/
  | pwrCapWrite (v : Word)
  /-- DOMAIN_STATE (R500). -/
  | domainState (h : CmdHdr) (ps : List Word64)
  /-- DOMAIN_CHANGE_DONE (R501). -/
  | domainChangeDone (code : Nat)
  /-- POWER_READ (R471). -/
  | powerRead (h : CmdHdr) (ps : List Word64)
  /-- GOVERNOR_SAMPLE (R581). -/
  | governorSample (watts : Nat)
  /-- CAP_UNMET (R507). -/
  | capUnmet
  /-- THERMAL_TRIP (R508). -/
  | thermalTrip
  /-- LANE_WAKE (R503). -/
  | laneWake (src : WakeSource)
  /-- SLUMP_DETECT (R510). -/
  | slumpDetect (cause : Nat)
  /-- SLUMP_SAVE_DONE (R511). -/
  | slumpSaveDone
  /-- SUPPLY_RETURN (R514). -/
  | supplyReturn
  /-- RESET (R546). -/
  | reset (h : CmdHdr) (ps : List Word64)
  /-- COLD_RESET (R537). -/
  | coldReset (straps : Straps) (puf : PufOutcome)
  /-- WARM_RESET (R545). -/
  | warmReset
  /-- HOST_RESET (R542). -/
  | hostReset
  /-- DIE_RESET (R547). -/
  | dieReset (die : Fin 14)
  /-- FW_GO (R485). -/
  | fwGo
  /-- FIRMWARE_VERIFY_DONE (R485). -/
  | firmwareVerifyDone
  /-- TB_CONFIG (R471). -/
  | tbConfig (h : CmdHdr) (ps : List Word64)
  /-- TB_RELEASE (R541). -/
  | tbRelease (h : CmdHdr) (ps : List Word64)
  /-- TB_READ (R471). -/
  | tbRead (h : CmdHdr) (ps : List Word64)
  /-- COUNTERS_READ (R559). -/
  | countersRead (h : CmdHdr) (ps : List Word64)
  /-- JOURNAL_READ (R553). -/
  | journalRead (h : CmdHdr) (ps : List Word64)
  /-- EVT_SUBSCRIBE (R460). -/
  | evtSubscribe (h : CmdHdr) (ps : List Word64)
  /-- JOURNAL_CLEAR (R553). -/
  | journalClear (h : CmdHdr) (ps : List Word64)
  /-- KEY_WRITE (R480). -/
  | keyWrite (h : CmdHdr) (ps : List Word64)
  /-- KEY_REVOKE (R483). -/
  | keyRevoke (h : CmdHdr) (ps : List Word64)
  /-- RIGHTS_SET (R491). -/
  | rightsSet (h : CmdHdr) (ps : List Word64)
  /-- PARTITION_SET (R490). -/
  | partitionSet (h : CmdHdr) (ps : List Word64)
  /-- OWNERSHIP_SET (R492). -/
  | ownershipSet (h : CmdHdr) (ps : List Word64)
  /-- ATTEST (R489). -/
  | attest (h : CmdHdr) (ps : List Word64)
  /-- IDENTITY_READ (R478). -/
  | identityRead (h : CmdHdr) (ps : List Word64)
  /-- DRF_CLEAR_GO (R558). -/
  | drfClearGo (u : Fin 15)
  /-- JOURNAL_PERSIST (R551). -/
  | journalPersist
  /-- HOST_WINDOW_WRITE (R522). -/
  | hostWindowWrite (fn : Fin 16) (off : Nat) (data : List Byte) (poisoned : Bool) (store : Bool)
  /-- HOST_WINDOW_READ (R522). -/
  | hostWindowRead (fn : Fin 16) (off : Nat) (len : Nat)
  /-- HOST_WRITE_RELEASE (R523). -/
  | hostWriteRelease (fn : Fin 16)
  /-- FLR (R525). -/
  | flr (fn : Fin 16)
  /-- MCTP_MESSAGE_RECEIVE (R529). -/
  | mctpMessageReceive (mtype : Nat) (iana : Nat) (pecOk : Bool) (words : List Word64)
  /-- BYPASS (R532). -/
  | bypass (tdi : List Bool)
  /-- IDCODE (R532). -/
  | idcode
  /-- SAMPLE_PRELOAD (R532). -/
  | samplePreload (pins : List Bool) (chain : List Bool)
  /-- EXTEST (R533). -/
  | extest (pins : List Bool)
  /-- CLAMP (R533). -/
  | clamp
  /-- HIGHZ (R533). -/
  | highz
  /-- DYNAMIC_ADDRESS_ASSIGNMENT (R529). -/
  | dynamicAddressAssignment (addr : BitVec 7)
  /-- HOST_LINK_TRAINED (R517). -/
  | hostLinkTrained (rate : Fin 7) (width : Fin 6) (flit : Bool)
  deriving DecidableEq, Repr

end Sys2Proof
end

