-- ==== Sys2Proof/Machine/State.lean ====
section
/-! DEFINITION. The state of one package as plain data, the reasons a command can stop, and the state right
after a cold reset (the Reset columns of the register tables). Registers live in one sparse map keyed by their
control-space offset (R515), bytes of memory in one sparse map keyed by package-local address (R274); what an
unlisted key reads as stands in Machine/Registers.lean and Machine/Memory.lean. -/

namespace Sys2Proof.Machine

/-- A finite map from numbers, keys strictly rising; what an unlisted key holds is said where the map is read. -/
abbrev FMap (α : Type) := List (Nat × α)

/-- A pending write of RWS fields (R8): the bits it covers and their values. -/
structure Shadow where
  mask : Word
  val : Word
  deriving DecidableEq, Repr

/-- Scratch tag states (R159). -/
inductive Tag where
  | empty | full | poison
  deriving DecidableEq, Repr

/-- A set of granules kept as its members, or as the members missing from the whole (R285, R291). -/
structure GranSet where
  whole : Bool
  exc : List Nat
  deriving DecidableEq, Repr

/-- Where a matrix operation stands in its schedule (R78, R83): bytes of the W block that loads, the pass (none while the
first block loads) and the cycle in the pass. -/
structure MmaPos where
  loaded : Nat
  pass : Option Nat
  q : Nat
  deriving DecidableEq, Repr

/-- A row of A in the array (R78, R84): the cycle from which its results are readable, its place in the order of entry, its
bytes and those of the W block in use, each with the scales at the end. -/
structure MmaRow where
  due : Nat
  place : Nat
  a : List Byte
  w : List Byte
  deriving DecidableEq, Repr

/-- A matrix operation that runs (R78): its descriptor words, bank and start. -/
structure MmaRun where
  desc : List Word
  bank : Nat
  init : Bool
  /-- the issue cycle it has come to, and where it stands there (R83) -/
  cycle : Nat
  pos : MmaPos
  /-- rows that entered the array and have not landed, rows entered, and rows landed -/
  rows : List MmaRow
  entered : Nat
  upto : Nat
  /-- the W block in use, and what has come of the next one (R78, R83) -/
  wCur : List Byte
  wNext : List Byte
  /-- physical slots that TAGOP 1 has yet to empty, and the cycle of each one's latest read (R113) -/
  reads : List Nat
  lastRead : FMap Nat
  tagop : Nat
  /-- words that entered the switch and have not been taken: cycle, selector code of the input, word (R82, R86) -/
  inWords : List (Nat × Nat × List Byte)
  deriving DecidableEq, Repr

/-- One vector instruction's place in its program (R140, R141), relative to S0: start, cycles, latency, elements per cycle,
last write, what it moves per element through the read port, the write port, the switch output and the switch input in
quarter bits, the elements it reads, and the bytes that it writes to scratch: first, without the slot offset of the issue,
and how many. -/
structure VSched where
  s : Nat
  c : Nat
  l : Nat
  rate : Nat
  last : Nat
  rb : Nat
  wb : Nat
  sbr : Nat
  sbw : Nat
  count : Nat
  into : Nat
  intoLen : Nat
  deriving DecidableEq, Repr

/-- A vector program that runs (R134): program number, issue k, parameters, next instruction, TC/TAGOP, S0 and the plan
of its instructions (R141). -/
structure VecRun where
  prog : Nat
  k : Nat
  slotOfs : Nat
  indexOfs : Nat
  next : Nat
  tagop : Nat
  s0 : Nat
  sched : List VSched
  /-- flags of coming cycles: cycle, and OVF, UNF, INV as bits 0 to 2 (R156) -/
  flags : List (Nat × Nat)
  deriving DecidableEq, Repr

/-- A SEND or RECV stream (R114): first logical slot, count, TAGOP, first cycle, and the 128-byte words that it has moved. -/
structure Stream where
  slot : Nat
  count : Nat
  tagop : Nat
  start : Nat
  did : Nat
  deriving DecidableEq, Repr

/-- A 128-byte word on a switch input (R86): the cycle, the tile, the selector code of the input (5 is local). -/
structure Flight where
  cycle : Nat
  tile : Nat
  inp : Nat
  word : List Byte
  deriving DecidableEq, Repr

/-- How a request completes at its source (R357, R366, R216). -/
inductive Landing where
  | none
  | tile (d t id ofs : Nat)              -- request `id` of a tile, from byte `ofs` of what it lands
  | core (c id : Nat)                    -- a core load or fetching atomic
  | coreWrite (c : Nat)                  -- a core store or atomic without value
  | copy (e desc : Nat)                  -- a write of a copy descriptor
  | pkc (h : CmdHdr) (opcode : Nat)      -- an access of a command
  | host (fn id ofs : Nat)               -- a piece of a window request of a function
  | remote (key ofs : Nat)               -- a piece of an accepted request of another place (R347)
  | tileSource (d t id ofs : Nat)        -- bytes that a tile's copy reads at another place (R357)
  | copySource (e desc ofs : Nat)        -- bytes that a copy descriptor reads at another place (R357)
  | solver (e : Nat)                     -- an access of a solver engine to another place (R256, R259)
  | stratum (job : Nat)                  -- a write of the package controller for a job's stratum (R427)
  deriving DecidableEq, Repr

/-- The operation of a request (R282, R342). -/
inductive MemOp where
  | read (len : Nat)
  | write (data : List Byte)
  | copyData (data : List Byte)
  | shardData (data : List Byte)
  | atomic (aop : Nat) (size64 : Bool) (operand : List Byte)
  deriving DecidableEq, Repr

/-- A request on its way to its home (R340-R352). `addr` is package-local. -/
structure Req where
  id : Nat
  who : Agent
  /-- place of the source, its SRC_DIE and SRC_UNIT as die × 1,024 + unit (R319), and channel whose rights it carries
  (R491) -/
  place : Nat
  srcUnit : Nat
  chan : Option Nat
  /-- destination place, space and package-local address (R315) -/
  dst : Nat
  space : Nat
  addr : Nat
  op : MemOp
  flag : Bool
  fill : Bool
  combine : Bool
  job : Nat
  secure : Bool
  /-- sequence number when it came over the fabric (R345) -/
  seq : Nat
  poison : Bool
  land : Landing
  /-- the protection of the command that it belongs to (R466); none: that of the moment (R493) -/
  grant : Option Grant := none
  deriving DecidableEq, Repr

/-- What a home answers (R276, R294, R347): status, bytes of a read or an old value, and whether they carry poison. -/
structure Reply where
  status : Nat
  data : List Byte
  poison : Bool
  deriving DecidableEq, Repr

/-- The reads of a copy's SOURCE that have not all come back (R357): its first target access without the bytes, their number,
FLAG, the AUX of COUNTER, the reads that are not answered, and what has come by offset: bytes, poison and status. -/
structure SourceFetch where
  base : Req
  len : Nat
  flag : Bool
  counter : Option Nat
  left : Nat
  got : List (Nat × List Byte × Bool × Nat)
  deriving DecidableEq, Repr

/-- An outstanding request of a tile (R96, R357): its number, OP of R356, the physical slots it lands in (`lands` from
`first`; those from `limit` on lie outside the task's region at issue, R168), the bytes a READ or fetching atomic awaits,
and what has come back. A write request counts in fence epoch `epoch` (R354). -/
structure TileReq where
  id : Nat
  op : Nat
  first : Nat
  lands : Nat
  limit : Nat
  len : Nat
  /-- the request lands data: a READ or an atomic that fetches -/
  fetch : Bool
  /-- accesses not yet answered -/
  left : Nat
  /-- bytes that arrived, by offset from the first landing byte, with their poison -/
  got : List (Nat × List Byte × Bool)
  /-- landing slots that are filled or POISON -/
  done : List Nat
  status : Nat
  bytes : Nat
  epoch : Nat
  job : Nat
  /-- reads of a SOURCE at another place, before the copy's own packets (R357) -/
  source : Option SourceFetch
  deriving DecidableEq, Repr

/-- A recent write to a tile's scratch that a read in flight does not see yet (R163): the wall cycle in which it landed, its
package-local address, and the bytes it replaced. -/
structure LateWrite where
  wall : Nat
  addr : Nat
  old : List Byte
  deriving DecidableEq, Repr

/-- One tile apart from its registers and scratch (R77, R86, R114, R130, R134, R163, R354). -/
structure TileX where
  /-- next micro-instruction (R114) -/
  pc : Nat
  /-- loop counters 0-7 (R114) -/
  loops : FMap Nat
  /-- the tile has issued END in this step (R116) -/
  ended : Bool
  /-- issue cycle of the next micro-instruction in this step (R91) -/
  cycle : Nat
  /-- route entries in force: first cycle and entry, newest first; entry 0 before the first (R112) -/
  hist : List (Nat × Nat)
  /-- the route entry words of the active slot, copied when it became active (R87, R125) -/
  routes : List Word
  /-- bytes of VB0-VB3 (regions 0-3) and AB0, AB1 (4, 5), 32 KiB each (R130, R145); unlisted 0 -/
  banks : List Host.Cell
  /-- matrix operation in the array (R78) -/
  mma : Option MmaRun
  /-- vector program in the engine (R134) -/
  vec : Option VecRun
  /-- issues of each program since the step began (R134) -/
  issues : FMap Nat
  /-- SEND streams, oldest first: one whose last word is due in the issue cycle of the next stands before it (R114) -/
  snd : List Stream
  /-- RECV streams, likewise (R114) -/
  rcv : List Stream
  /-- 128-byte words on the switch local output: cycle and word (R86) -/
  locOut : List (Nat × List Byte)
  /-- recent writes, newest first (R163) -/
  late : List LateWrite
  /-- outstanding requests, oldest first (R96) -/
  reqs : List TileReq
  /-- accesses of its requests that wait to be issued, with the status of reading their bytes (R357) -/
  waiting : List (Req × Nat)
  /-- fences issued, arming counted as one (R354) -/
  epoch : Nat
  /-- acknowledged writes of each epoch: highest status, and bytes acknowledged OK (R354) -/
  acks : FMap (Nat × Nat)
  deriving DecidableEq, Repr

/-- A section of a mould image (R106, R107): type, tile (0xFFFF die-wide), offset, length, count. -/
structure Section where
  ty : Nat
  tile : Nat
  ofs : Nat
  len : Nat
  count : Nat
  deriving DecidableEq, Repr

/-- A seed entry of a tile's seed store (R151): tensor, block and the 64 lane seeds. -/
structure SeedEntry where
  tile : Nat
  tensor : Nat
  block : Nat
  seeds : List Nat
  deriving DecidableEq, Repr

/-- The store of one mould slot (R118): image bytes, section table, seeds, job seed, and a load in progress. -/
structure SlotX where
  image : List Byte
  sections : List Section
  seeds : List SeedEntry
  jobSeed : Nat
  /-- command being served while LOADING or CHECKING, image address, size and expected digest (R119) -/
  load : Option (CmdHdr × Nat × Nat × List Byte)
  deriving DecidableEq, Repr

/-- What a held die waits for (R92, R94): tile, physical slot, write access. -/
structure WaitX where
  tile : Nat
  slot : Nat
  write : Bool
  deriving DecidableEq, Repr

/-- A hold of the die (R92, R95): what it waits for, the grain it began, the issue cycle that waits and the wall cycle
of that issue. -/
structure HoldX where
  waits : List WaitX
  since : Nat
  cycle : Nat
  wall : Nat
  deriving DecidableEq, Repr

/-- The closing barrier or vote of the running step (R31, R193): entered, root completion, CGRAIN, and the grain by which
every member of the team has it. -/
structure ClosingX where
  calls : Nat
  root : Nat
  cgrain : Nat
  known : Nat
  deriving DecidableEq, Repr

/-- What waits for the clears of R174: a TASK_SET, or a register write that sets VALID of a task: control-space offset and
value. -/
inductive ClearTask where
  | none
  | set (h : CmdHdr) (ps : List Word64)
  | write (a : Nat) (v : Word)
  deriving DecidableEq, Repr

/-- A scratch clear in progress (R173): first physical slot, count, slots done and the wall cycle of its GO; the ranges that
follow it, and what waits for them (R174). -/
structure ClearX where
  first : Nat
  count : Nat
  did : Nat
  go : Nat
  rest : List (Nat × Nat)
  task : ClearTask
  deriving DecidableEq, Repr

/-- One compute die apart from its registers (R91-R104, R119, R124, R163, R164, R174, R190-R196, R395-R397, R420). -/
structure DieX where
  /-- STOP waits for the next cut (R101) -/
  stopPending : Bool
  /-- steps the task in the die has run since it entered (R124) -/
  turn : Nat
  /-- words on their way through the switches (R86) -/
  flights : List Flight
  /-- words in the link adapters, oldest first: selector code of the edge (2 E, 3 S, 4 W), edge tile, word (R88, R90) -/
  adapters : List (Nat × Nat × List Byte)
  /-- a switch time runs: grain at which cycle 0 may issue (R125) -/
  switching : Option Nat
  /-- a hold (R92) -/
  hold : Option HoldX
  /-- wall cycles of the die: the present one, that of issue cycle 0, the issue cycles of ended holds with their lengths
  (R92), and the wall cycle up to which a stopped die goes on counting -/
  wall : Nat
  wall0 : Nat
  holds : List (Nat × Nat)
  wallTo : Nat
  /-- tag changes by slot number, newest first: the wall cycle from which an examination sees the change, and the tag
  before it (R164) -/
  fresh : FMap (List (Nat × Tag))
  /-- closing calls of the step (R31) -/
  closing : ClosingX
  /-- grain of the refire switch that a vote has fixed (R192) -/
  refireAt : Option Nat
  /-- the run in progress is a refire (R191) -/
  refired : Bool
  /-- lowest tile that raised OVF in this run (R199) -/
  ovfTile : Option Nat
  /-- 16,384ths of a grain not yet counted as a cycle (R395) -/
  frac : Nat
  /-- period that places the planned cuts, 0 without a schedule (R100) -/
  sched : Nat
  /-- first grain after END (R100) -/
  endAt : Nat
  /-- scratch base and bound loaded at the entry of the task in the die (R125, R166) -/
  base : Nat
  bound : Nat
  /-- counts the runs since arming, so that a call of a stopped run governs no later cut (R31) -/
  run : Nat
  /-- mould slot stores 0-3 (R118) -/
  slots : FMap SlotX
  /-- clear in progress (R173) -/
  clear : Option ClearX
  /-- regions other jobs held since the last clear: job, first slot, count (R174) -/
  holders : List (Nat × Nat × Nat)
  /-- latent upsets of the scratch arrays (R175, R176) -/
  upsets : List Upset
  /-- scratch dirty granules, cut set and reserve assignment (R420) -/
  sDirty : GranSet
  sCut : GranSet
  /-- cut granule to its reserve granule, with the preserved slots (R420) -/
  sRsv : FMap (Nat × List Nat)
  /-- active clock demands by CLK_CAUSE bit: period (R397) -/
  demands : FMap Nat
  /-- grain since which a demand's condition has been clear (R397, R582) -/
  calm : FMap Nat
  /-- latest readings of the regions: temperature and mV (R398) -/
  sensors : FMap (Int × Int)
  /-- COUNTERS_READ commands that wait for the cut (R559) -/
  atCut : List (CmdHdr × Nat)
  deriving DecidableEq, Repr

/-- A memory stack and its controller apart from registers (R279, R283, R285-R289, R293). -/
structure StackX where
  /-- pseudo-channel queues, oldest first (R279) -/
  queues : FMap (List Req)
  /-- operations applied whose answers have not left, oldest first -/
  answers : List (Req × Reply)
  /-- pseudo-channels whose front operation is held for a reserve granule (R288) -/
  held : List Nat
  /-- last order-sensitive atomic source of each granule since the cut: agent, place and unit (R283) -/
  lastAtomic : FMap (Agent × Nat × Nat)
  /-- dirty bitmap (R285) -/
  dirty : GranSet
  /-- cut set (R286) -/
  cut : GranSet
  /-- cut granule to reserve granule (R287) -/
  rsv : FMap Nat
  /-- latent upsets of the arrays (R293) -/
  upsets : List Upset
  deriving DecidableEq, Repr

/-- A digest job (R292, R299): granules in order, cut reads or not, and what it is for: the job's registered piece of that
index, with the runs of its shard as offset and length (R423). -/
structure DigestJob where
  unit : Nat
  granules : List Nat
  cutReads : Bool
  job : Nat
  piece : Nat
  runs : List (Nat × Nat)
  deriving DecidableEq, Repr

/-- The far-tier port apart from registers (R298, R300, R527). -/
structure FarX where
  /-- accesses waiting per device (R298) -/
  queues : FMap (List Req)
  /-- accesses applied whose answers have not left, oldest first, with their device -/
  answers : List (Nat × Req × Reply)
  /-- last order-sensitive atomic of a granule: job and source (R298) -/
  lastAtomic : FMap (Nat × Agent × Nat × Nat)
  /-- devices that went down and whose COMMIT has not been written to 0 and to 1 since (R527) -/
  stale : List Nat
  deriving DecidableEq, Repr

/-- A load or fetching atomic of a core that waits for its reply (R204, R212, R216): destination register, address, size
in bytes, address of the instruction; a fill of a line, an instruction fetch, or an atomic. -/
structure CoreLoad where
  rd : Nat
  addr : Nat
  size : Nat
  pc : Nat
  line : Bool
  fetch : Bool
  atomic : Bool
  /-- a line for a vector load (R238) -/
  vec : Bool
  deriving DecidableEq, Repr

/-- A line of a core's write buffer (R206): its address / 128, the security state of its stores, and the bytes stored. -/
structure BufLine where
  line : Nat
  secure : Bool
  bytes : List (Option Byte)
  deriving DecidableEq, Repr

/-- A control core apart from its CPC registers (R202-R220, R223-R239). -/
structure CoreX where
  pc : Nat
  /-- g1-g31; g0 reads zero (R202) -/
  g : FMap Word64
  /-- bits of v0-v31 as bytes, 1,024 a register (R223); unlisted 0 -/
  v : List Host.Cell
  /-- masks m1-m7 of 256 bits; m0 reads ones (R225) -/
  m : FMap (BitVec 256)
  vl : Nat
  vstart : Nat
  fsr : Word
  /-- saved level and address of the last entry (R203) -/
  savedPl : Nat
  savedPc : Nat
  /-- what the last entry was for (R203, R218): an interrupt source, or 0x100 ILLEGAL, 0x101 ACCESS, 0x102 POISON, 0x103 a
  translation exception, 0x104 GATE, 0x105 NMI -/
  cause : Nat
  /-- loads and fetching atomics waiting, by request number (R340) -/
  loads : FMap CoreLoad
  /-- replies that have come back: number to status, bytes and poison (R212, R216) -/
  replies : FMap (Nat × List Byte × Bool)
  /-- fills whose line must not be installed (R212) -/
  noInstall : List Nat
  /-- lines of the write buffer not yet sent, oldest first (R206) -/
  wbuf : List BufLine
  /-- stores sent and not acknowledged: request number and line (R206, R210) -/
  sent : List (Nat × Nat)
  /-- atomics without a value not yet acknowledged (R210, R340) -/
  atomics : Nat
  /-- bytes that came for the element of a vector load in progress: address and bytes (R212, R238) -/
  vfill : List (Nat × List Byte)
  /-- FENCE.G waits (R210) -/
  fencing : Bool
  /-- machine-error source 67 (R218) -/
  machineError : Bool
  /-- sources 64-66 pending (R218) -/
  pendGrain : Bool
  pendIpi : Bool
  pendBatch : Bool
  /-- invalidation in progress: base and length of the range, none for all (R211) -/
  inval : Option (Nat × Nat)
  /-- grain before which it does not complete (R213) -/
  invalEnd : Nat
  /-- level and STATE to restore after the redo that package firmware runs on the core (R263) -/
  lent : Option (Nat × Nat)
  /-- high compare word written since the low (R218 table) -/
  cmpArmed : Bool
  deriving DecidableEq, Repr

/-- A processor die's caches and clock (R205-R215, R397). -/
structure ProcX where
  /-- cached lines by line address (global address / 128): 128 bytes each -/
  lines : FMap (List Byte)
  demands : FMap Nat
  calm : FMap Nat
  sensors : FMap (Int × Int)
  frac : Nat
  deriving DecidableEq, Repr

/-- A descriptor submitted to an engine: its global address, the submitter's channel and security state (R256, R366),
the job its accesses run under (log entry 17), and the COPY command that brought the descriptor's words in place of an
address. -/
structure Submit where
  addr : Nat
  chan : Option Nat
  secure : Bool
  job : Nat
  cmd : Option (CmdHdr × List Word64)
  deriving DecidableEq, Repr

/-- A solver engine apart from its registers (R253-R273). -/
structure SolverX where
  subLo : Word
  /-- waiting descriptors (R273) -/
  queue : List Submit
  /-- running batch: descriptor words, submission, START grain (R268) -/
  batch : Option (List Word × Submit × Nat)
  /-- status words of the processed matrices (R257) -/
  stats : List (Nat × Nat)
  /-- the engine has processed every matrix (R263) -/
  done : Bool
  /-- a redo waits or runs (R263) -/
  redo : Bool
  /-- the batch ended with DENIED (R256) -/
  denied : Bool
  /-- right-hand sides of handed matrices as the engine read them: X may stand in their place (R263) -/
  rhs : FMap (List Byte)
  /-- matrices started before DEADLINE when STOP_AT_DEADLINE applies (R270) -/
  limit : Option Nat
  /-- ranges of package-local addresses that other agents wrote while the batch runs (R260) -/
  stirred : List (Nat × Nat)
  /-- accesses to other places not yet issued, and those outstanding (R340) -/
  waiting : List (Req × Nat)
  out : Nat
  deriving DecidableEq, Repr

/-- A started copy descriptor (R364, R366). -/
structure CopyDesc where
  sub : Submit
  id : Nat
  op : Nat
  /-- packets not yet acknowledged -/
  left : Nat
  status : Nat
  bytes : Nat
  epoch : Nat
  /-- AUX of a fetching atomic (R357) -/
  old : Option Nat
  /-- reads of a SOURCE at another place, before the descriptor's own packets (R357) -/
  source : Option SourceFetch
  deriving DecidableEq, Repr

/-- A copy engine apart from its registers (R364-R367). -/
structure CopyX where
  subLo : Word
  queue : List Submit
  running : List CopyDesc
  /-- accesses not yet issued, with the status of reading their bytes, and packets outstanding (R340) -/
  waiting : List (Req × Nat)
  out : Nat
  nextId : Nat
  /-- fences started since reset (R354) -/
  epoch : Nat
  /-- acknowledged writes of each epoch: highest status, and bytes acknowledged OK (R354) -/
  acks : FMap (Nat × Nat)
  deriving DecidableEq, Repr

/-- A request sent to another place and not yet covered (R344). -/
structure Sent where
  dst : Nat
  seq : Nat
  req : Req
  epoch : Nat
  grain : Nat
  deriving DecidableEq, Repr

/-- An accepted request of another place that is not yet applied (R345-R350): its number here, the request, pieces not yet
applied, the bytes that came and the highest status. -/
structure InReq where
  key : Nat
  req : Req
  /-- KIND of its packet (R342) -/
  kind : Nat
  left : Nat
  status : Nat
  data : List (Nat × List Byte)
  poison : Bool
  /-- places and sequences that its acknowledgement names: one, or the components of a COMBINED packet (R362) -/
  sources : List (Nat × Nat)
  deriving DecidableEq, Repr

/-- The window of one source place (R345): base, sequence numbers above it whose bits are set, and the statuses other than
OK that its requests were acknowledged with (R346). -/
structure Window where
  base : Nat
  bits : List Nat
  bad : FMap Nat
  deriving DecidableEq, Repr

/-- The fabric die's remote-memory and routing state apart from registers (R330, R343-R352, R361). -/
structure FabricX where
  /-- requests issued and waiting to be numbered and sent (R344) -/
  reqQ : List Req
  nextReq : Nat
  seqNext : FMap Nat
  sent : List Sent
  windows : FMap Window
  /-- remote requests accepted but held (R350, R351) -/
  held : List Req
  /-- accepted remote requests not yet applied at their home -/
  applying : List InReq
  /-- response store: source place, sequence, response (R348) -/
  resp : List (Nat × Nat × Packet)
  /-- acknowledgements ready: destination, sequence, status, grain (R347) -/
  acks : List (Nat × Nat × Nat × Nat)
  unreachable : List Nat
  /-- packets waiting for a next hop (PACKET_FORWARD) -/
  inject : List Packet
  /-- packets that reached their place, oldest first (R321) -/
  delivered : List Packet
  /-- estimates of R325 taken on the ports of one mesh port group alone (R326) -/
  peerEst : FMap Nat
  /-- latest advertised congestion of each place: node, group, system (R322) -/
  adverts : FMap (Nat × Nat × Nat)
  /-- timebase packets sent on each port, oldest first (R404) -/
  tc4 : List (Nat × Nat × TbMsg)
  deriving DecidableEq, Repr

/-- A Gulpor port apart from its registers (R305-R311, R333, R335). -/
structure PortX where
  txSeq : Nat
  /-- words of sent packets that do not yet fill a flit (R308), with the first word of each packet marked -/
  txWords : List (Word × Bool)
  /-- retry buffer, oldest first (R309) -/
  retry : List (Nat × List Word)
  /-- data SEQ expected next (R309) -/
  rxSeq : Nat
  discarding : Bool
  /-- latest block number, and whether that block is uncorrectable (R306) -/
  blockCount : Option Nat
  blockBad : Bool
  /-- replays in a row of one SEQ (R310) -/
  replaySeq : Nat
  replays : Nat
  /-- grain of the latest flit that passed its CRC, and since when the retry buffer is full (R310) -/
  lastGood : Nat
  fullSince : Option Nat
  /-- cumulative credits heard and units used, by TC × 14 + hop class (R310, R311) -/
  credits : FMap Nat
  used : FMap Nat
  /-- 64-byte units of the own receive buffers freed, by the same key: what control flits carry (R310) -/
  freed : FMap Nat
  /-- packets waiting for the output, HOPS already counted (R323) -/
  outQ : List Packet
  /-- packets of TC0 and TC5 served in the round (R311) -/
  wrr : Nat
  /-- control flits sent at an event: type and NAK_SEQ (R309, R333, R335) -/
  control : List (Nat × Nat)
  /-- number of the transmit block being filled, its flits so far, and the blocks sent: number and five flits (R306) -/
  txBlock : Nat
  txFlits : List (List Word)
  blocks : List (Nat × List (List Word))
  /-- words of the packet being received, and received packets for the router, with overruns marked (R308, R334) -/
  rxWords : List Word
  rxPkts : List (Packet × Bool)
  malStart : Nat
  malCount : Nat
  malNoted : Bool
  trainSince : Nat
  lastKnock : Nat
  knocking : Bool
  peerDigest : List Word
  deriving DecidableEq, Repr

/-- A team installed at this package (R370-R372): members in rank order, their places and dies, and what this package's
nodes of the sieve tree know. The tree is a function of the places that are not lost. -/
structure TeamX where
  members : List Word
  timeout : Nat
  /-- fault status, 0 for none (R382, R392) -/
  faulted : Nat
  /-- next sequence number of each rank (R378) -/
  nextSeq : FMap Nat
  /-- (place, die) of each rank -/
  homes : List (Nat × Nat)
  /-- parent place in force, none at the root -/
  parent : Option Nat
  /-- nodes that re-attached here (R390) -/
  extra : List Nat
  /-- places declared lost here (R390) -/
  lost : List Nat
  /-- grain at which each neighbour was last heard (R390) -/
  heard : FMap Nat
  /-- job of the command that created it, whose modes govern R386 -/
  job : Nat
  deriving DecidableEq, Repr

/-- A call entered at this package by one member (R377, R378). -/
structure CallX where
  /-- run of the die that entered it (R31) -/
  run : Nat
  team : Nat
  seq : Nat
  die : Nat
  rank : Nat
  words : List Word
  entered : Nat
  fingerprint : Nat
  vote : Bool
  /-- release that waits for CGRAIN (R384) -/
  waiting : Option ReleaseMsg
  /-- a call of the package controller for a job's stratum (R415): the job, and the buffer that stands for SRC and DST -/
  own : Option (Nat × List Byte)
  deriving DecidableEq, Repr

/-- A round at this package's nodes (R380-R392). Level 0 holds the package's own members, level 1 the package nodes of
the node, level 2 the node heads of the group, level 3 the group heads; an input of level 4 is what this package passes
up. -/
structure RoundX where
  team : Nat
  seq : Nat
  /-- inputs in arrival order with their level; this package's own partials carry its own place -/
  inputs : List (Nat × UpMessage)
  upSent : Bool
  /-- the agreement release has arrived (R383) -/
  agreed : Bool
  /-- partial chunks in arrival order: level, place, chunk, bytes (R388) -/
  parts : List (Nat × Nat × Nat × List Byte)
  /-- chunks passed up -/
  sentUp : List Nat
  /-- chunks held for the nodes below: number and bytes -/
  chunks : FMap (List Byte)
  /-- chunks written to local members -/
  written : List Nat
  /-- chunks sent to a node below, not acknowledged and acknowledged (R388) -/
  unacked : List (Nat × Nat)
  acked : List (Nat × Nat)
  done : List (Nat × List Nat)
  doneSent : Bool
  flags : Nat
  /-- levels whose arrival order was counted (R386) -/
  drifted : List Nat
  deriving DecidableEq, Repr

/-- A message the collective engine has sent on TC3: destination place, kind and body. -/
inductive ColMsg where
  | up (dst : Nat) (m : UpMessage)
  | release (dst : Nat) (m : ReleaseMsg)
  | chunk (dst : Nat) (m : ChunkMsg)
  | chunkAck (dst : Nat) (team seq chunk : Nat)
  | done (dst : Nat) (team seq : Nat) (ranks : List Nat) (flags : Nat)
  | heartbeat (dst : Nat) (team : Nat)
  | resume (dst : Nat) (team seq chunk : Nat)
  /-- asks the package of the ROOT member for one chunk of its SRC (R391) -/
  | fetch (dst : Nat) (team seq chunk : Nat)
  deriving DecidableEq, Repr

/-- The collective engine apart from its registers (R370-R393). -/
structure CollX where
  teams : FMap TeamX
  calls : List CallX
  rounds : List RoundX
  out : List ColMsg
  entLo : Word
  deriving DecidableEq, Repr

/-- The timebase apart from its registers (R401-R408). -/
structure TbX where
  /-- the counter (R401) -/
  now : Nat
  /-- it has been set by the first lock (R402) -/
  locked : Bool
  /-- offsets gathered for the average, 1/65,536 grain (R405) -/
  offsets : List Int
  /-- correction still to slew, 1/65,536 grain (R405) -/
  slew : Int
  /-- SYNC being answered: port, send time, receipt, request send (R405) -/
  sync : Option (Nat × Nat × Nat × Nat)
  /-- announced distance and grandmaster of each port's peer, with the grain heard (R404, R407) -/
  peers : FMap (Nat × Nat × Bool × Nat)
  /-- PPS edges seen since lock (R408) -/
  ppsCount : Nat
  ppsMissed : Nat
  gmConflict : Bool
  /-- TB_NOW_HI as the latest read of TB_NOW_LO latched it -/
  hiLatch : Word
  deriving DecidableEq, Repr

/-- A session of a channel (R463, R465). -/
structure Session where
  role : Nat
  slot : Nat
  job : Nat
  /-- grain of the last word, KEEPALIVE or reply (R465) -/
  last : Nat
  standing : Bool
  deriving DecidableEq, Repr

/-- A mailbox channel apart from its registers (R450-R465). -/
structure ChanX where
  reqQ : List Word64
  /-- words taken of the packet in progress (R452) -/
  taken : List Word64
  loLatch : Word
  rspQ : List Word64
  rspHi : Word
  /-- words left of each reply in the queue, its sequence, and whether it is the final one (R458) -/
  replies : List (Nat × Word × Bool)
  discard : Bool
  /-- acknowledgements not yet written: sequence and code (R455) -/
  acks : List (Word × Nat)
  session : Option Session
  /-- outstanding commands: sequence numbers (R458) -/
  outstanding : List Word
  /-- nonce and grain of the challenge (R462) -/
  nonce : Option (List Byte × Nat)
  /-- subscribed doorbell classes by unit address: bits 16-27 (R460) -/
  subs : FMap Nat
  deriving DecidableEq, Repr

/-- A command that has passed its checks (R410, R454, R467). -/
structure HeldCmd where
  hdr : CmdHdr
  opcode : Nat
  params : List Word64
  /-- PLEN, which differs from the words held when INDIRECT is 1 (R446) -/
  plen : Nat
  /-- its OK acknowledgement has been written (R455) -/
  acked : Bool
  /-- an FLR has discarded its replies (R525) -/
  mute : Bool
  deriving DecidableEq, Repr

/-- A command that runs: its parts have not all answered (R18-R23, R467). -/
structure FwdX where
  hdr : CmdHdr
  opcode : Nat
  /-- parts still awaited: member packages, dies, or request numbers of its accesses -/
  waiting : List Nat
  /-- statuses that came back: part and status -/
  statuses : List (Nat × Nat)
  /-- parameters of the reply gathered so far -/
  data : List Word64
  completion : Nat
  sentAt : Nat
  /-- it began late (R410) -/
  late : Bool
  mute : Bool
  /-- SET of a forwarded COUNTERS_READ (R560) -/
  sel : Nat
  deriving DecidableEq, Repr

/-- The package controller's command state (R410, R19). -/
structure PkcX where
  held : List HeldCmd
  forwards : List FwdX
  /-- pending reset: type, die and grain (R547) -/
  resets : List (Nat × Nat × Nat)
  deriving DecidableEq, Repr

/-- A key slot of the journal die (R479, R480, R483). -/
structure KeySlot where
  ty : Nat
  maxRole : Nat
  channels : Nat
  tx : Bool
  key : List Byte
  secret : List Byte
  deriving DecidableEq, Repr

/-- Identity, firmware and protection state (R475-R493). -/
structure SecX where
  /-- helper data written: number of the enrolment that made the PUF key; none while blank (R476) -/
  enrolled : Option Nat
  identitySecret : List Byte
  slots : FMap KeySlot
  minSvn : Nat
  fwDigest : List Byte
  fwRunning : Bool
  /-- rights entries of a channel (R491); unlisted: the two reset entries -/
  rights : FMap (List Word64)
  /-- owner channel of a die (R492) -/
  owners : FMap Nat
  partBase : Nat
  partLimit : Nat
  deriving DecidableEq, Repr

/-- Power state apart from PWR registers (R496-R514, R581). -/
structure PwrX where
  /-- changes in progress: domain code to target state and the command that asked (R498); a target of 4 or more is target
  - 4, after which the domain rises again for a wake (R502) -/
  changing : FMap (Nat × Option CmdHdr)
  /-- governor samples of the latest 1 ms, newest first (R505, R581) -/
  samples : List Nat
  /-- samples in a row whose 1 ms mean exceeds the cap at full demand (R507) -/
  aboveCap : Nat
  capNoted : Bool
  /-- stack temperature readings (R506) -/
  stackTemp : FMap Int
  /-- a thermal trip holds (R508) -/
  tripped : Bool
  /-- the record of the sequence is complete (R510) -/
  saved : Bool
  /-- a slump sequence runs: cause and grain (R510) -/
  slump : Option (Nat × Nat)
  /-- MAIN_EN output (R534) -/
  mainEn : Bool
  deriving DecidableEq, Repr

/-- An entry of the error journal (R549). -/
structure JEntry where
  status : Nat
  cls : Nat
  source : Nat
  seq : Nat
  grain : Nat
  unit : Nat
  peer : Option Nat
  job : Nat
  count : Nat
  detail : List Word
  deriving DecidableEq, Repr

/-- A slump save record (R511). -/
structure SaveRec where
  saveSeq : Nat
  cause : Nat
  grain : Nat
  place : Nat
  tbState : Nat
  /-- the record has been written to its end, tag included -/
  valid : Bool
  /-- job, address of the last committed commit record, column, stratum, step -/
  jobs : List (Nat × Nat × Nat × Nat × Nat)
  /-- channel, role, key slot, idle time left, job -/
  sessions : List (Nat × Nat × Nat × Nat × Nat)
  entries : List JEntry
  deriving DecidableEq, Repr

/-- The error journal and save areas of the journal die, and the controller's buffer (R511, R540, R549-R553). -/
structure JrnX where
  next : Nat
  buf : List JEntry
  ring : List JEntry
  lost : Nat
  reported : Nat
  areaA : Option SaveRec
  areaB : Option SaveRec
  jobRecords : List (Nat × Nat × Nat × Nat × Nat)
  deriving DecidableEq, Repr

/-- A shard of the open stratum (R423, R426, R431): index of its piece, TENSOR_ID, SHARD_INDEX, address, bytes and
digest; a replica that sends no bytes has no address. -/
structure Leaf where
  piece : Nat
  tensor : Nat
  shard : Nat
  addr : Option Nat
  bytes : Nat
  digest : List Byte
  deriving DecidableEq, Repr

/-- The end of a call that the package controller entered (R426, R427): its operation, reduction, the tensor it is about,
status, result and buffer. -/
structure CtlResult where
  op : Nat
  red : Nat
  tag : Nat
  status : Nat
  result : Nat
  data : List Byte
  deriving DecidableEq, Repr

/-- How far the open stratum has come at this package (R418-R428). -/
inductive StrPhase where
  | armed | digesting | comparing | leaves | voting | manifest | record
  deriving DecidableEq, Repr

/-- The open stratum of a job at this package: armed, and neither committed nor abandoned (R417). -/
structure StrOpen where
  step : Nat
  column : Nat
  stratum : Nat
  bedrock : Bool
  /-- the STRATUM_ARM that waits for its end (R437) -/
  cmd : Option CmdHdr
  phase : StrPhase
  /-- dies whose cut images the stratum needs, and those that have taken the cut (R418, R419) -/
  dies : List Nat
  cutDies : List Nat
  cutGrain : Nat
  /-- a die refused its image (R437) -/
  refused : Bool
  leaves : List Leaf
  /-- the leaf list: address and digest (R427) -/
  list : Option (Nat × List Byte)
  diverged : List (Nat × Nat)
  /-- writes of the controller not yet acknowledged, and the highest status of the others (R427) -/
  writes : Nat
  writeStatus : Nat
  results : List CtlResult
  deriving DecidableEq, Repr

/-- Strata of one job at this package (R412-R444). -/
structure StrJob where
  /-- configuration record (R414), empty before STRATUM_CONFIG -/
  config : List Word
  /-- own store and the root's: global base and size (R414, R434) -/
  store : Nat × Nat
  rootStore : Nat × Nat
  /-- registered pieces: tensor-map entries (R412) -/
  pieces : List (List Word)
  /-- column and number of the latest committed stratum; column 0 before the first (R416) -/
  column : Nat
  stratum : Nat
  current : Option StrOpen
  /-- the next stratum is a bedrock (R416) -/
  nextBedrock : Bool
  /-- commit times of the last strata, failures, configuration grain and latest failure (R439) -/
  times : List Nat
  failures : Nat
  configGrain : Nat
  lastFailure : Nat
  /-- committed strata: column, stratum, step, record address (R428) -/
  committed : List (Nat × Nat × Nat × Nat)
  /-- ranges in use: global address, bytes, column and stratum (R435) -/
  kept : List (Nat × Nat × Nat × Nat)
  /-- commit slots in use with their column, and the latest one written (R434-R436) -/
  slots : List (Nat × Nat)
  lastSlot : Nat
  /-- the adaptive timer, and a timer arm put off until the open stratum ends (R417, R439) -/
  timerAt : Option Nat
  timerLater : Bool
  deriving DecidableEq, Repr

/-- A window request of a host function (R522, R523): its number, pieces not yet applied, and what has come back. -/
structure HostReq where
  fn : Nat
  id : Nat
  write : Bool
  left : Nat
  len : Nat
  status : Nat
  poison : Bool
  data : List (Nat × List Byte)
  deriving DecidableEq, Repr

/-- A channel access of a host function behind its posted writes (R523): a write, or a read of CH_RSP. -/
structure HeldAccess where
  fn : Nat
  off : Nat
  read : Bool
  wide : Bool
  value : Word64
  deriving DecidableEq, Repr

/-- The host port apart from HST registers (R518-R525). -/
structure HostX where
  held : List HeldAccess
  /-- window requests not yet complete, in the order of their arrival -/
  posted : List HostReq
  /-- pieces of window requests that wait for FC to leave RETENTION (R503) -/
  asleep : List Req
  /-- MSI-X messages sent: function and vector (R518) -/
  msix : List (Nat × Nat)
  /-- functions whose Memory Space Enable is 1: PCIe configuration space, which no command writes (log entry 27) -/
  memEnable : List Nat
  /-- answers given: function, status, poison and bytes (R524) -/
  answers : List (Nat × Nat × Bool × List Byte)
  /-- AER errors reported: function and error, 0 Unsupported Request, 1 Completer Abort, 2 Poisoned TLP Received (R524) -/
  aer : List (Nat × Nat)
  deriving DecidableEq, Repr

/-- The management port apart from MGT registers (R529, R530). -/
structure MgtX where
  /-- in-band interrupt asserted -/
  ibi : Bool
  nacks : Nat
  deriving DecidableEq, Repr

/-- Instructions of the test access port (R532). -/
inductive JtagIr where
  | bypass | idcode | samplePreload | extest | clamp | highz
  deriving DecidableEq, Repr

/-- The test access port (R532, R533). -/
structure JtagX where
  ir : JtagIr
  bypassBit : Bool
  chain : List Bool
  /-- captured pins of the latest SAMPLE or EXTEST -/
  captured : List Bool
  tdo : List Bool
  /-- outputs driven by the chain (EXTEST, CLAMP) or floated (HIGHZ) -/
  floated : Bool
  driven : Bool
  /-- every domain except AON is held in reset until a cold reset (R533) -/
  heldReset : Bool
  deriving DecidableEq, Repr

/-- The package. -/
structure State where
  /-- commands waiting, first in first out -/
  pending : List Instr
  /-- counts the free values drawn (the model's own field) -/
  freeCount : Nat
  /-- registers whose value in effect differs from their reset value, by control-space offset -/
  regs : FMap Word
  /-- pending RWS writes, by control-space offset (R8) -/
  shadow : FMap Shadow
  /-- bytes of stacks, scratch, far tier and firmware store by package-local address; unlisted 0 -/
  mem : List Host.Cell
  /-- poisoned 64-byte sectors of stacks and far tier (R293) -/
  poison : List Nat
  /-- scratch tags by slot number (die × 768 + tile) × 5,120 + slot; unlisted EMPTY (R159) -/
  tags : FMap Tag
  dies : FMap DieX
  tiles : FMap TileX
  stackMap : FMap StackX
  far : FarX
  digests : List DigestJob
  cores : FMap CoreX
  procs : FMap ProcX
  solvers : FMap SolverX
  copies : FMap CopyX
  fabric : FabricX
  ports : FMap PortX
  coll : CollX
  tb : TbX
  chans : FMap ChanX
  pkc : PkcX
  sec : SecX
  pwr : PwrX
  jrn : JrnX
  strata : FMap StrJob
  host : HostX
  mgt : MgtX
  jtag : JtagX
  straps : Straps
  deriving DecidableEq, Repr

/-- The faults of the model: none. Every command of the table answers a next state or a refusal. -/
inductive Fault where
  /-- Raised by no command; kept so that the type has a name to give (safe). -/
  | none
  deriving DecidableEq, Repr

/-- The refusals of the model. -/
inductive Refusal where
  /-- Raised by an arm of `exec` whose command has no meaning yet (safe: nothing runs). -/
  | notModelled (mnemonic : String)
  deriving DecidableEq, Repr

def GranSet.none : GranSet := ⟨false, []⟩
def GranSet.every : GranSet := ⟨true, []⟩

/-- A tile with everything at reset. -/
def TileX.init : TileX :=
  { pc := 0, loops := [], ended := false, cycle := 0, hist := [], routes := [], banks := [], mma := .none, vec := .none,
    issues := [], snd := [], rcv := [], locOut := [], late := [], reqs := [], waiting := [], epoch := 0, acks := [] }

def SlotX.init : SlotX := { image := [], sections := [], seeds := [], jobSeed := 0, load := .none }

/-- A compute die with everything at reset: every scratch dirty bit set, no cut set (R420, R291). -/
def DieX.init : DieX :=
  { stopPending := false, turn := 0, flights := [], adapters := [], switching := .none, hold := .none, wall := 0, wall0 := 0, holds := [], wallTo := 0, fresh := [],
    closing := ⟨0, 0, 0, 0⟩, refireAt := .none, refired := false, ovfTile := .none, frac := 0,
    sched := 0, endAt := 0, base := 0, bound := 5120, run := 0, slots := [], clear := .none, holders := [], upsets := [],
    sDirty := GranSet.every, sCut := GranSet.none, sRsv := [], demands := [], calm := [], sensors := [],
    atCut := [] }

def StackX.init : StackX :=
  { queues := [], answers := [], held := [], lastAtomic := [], dirty := GranSet.every, cut := GranSet.none, rsv := [],
    upsets := [] }

def CoreX.init : CoreX :=
  { pc := 0, g := [], v := [], m := [], vl := 0, vstart := 0, fsr := 0, savedPl := 0, savedPc := 0, cause := 0,
    loads := [], replies := [], noInstall := [], wbuf := [], sent := [], atomics := 0, vfill := [], fencing := false, machineError := false,
    pendGrain := false, pendIpi := false, pendBatch := false, inval := .none, invalEnd := 0, lent := .none, cmpArmed := false }

def ProcX.init : ProcX := { lines := [], demands := [], calm := [], sensors := [], frac := 0 }

def SolverX.init : SolverX :=
  { subLo := 0, queue := [], batch := .none, stats := [], done := false, redo := false, denied := false, rhs := [],
    limit := .none, stirred := [], waiting := [], out := 0 }

def CopyX.init : CopyX :=
  { subLo := 0, queue := [], running := [], waiting := [], out := 0, nextId := 0, epoch := 0, acks := [] }

def PortX.init : PortX :=
  { txSeq := 0, txWords := [], retry := [], rxSeq := 0, discarding := false, blockCount := .none, blockBad := false, replaySeq := 0,
    replays := 0, lastGood := 0, fullSince := .none, credits := [], used := [], freed := [], outQ := [], wrr := 0, control := [], txBlock := 0, txFlits := [], blocks := [],
    rxWords := [], rxPkts := [], malStart := 0, malCount := 0, malNoted := false, trainSince := 0, lastKnock := 0,
    knocking := false, peerDigest := [] }

def ChanX.init : ChanX :=
  { reqQ := [], taken := [], loLatch := 0, rspQ := [], rspHi := 0, replies := [], discard := false, acks := [],
    session := .none, outstanding := [], nonce := .none, subs := [] }

def StrJob.init : StrJob :=
  { config := [], store := (0, 0), rootStore := (0, 0), pieces := [], column := 0, stratum := 0, current := .none,
    nextBedrock := true, times := [], failures := 0, configGrain := 0, lastFailure := 0, committed := [], kept := [],
    slots := [], lastSlot := 63, timerAt := .none, timerLater := false }

def FarX.init : FarX := { queues := [], answers := [], lastAtomic := [], stale := [] }

def FabricX.init : FabricX :=
  { reqQ := [], nextReq := 0, seqNext := [], sent := [], windows := [], held := [], applying := [],
    resp := [], acks := [], unreachable := [], inject := [], delivered := [], peerEst := [], adverts := [], tc4 := [] }

def CollX.init : CollX := { teams := [], calls := [], rounds := [], out := [], entLo := 0 }

def TbX.init : TbX :=
  { now := 0, locked := false, offsets := [], slew := 0, sync := .none, peers := [],
    ppsCount := 0, ppsMissed := 0, gmConflict := false, hiLatch := 0 }

def PkcX.init : PkcX := { held := [], forwards := [], resets := [] }

def SecX.init : SecX :=
  { enrolled := .none, identitySecret := [], slots := [], minSvn := 0, fwDigest := [], fwRunning := false,
    rights := [], owners := [], partBase := 0, partLimit := 0 }

def PwrX.init : PwrX :=
  { changing := [], samples := [], aboveCap := 0, capNoted := false, stackTemp := [],
    tripped := false, saved := false, slump := .none, mainEn := false }

def JrnX.init : JrnX :=
  { next := 1, buf := [], ring := [], lost := 0, reported := 0, areaA := .none, areaB := .none,
    jobRecords := [] }

def HostX.init : HostX := { held := [], posted := [], asleep := [], msix := [], memEnable := [], answers := [], aer := [] }

def MgtX.init : MgtX := { ibi := false, nacks := 0 }

def JtagX.init : JtagX :=
  { ir := .idcode, bypassBit := false, chain := [], captured := [], tdo := [], floated := false,
    driven := false, heldReset := false }

def Straps.zero : Straps := { place := 0, shapeG := 0, shapeN := 0, ftBifur := 0, mgtAddr := 0, secClear := false }

/-- The package right after a cold reset, every register at its Reset column: every domain but AON OFF, the
timebase FREE at 0, no image running, the journal die blank. -/
def State.reset : State :=
  { pending := [], freeCount := 0, regs := [], shadow := [], mem := [], poison := [], tags := [], dies := [],
    tiles := [], stackMap := [], far := FarX.init, digests := [], cores := [], procs := [], solvers := [],
    copies := [], fabric := FabricX.init, ports := [], coll := CollX.init, tb := TbX.init, chans := [],
    pkc := PkcX.init, sec := SecX.init, pwr := PwrX.init, jrn := JrnX.init, strata := [],
    host := HostX.init, mgt := MgtX.init, jtag := JtagX.init, straps := Straps.zero }

end Sys2Proof.Machine
end

