-- ==== Sys2Proof/Machine/Maps.lean ====
section
/-! DEFINITION. Finite maps with rising keys, the byte memory over package-local addresses, bit fields of words
and little-endian byte lists (R3). The lemmas about them stand in Laws/Memory.lean. -/

namespace Sys2Proof.Machine

/-- The value at key `k`, `d` where `k` is not listed. -/
def mapGet {α : Type} (d : α) : FMap α → Nat → α
  | [], _ => d
  | (i, v) :: r, k => if i = k then v else mapGet d r k

/-- The value at key `k`, if listed. -/
def mapGet? {α : Type} : FMap α → Nat → Option α
  | [], _ => none
  | (i, v) :: r, k => if i = k then some v else mapGet? r k

/-- Lists `v` at key `k`, keeping the keys rising. -/
def mapPut {α : Type} : FMap α → Nat → α → FMap α
  | [], k, v => [(k, v)]
  | (i, w) :: r, k, v =>
    if k < i then (k, v) :: (i, w) :: r
    else if i = k then (k, v) :: r
    else (i, w) :: mapPut r k v

/-- Removes key `k`. -/
def mapErase {α : Type} : FMap α → Nat → FMap α
  | [], _ => []
  | (i, w) :: r, k => if i = k then mapErase r k else (i, w) :: mapErase r k

/-- Stores `v` at key `k` in the canonical form: a value equal to the default `d` is not listed. -/
def mapSet {α : Type} [DecidableEq α] (d : α) (m : FMap α) (k : Nat) (v : α) : FMap α :=
  if v = d then mapErase m k else mapPut m k v

/-- Keeps only the entries whose key satisfies `p`. -/
def mapKeep {α : Type} (m : FMap α) (p : Nat → Bool) : FMap α := m.filter fun e => p e.1

/-- What a byte of memory that nothing has written reads as: 0. For scratch the spec says so (R172, R539); for
the stacks and the far tier it is the model's choice (DESIGN CHOICE, log entry 3). -/
def unlistedByte : Byte := 0

/-- One byte of memory at a package-local address. -/
def readByte (m : List Host.Cell) (a : Nat) : Byte := mapGet unlistedByte m a

/-- Stores one byte, keeping the canonical form. -/
def writeByte (m : List Host.Cell) (a : Nat) (b : Byte) : List Host.Cell := mapSet unlistedByte m a b

/-- `n` bytes from address `a` upward. -/
def readBytes (m : List Host.Cell) (a : Nat) : Nat → List Byte
  | 0 => []
  | n + 1 => readByte m a :: readBytes m (a + 1) n

/-- Stores the bytes `bs` from address `a` upward. -/
def writeBytes (m : List Host.Cell) (a : Nat) : List Byte → List Host.Cell
  | [] => m
  | b :: bs => writeBytes (writeByte m a b) (a + 1) bs

/-- Stores the bytes that `f` picks (some b) among `n` positions from `a` upward. -/
def writePicked (m : List Host.Cell) (a : Nat) : List (Option Byte) → List Host.Cell
  | [] => m
  | some b :: bs => writePicked (writeByte m a b) (a + 1) bs
  | none :: bs => writePicked m (a + 1) bs

/-- Zeroes every byte whose address satisfies `p`. -/
def clearBytes (m : List Host.Cell) (p : Nat → Bool) : List Host.Cell := m.filter fun e => !p e.1

/-- Keys strictly rising from `lo` on. -/
def keysRise {α : Type} : Nat → FMap α → Bool
  | _, [] => true
  | lo, (i, _) :: r => decide (lo ≤ i) && keysRise (i + 1) r

/-- The canonical form of a byte memory: addresses strictly rising and no entry equal to what an unlisted
address reads as, so that equal memories are equal lists. -/
def Memory.wf (m : List Host.Cell) : Bool := keysRise 0 m && m.all fun e => decide (e.2 ≠ unlistedByte)

/-! ### Bit fields -/

/-- Bits [hi..lo] of a number. -/
def bitsOf (x hi lo : Nat) : Nat := x / 2 ^ lo % 2 ^ (hi + 1 - lo)

/-- Bit `i` of a number. -/
def bitOf (x i : Nat) : Bool := x / 2 ^ i % 2 == 1

/-- `x` with bits [hi..lo] replaced by the low bits of `v`. -/
def putBits (x hi lo v : Nat) : Nat :=
  x - bitsOf x hi lo * 2 ^ lo + v % 2 ^ (hi + 1 - lo) * 2 ^ lo

/-- 1 or 0. -/
def bit1 (b : Bool) : Nat := if b then 1 else 0

/-- The two's complement value of the low `w` bits. -/
def signedOf (x w : Nat) : Int :=
  let y := x % 2 ^ w
  if y < 2 ^ (w - 1) then (y : Int) else (y : Int) - (2 ^ w : Nat)

/-- The low `w` bits of an integer. -/
def unsignedOf (z : Int) (w : Nat) : Nat := (z % (2 ^ w : Nat)).toNat

/-- One more, saturating at 0xFFFF_FFFF. -/
def satInc32 (x : Nat) : Nat := if x < 0xFFFFFFFF then x + 1 else x

/-- Clamped to 32 bits unsigned. -/
def sat32 (x : Nat) : Nat := if x ≤ 0xFFFFFFFF then x else 0xFFFFFFFF

/-! ### Little-endian bytes (R3) -/

/-- The number that bytes spell, lowest first. -/
def leNat : List Byte → Nat
  | [] => 0
  | b :: bs => b.toNat + 256 * leNat bs

/-- `n` bytes of a number, lowest first. -/
def toBytes (x : Nat) : Nat → List Byte
  | 0 => []
  | n + 1 => BitVec.ofNat 8 x :: toBytes (x / 256) n

/-- A list cut into pieces of `n`, given enough fuel. -/
def chunksOf {α : Type} (n : Nat) : Nat → List α → List (List α)
  | 0, _ => []
  | _, [] => []
  | f + 1, l => l.take n :: chunksOf n f (l.drop n)

/-- Words of bytes, each of `n` bytes, as numbers. -/
def leWords (n : Nat) (bs : List Byte) : List Nat := (chunksOf n (bs.length + 1) bs).map leNat

/-- The bytes of 32-bit words. -/
def wordBytes (ws : List Word) : List Byte := ws.flatMap fun w => toBytes w.toNat 4

/-- The bytes of 64-bit words. -/
def word64Bytes (ws : List Word64) : List Byte := ws.flatMap fun w => toBytes w.toNat 8

/-- Bytes cut to exactly `n`, padded with zero bytes. -/
def fitBytes (n : Nat) (bs : List Byte) : List Byte := (bs ++ List.replicate (n - bs.length) 0).take n

/-- Element `i` of a list, `d` past its end. -/
def nthD {α : Type} (d : α) (l : List α) (i : Nat) : α := (l[i]?).getD d

/-- `l` with element `i` replaced (unchanged past its end). -/
def setNth {α : Type} (l : List α) (i : Nat) (x : α) : List α := l.set i x

end Sys2Proof.Machine
end

