-- ==== Sys2Proof/Machine/Formats.lean ====
section
/-! DEFINITION. The number formats of chapter 3: exact values, decoding and encoding (R33-R38), rounding
(R52, R53, R56, R60, R61), conversions (R60-R66), FAST, STEP and integer accumulation (R43-R52), flags (R68). -/

namespace Sys2Proof.Machine

/-- The formats of R33, with I32 and I64 of the accumulators and the atomics. -/
inductive Fmt where
  | b64 | b32 | bf16 | b16 | e5m2 | e4m3 | e2m1 | i8 | i4 | i32 | i64 | q64 | e8m0
  deriving DecidableEq, Repr

/-- An exact value: (−1)^neg × m × 2^e, an infinity or a NaN. m = 0 is a signed zero. -/
inductive Num where
  | fin (neg : Bool) (m : Nat) (e : Int)
  | inf (neg : Bool)
  | nan
  deriving DecidableEq, Repr

/-- Sticky flags of R68. -/
structure Flags where
  ovf : Bool
  unf : Bool
  inv : Bool
  deriving DecidableEq, Repr

def Flags.none : Flags := ⟨false, false, false⟩
def Flags.or (a b : Flags) : Flags := ⟨a.ovf || b.ovf, a.unf || b.unf, a.inv || b.inv⟩
def flagOvf : Flags := ⟨true, false, false⟩
def flagUnf : Flags := ⟨false, true, false⟩
def flagInv : Flags := ⟨false, false, true⟩
/-- OVF, UNF, INV as bits 0, 1, 2, the order of TVE_FLAGS and MEM_ATOMIC_FLAGS. -/
def Flags.bits (f : Flags) : Nat := bit1 f.ovf + 2 * bit1 f.unf + 4 * bit1 f.inv

def Flags.ofBits (b : Nat) : Flags := ⟨bitOf b 0, bitOf b 1, bitOf b 2⟩

/-- Rounding modes of R53. -/
inductive Rnd where
  | rne | rtz | rup | rdn | sr
  deriving DecidableEq, Repr

def Rnd.ofCode : Nat → Option Rnd
  | 0 => some .rne
  | 1 => some .rtz
  | 2 => some .rup
  | 3 => some .rdn
  | 4 => some .sr
  | _ => none

/-- Width in bits (R33). -/
def Fmt.width : Fmt → Nat
  | .b64 | .i64 | .q64 => 64
  | .b32 | .i32 => 32
  | .bf16 | .b16 => 16
  | .e5m2 | .e4m3 | .i8 | .e8m0 => 8
  | .e2m1 | .i4 => 4

/-- Fraction bits of the floating formats (R33). -/
def Fmt.frac : Fmt → Nat
  | .b64 => 52
  | .b32 => 23
  | .bf16 => 7
  | .b16 => 10
  | .e5m2 => 2
  | .e4m3 => 3
  | .e2m1 => 1
  | _ => 0

/-- Exponent bias (R33). -/
def Fmt.bias : Fmt → Nat
  | .b64 => 1023
  | .b32 | .bf16 | .e8m0 => 127
  | .b16 | .e5m2 => 15
  | .e4m3 => 7
  | .e2m1 => 1
  | _ => 0

def Fmt.isFloat : Fmt → Bool
  | .b64 | .b32 | .bf16 | .b16 | .e5m2 | .e4m3 | .e2m1 => true
  | _ => false

def Fmt.isInt : Fmt → Bool
  | .i8 | .i4 | .i32 | .i64 => true
  | _ => false

/-- Formats with infinities in the IEEE pattern (R33, R35). -/
def Fmt.hasInf : Fmt → Bool
  | .b64 | .b32 | .bf16 | .b16 | .e5m2 => true
  | _ => false

def Fmt.hasNaN : Fmt → Bool
  | .b64 | .b32 | .bf16 | .b16 | .e5m2 | .e4m3 | .e8m0 => true
  | _ => false

/-- Magnitude code of the largest finite value of a floating format. -/
def Fmt.maxCode : Fmt → Nat
  | .b64 => 0x7FEFFFFFFFFFFFFF
  | .b32 => 0x7F7FFFFF
  | .bf16 => 0x7F7F
  | .b16 => 0x7BFF
  | .e5m2 => 0x7B
  | .e4m3 => 0x7E
  | .e2m1 => 0x7
  | _ => 0

/-- Magnitude code of infinity. -/
def Fmt.infCode (f : Fmt) : Nat := f.maxCode + 1

/-- The canonical NaN (R63). -/
def Fmt.nanCode : Fmt → Nat
  | .b64 => 0x7FF8000000000000
  | .b32 => 0x7FC00000
  | .bf16 => 0x7FC0
  | .b16 => 0x7E00
  | .e5m2 => 0x7E
  | .e4m3 => 0x7F
  | .e8m0 => 0xFF
  | _ => 0

/-- A code with its sign bit. -/
def Fmt.withSign (f : Fmt) (neg : Bool) (c : Nat) : Nat := if neg then c + 2 ^ (f.width - 1) else c

/-- The value a code encodes (R33-R38). A Q64 code is taken at block exponent 0 (R37). -/
def decode (f : Fmt) (c : Nat) : Num :=
  let c := c % 2 ^ f.width
  match f with
  | .i8 | .i4 | .i32 | .i64 | .q64 =>
    let z := signedOf c f.width
    .fin (decide (z < 0)) z.natAbs (if f = .q64 then -62 else 0)
  | .e8m0 => if c = 255 then .nan else .fin false 1 ((c : Int) - 127)
  | _ =>
    let neg := bitOf c (f.width - 1)
    let mag := c % 2 ^ (f.width - 1)
    let ef := mag / 2 ^ f.frac
    let fr := mag % 2 ^ f.frac
    if f.hasInf ∧ mag = f.infCode then .inf neg
    else if (f.hasInf ∧ f.infCode < mag) ∨ (f = .e4m3 ∧ mag = 0x7F) then .nan
    else if ef = 0 then .fin neg fr (1 - (f.bias : Int) - f.frac)
    else .fin neg (2 ^ f.frac + fr) ((ef : Int) - f.bias - f.frac)

/-- floor(log2) of the magnitude of a nonzero finite value. -/
def expOf (m : Nat) (e : Int) : Int := (Nat.log2 m : Int) + e

/-- m × 2^e over the spacing 2^q: whole part, remainder and remainder's width in bits. -/
def cutAt (m : Nat) (e q : Int) : Nat × Nat × Nat :=
  if q ≤ e then (m * 2 ^ (e - q).toNat, 0, 0)
  else
    let sh := (q - e).toNat
    (m / 2 ^ sh, m % 2 ^ sh, sh)

/-- Whether a magnitude with whole part `n` and remainder `rem` of `sh` bits rounds away from zero (R53, R56). -/
def roundsUp (mode : Rnd) (r : Nat) (neg : Bool) (n rem sh : Nat) : Bool :=
  match mode with
  | .rne => decide (2 ^ sh < 2 * rem) || (decide (2 * rem = 2 ^ sh) && decide (0 < sh) && n % 2 == 1)
  | .rtz => false
  | .rup => !neg && decide (0 < rem)
  | .rdn => neg && decide (0 < rem)
  | .sr => decide (65536 ≤ rem * 65536 / 2 ^ sh + r % 65536)

/-- The IEEE overflow result: infinity or the largest finite value (R52, R61). -/
def overflowsToInf (mode : Rnd) (neg : Bool) : Bool :=
  match mode with
  | .rne | .sr => true
  | .rtz => false
  | .rup => !neg
  | .rdn => neg

/-- Rounds a nonzero finite magnitude to a floating format (R60, R61, R68). -/
def roundFin (f : Fmt) (mode : Rnd) (sat : Bool) (r : Nat) (neg : Bool) (m : Nat) (e : Int) : Nat × Flags :=
  let emin : Int := 1 - (f.bias : Int)
  let ex := max (expOf m e) emin
  let c := cutAt m e (ex - f.frac)
  let up := roundsUp mode r neg c.1 c.2.1 c.2.2
  let n := if up then c.1 + 1 else c.1
  let code := n + (ex - emin).toNat * 2 ^ f.frac
  let inexact := decide (0 < c.2.1)
  if f.maxCode < code then
    if f.hasInf && !sat && overflowsToInf mode neg then (f.withSign neg f.infCode, flagOvf)
    else (f.withSign neg f.maxCode, flagOvf)
  else (f.withSign neg code, ⟨false, inexact && decide (code < 2 ^ f.frac), false⟩)

/-- Rounds a finite magnitude to an integer format and saturates (R61, R64). -/
def roundInt (f : Fmt) (mode : Rnd) (r : Nat) (neg : Bool) (m : Nat) (e : Int) : Nat × Flags :=
  let c := cutAt m e 0
  let n := if roundsUp mode r neg c.1 c.2.1 c.2.2 then c.1 + 1 else c.1
  let z : Int := if neg then -(n : Int) else n
  let hi : Int := 2 ^ (f.width - 1) - 1
  let lo : Int := -(2 ^ (f.width - 1))
  if hi < z then (unsignedOf hi f.width, flagOvf)
  else if z < lo then (unsignedOf lo f.width, flagOvf)
  else (unsignedOf z f.width, Flags.none)

/-- Conversion of a value to E8M0 (R66). -/
def toE8M0 (mode : Rnd) (x : Num) : Nat × Flags :=
  match x with
  | .nan => (0xFF, flagInv)
  | .inf _ => (0xFF, flagInv)
  | .fin _ 0 _ => (0, Flags.none)
  | .fin _ m e =>
    let ex := expOf m e
    let c := cutAt m e (ex - 1)
    -- whole part 2 or 3 in halves of 2^ex, with the remainder below
    let exact := c.1 == 2 && c.2.1 == 0
    let above := decide (3 ≤ c.1) && !(c.1 == 3 && c.2.1 == 0)
    let tie := c.1 == 3 && c.2.1 == 0
    let up := match mode with
      | .rup => !exact
      | .rne => above || (tie && (ex + 127) % 2 != 0)
      | _ => false
    let k : Int := (if up then ex + 1 else ex) + 127
    if (0xFE : Int) < k then (0xFE, flagOvf) else if k < 0 then (0, flagUnf) else (k.toNat, Flags.none)

/-- Conversion of an exact value to a format (R60-R64, R66). `r` holds the 16 random bits of SR. -/
def convert (f : Fmt) (mode : Rnd) (sat : Bool) (r : Nat) (x : Num) : Nat × Flags :=
  if f = .e8m0 then toE8M0 mode x
  else match x with
  | .nan => if f.hasNaN then (f.nanCode, Flags.none) else (0, flagInv)
  | .inf neg =>
    if f.hasInf then
      if sat then (f.withSign neg f.maxCode, flagOvf) else (f.withSign neg f.infCode, Flags.none)
    else if f.isFloat then (f.withSign neg f.maxCode, flagOvf)
    else (if neg then 2 ^ (f.width - 1) else 2 ^ (f.width - 1) - 1, flagOvf)
  | .fin neg 0 _ => if f.isFloat then (f.withSign neg 0, Flags.none) else (0, Flags.none)
  | .fin neg m e => if f.isFloat then roundFin f mode sat r neg m e else roundInt f mode r neg m e

/-! ### Exact arithmetic -/

/-- The signed integer of a finite value at exponent `q ≤ e`. -/
def atExp (neg : Bool) (m : Nat) (e q : Int) : Int :=
  let n : Int := m * 2 ^ (e - q).toNat
  if neg then -n else n

/-- A finite value from a signed integer. -/
def ofInt (z : Int) (q : Int) : Num := .fin (decide (z < 0)) z.natAbs q

/-- Exact sum by IEEE 754-2019; an exact zero is −0 only from two −0 or, under RDN, from a cancellation. The
truth value says INV. -/
def addNum (mode : Rnd) (a b : Num) : Num × Bool :=
  match a, b with
  | .nan, _ => (.nan, false)
  | _, .nan => (.nan, false)
  | .inf x, .inf y => if x = y then (.inf x, false) else (.nan, true)
  | .inf x, _ => (.inf x, false)
  | _, .inf y => (.inf y, false)
  | .fin x m e, .fin y n g =>
    let q := min e g
    let z := atExp x m e q + atExp y n g q
    if z = 0 then (.fin (if m = 0 ∧ n = 0 ∧ x = y then x else decide (mode = .rdn)) 0 q, false)
    else (ofInt z q, false)

def negNum : Num → Num
  | .nan => .nan
  | .inf x => .inf !x
  | .fin x m e => .fin (!x) m e

def absNum : Num → Num
  | .nan => .nan
  | .inf _ => .inf false
  | .fin _ m e => .fin false m e

/-- Exact product; zero times infinity is a NaN with INV. -/
def mulNum (a b : Num) : Num × Bool :=
  match a, b with
  | .nan, _ => (.nan, false)
  | _, .nan => (.nan, false)
  | .inf x, .inf y => (.inf (x != y), false)
  | .inf x, .fin y n _ => if n = 0 then (.nan, true) else (.inf (x != y), false)
  | .fin x m _, .inf y => if m = 0 then (.nan, true) else (.inf (x != y), false)
  | .fin x m e, .fin y n g => (.fin (x != y) (m * n) (e + g), false)

/-- Scales a value by 2^k. -/
def scaleNum (a : Num) (k : Int) : Num :=
  match a with
  | .fin x m e => .fin x m (e + k)
  | a => a

/-- Exact quotient, as a value with a sticky bit below 80 significant bits, so that every rounding of it is the
rounding of the quotient. Returns also INV and the division of a nonzero finite value by zero. -/
def divNum (a b : Num) : Num × Bool × Bool :=
  match a, b with
  | .nan, _ => (.nan, false, false)
  | _, .nan => (.nan, false, false)
  | .inf _, .inf _ => (.nan, true, false)
  | .inf x, .fin y _ _ => (.inf (x != y), false, false)
  | .fin x _ _, .inf y => (.fin (x != y) 0 0, false, false)
  | .fin x m e, .fin y n g =>
    if n = 0 then (if m = 0 then (.nan, true, false) else (.inf (x != y), false, true))
    else if m = 0 then (.fin (x != y) 0 0, false, false)
    else
      let k := 90 + Nat.log2 n
      let q := m * 2 ^ k / n
      let rem := m * 2 ^ k % n
      (.fin (x != y) (2 * q + bit1 (rem != 0)) (e - g - k - 1), false, false)

/-- Integer square root, bit by bit from bit `k`. -/
def isqrtFrom (x : Nat) : Nat → Nat → Nat
  | 0, r => if (r + 1) * (r + 1) ≤ x then r + 1 else r
  | k + 1, r => isqrtFrom x k (if (r + 2 ^ (k + 1)) * (r + 2 ^ (k + 1)) ≤ x then r + 2 ^ (k + 1) else r)

def isqrt (x : Nat) : Nat := isqrtFrom x (Nat.log2 x / 2 + 1) 0

/-- Square root with a sticky bit below at least 90 significant bits; −0 gives −0, another negative INV. -/
def sqrtNum (a : Num) : Num × Bool :=
  match a with
  | .nan => (.nan, false)
  | .inf true => (.nan, true)
  | .inf false => (.inf false, false)
  | .fin x 0 e => (.fin x 0 e, false)
  | .fin true _ _ => (.nan, true)
  | .fin false m e =>
    let k : Int := 200
    let k := if (e - k) % 2 = 0 then k else k + 1
    let big := m * 2 ^ k.toNat
    let r := isqrt big
    (.fin false (2 * r + bit1 (r * r != big)) ((e - k) / 2 - 1), false)

/-- Less than, on values that are not NaN; −0 and +0 are equal here. -/
def ltNum (a b : Num) : Bool :=
  match a, b with
  | .nan, _ => false
  | _, .nan => false
  | .inf x, .inf y => x && !y
  | .inf x, _ => x
  | _, .inf y => !y
  | .fin x m e, .fin y n g =>
    let q := min e g
    decide (atExp x m e q < atExp y n g q)

def eqNum (a b : Num) : Bool :=
  match a, b with
  | .nan, _ => false
  | _, .nan => false
  | a, b => !ltNum a b && !ltNum b a

def isNaN : Num → Bool
  | .nan => true
  | _ => false

def isZeroNum : Num → Bool
  | .fin _ 0 _ => true
  | _ => false

def isNegNum : Num → Bool
  | .fin x _ _ => x
  | .inf x => x
  | .nan => false

/-- Whether a code encodes a NaN. -/
def codeIsNaN (f : Fmt) (c : Nat) : Bool := isNaN (decode f c)

/-- Rounds the exact result of an operation with its INV (R52, R68): a NaN is canonical, no saturation. -/
def finish (f : Fmt) (mode : Rnd) (x : Num × Bool) : Nat × Flags :=
  let y := convert f mode false 0 x.1
  (y.1, y.2.or ⟨false, false, x.2⟩)

/-- IEEE operations of one format (B32 or B64 in the engines). -/
def fAdd (f : Fmt) (mode : Rnd) (a b : Nat) : Nat × Flags := finish f mode (addNum mode (decode f a) (decode f b))
def fSub (f : Fmt) (mode : Rnd) (a b : Nat) : Nat × Flags :=
  finish f mode (addNum mode (decode f a) (negNum (decode f b)))
def fMul (f : Fmt) (mode : Rnd) (a b : Nat) : Nat × Flags := finish f mode (mulNum (decode f a) (decode f b))
/-- a × b + c with one rounding; INV only for a NaN that no operand brings (R68). -/
def fmaNum (mode : Rnd) (a b c : Num) : Num × Bool :=
  let p := mulNum a b
  let r := addNum mode p.1 c
  (r.1, (p.2 && !isNaN c) || r.2)
def fFma (f : Fmt) (mode : Rnd) (a b c : Nat) : Nat × Flags :=
  finish f mode (fmaNum mode (decode f a) (decode f b) (decode f c))

/-! ### Accumulation -/

/-- A product of two elements: its exact value, and what is special about it (R51). -/
structure Prod where
  val : Num
  nanOperand : Bool
  inv : Bool
  deriving DecidableEq, Repr

/-- An element's value under its scale (R40): code, and the scale code or none. -/
def elemNum (f : Fmt) (c : Nat) (scale : Option Nat) : Num × Bool :=
  match scale with
  | none => (decode f c, false)
  | some k => if k % 256 = 255 then (.nan, true) else (scaleNum (decode f c) ((k % 256 : Nat) - 127 : Int), false)

/-- The product of two scaled elements (R43, R51). -/
def prodOf (f : Fmt) (a w : Nat) (sa sw : Option Nat) : Prod :=
  let x := elemNum f a sa
  let y := elemNum f w sw
  let p := mulNum x.1 y.1
  { val := p.1, nanOperand := isNaN x.1 || isNaN y.1, inv := x.2 || y.2 || p.2 }

/-- Accumulator format of an operand format (R42). -/
def accFmt : Fmt → Fmt
  | .b64 => .b64
  | .i8 | .i4 => .i32
  | _ => .b32

/-- Precision of an accumulator (R45). -/
def accPrec (f : Fmt) : Nat := if f = .b64 then 53 else 24

/-- The truncated product at step 2^q as a signed multiple of it (R45). -/
def truncAt (q : Int) : Num → Int
  | .fin neg m e => let n : Int := (cutAt m e q).1; if neg then -n else n
  | _ => 0

/-- The block sum s and its flags (R45, R51). -/
def blockSum (prec : Nat) (ps : List Prod) : Num × Bool :=
  let infP := ps.any fun p => p.val == .inf false
  let infN := ps.any fun p => p.val == .inf true
  let inv := ps.any (·.inv) || (infP && infN)
  if ps.any (fun p => isNaN p.val) || (infP && infN) then (.nan, inv)
  else
    if infP then (.inf false, inv)
    else if infN then (.inf true, inv)
    else
      let nz := ps.filter fun p => !isZeroNum p.val
      match nz with
      | [] => (.fin (ps.all fun p => isNegNum p.val) 0 0, inv)
      | p :: rest =>
        let ex : Prod → Int := fun p => match p.val with
          | .fin _ m e => expOf m e
          | _ => 0
        let emax := rest.foldl (fun m p => max m (ex p)) (ex p)
        let q := emax - prec - 2
        (ofInt (nz.foldl (fun z p => z + truncAt q p.val) 0) q, inv)

/-- FAST: one block of up to 16 products into the accumulator; a short block is completed with +0 (R44, R45). -/
def fastBlock (f : Fmt) (mode : Rnd) (acc : Nat) (ps : List Prod) : Nat × Flags :=
  let zero : Prod := ⟨.fin false 0 0, false, false⟩
  let ps := ps ++ List.replicate (16 - ps.length) zero
  let s := blockSum (accPrec f) ps
  let r := addNum mode (decode f acc) s.1
  finish f mode (r.1, s.2 || r.2)

/-- STEP: one fused multiply-add per product (R48). -/
def stepProd (f : Fmt) (mode : Rnd) (acc : Nat) (p : Prod) : Nat × Flags :=
  let r := addNum mode (decode f acc) p.val
  finish f mode (r.1, p.inv || r.2)

/-- An integer block into the I32 accumulator (R50). -/
def intBlock (acc : Nat) (ps : List Prod) : Nat × Flags :=
  let z := ps.foldl (fun z p => z + truncAt 0 p.val) (signedOf acc 32)
  if 2147483647 < z then (0x7FFFFFFF, flagOvf)
  else if z < -2147483648 then (0x80000000, flagOvf)
  else (unsignedOf z 32, Flags.none)

/-- Folds with flags. -/
def foldFlags {α : Type} (step : Nat → α → Nat × Flags) (acc : Nat) (l : List α) : Nat × Flags :=
  l.foldl (fun s x => let r := step s.1 x; (r.1, s.2.or r.2)) (acc, Flags.none)

/-- Accumulates the products of a K range in ascending order (R44-R50). -/
def accumulate (f : Fmt) (stepMode : Bool) (mode : Rnd) (acc : Nat) (ps : List Prod) : Nat × Flags :=
  let a := accFmt f
  let blocks := chunksOf 16 (ps.length + 1) ps
  if a = .i32 then foldFlags intBlock acc blocks
  else if stepMode then foldFlags (stepProd a mode) acc ps
  else foldFlags (fastBlock a mode) acc blocks

/-! ### Packed elements (R36) -/

/-- Element `i` of a packed array of bytes read through `rd`. -/
def elemAt (f : Fmt) (rd : Nat → Byte) (i : Nat) : Nat :=
  match f.width with
  | 4 => let b := (rd (i / 2)).toNat; if i % 2 = 0 then b % 16 else b / 16
  | 8 => (rd i).toNat
  | 16 => (rd (2 * i)).toNat + 256 * (rd (2 * i + 1)).toNat
  | 32 => leNat ((List.range 4).map fun j => rd (4 * i + j))
  | _ => leNat ((List.range 8).map fun j => rd (8 * i + j))

end Sys2Proof.Machine
end

