-- ==== Sys2Proof/Config.lean ====
section
/-! DEFINITION. What the spec leaves open: free values as opaque constants without a body, so that no proof can
see what they are, and what an implementation fixes. Each is named in a log entry (notes/assumptions/2.md). -/

namespace Sys2Proof

/-- Byte `i` of the n-th free draw: nonces (R462), SIGN secrets (R480), PUF keys (R476), reduction destinations after a loss (R392) and every other value the spec leaves undefined. -/
opaque Config.freeByte : Nat → Nat → BitVec 8

/-- The digest of Cleulo's firmware key in the boot ROM (R485): the spec does not print it. -/
opaque Config.cleuloKeyDigest : Nat → BitVec 8

/-- The fixed entries of a control core (R203): 1 for PL1, 2 for PL2 (the service layer), 3 for the service layer's error
entry. The spec gives no addresses. -/
opaque Config.coreEntry : Nat → BitVec 64

/-- Capacity in GiB of the far-tier device on link `d`, 0 where the board has none (R296, R297). -/
opaque Config.farCapacity : Nat → Nat

/-- The bytes over which KEYS_DIGEST is taken: slot number, type, role, channels, TX and public part of every slot (R489
names the parts, not their layout). -/
opaque Config.keysMessage : List (Nat × Nat × Nat × Nat × Bool × List (BitVec 8)) → List (BitVec 8)

/-- The bytes over which PROT_DIGEST is taken: the partition, the rights entries of every channel, and the owner channel of
every die (R489 names the parts, not their layout). -/
opaque Config.protMessage : Nat × Nat → List (Nat × List Word64) → List (Nat × Option Nat) → List (BitVec 8)

/-- Byte `i` of what IDENTITY_READ and session proofs take for the identity public key of a package without an identity
(R477). -/
opaque Config.noIdentity : Nat → BitVec 8

/-- PIVOT_EXP of a matrix without a nonzero pivot, from the fields of the descriptor and the bytes of the inputs: R257 states no
value, and R251 lets it depend on nothing else. -/
opaque Config.noPivotExp : List Nat → List (BitVec 8) → BitVec 16

/-- The `n`-th free draw as `w` bits. -/
def Config.freeBits (n w : Nat) : Nat :=
  ((List.range ((w + 7) / 8)).foldr (fun i acc => (Config.freeByte n i).toNat + 256 * acc) 0) % 2 ^ w

/-- The `n`-th free draw as `k` bytes. -/
def Config.freeBytes (n k : Nat) : List Byte := (List.range k).map (Config.freeByte n)

end Sys2Proof
end

