-- ==== Sys2Proof/Machine/Registers.lean ====
section
/-! DEFINITION. The control-space map of R515, the register tables of every chapter (offset, reset value and the
bits of each access code of R6) and the stored value of a register. A register is stored at its control-space
offset; its value is listed only where it differs from its reset value. Reserved bits belong to no access code,
so they read zero and ignore writes (R5). -/

namespace Sys2Proof.Machine

/-- A field of a register: offset in its block, bits [hi..lo]. -/
structure Field where
  off : Nat
  hi : Nat
  lo : Nat
  deriving DecidableEq, Repr

/-- A row of a register table: `count` registers from `off`, `stride` apart, the reset value, and the bits that
carry RW, RWS, RWL, WO and W1C. -/
structure RegDesc where
  off : Nat
  stride : Nat
  count : Nat
  reset : Nat
  rw : Nat
  rws : Nat
  rwl : Nat
  wo : Nat
  w1c : Nat
  deriving DecidableEq, Repr

/-! ### Fields -/

def DSQ_CTRL.off : Nat := 0x0
def DSQ_CTRL.ABORT : Field := ⟨0x0, 2, 2⟩
def DSQ_CTRL.STOP : Field := ⟨0x0, 1, 1⟩
def DSQ_CTRL.ARM : Field := ⟨0x0, 0, 0⟩
def DSQ_STATUS.off : Nat := 0x4
def DSQ_STATUS.TASK : Field := ⟨0x4, 15, 12⟩
def DSQ_STATUS.SLOT : Field := ⟨0x4, 9, 8⟩
def DSQ_STATUS.STATE : Field := ⟨0x4, 2, 0⟩
def DSQ_START_GRAIN_LO.off : Nat := 0x8
def DSQ_START_GRAIN_LO.START_GRAIN : Field := ⟨0x8, 31, 0⟩
def DSQ_START_GRAIN_HI.off : Nat := 0xC
def DSQ_START_GRAIN_HI.START_GRAIN : Field := ⟨0xC, 31, 0⟩
def DSQ_CUT_PERIOD.off : Nat := 0x10
def DSQ_CUT_PERIOD.PERIOD : Field := ⟨0x10, 31, 0⟩
def DSQ_NEXT_CUT_LO.off : Nat := 0x18
def DSQ_NEXT_CUT_LO.NEXT_CUT : Field := ⟨0x18, 31, 0⟩
def DSQ_NEXT_CUT_HI.off : Nat := 0x1C
def DSQ_NEXT_CUT_HI.NEXT_CUT : Field := ⟨0x1C, 31, 0⟩
def DSQ_STEP_CYCLES_LO.off : Nat := 0x20
def DSQ_STEP_CYCLES_LO.STEP_CYCLES : Field := ⟨0x20, 31, 0⟩
def DSQ_STEP_CYCLES_HI.off : Nat := 0x24
def DSQ_STEP_CYCLES_HI.STEP_CYCLES : Field := ⟨0x24, 31, 0⟩
def DSQ_HOLD_CYCLES.off : Nat := 0x28
def DSQ_HOLD_CYCLES.HOLD : Field := ⟨0x28, 31, 0⟩
def DSQ_TAGWAIT_COUNT.off : Nat := 0x2C
def DSQ_TAGWAIT_COUNT.WAITS : Field := ⟨0x2C, 31, 0⟩
def DSQ_TAGWAIT_LIMIT.off : Nat := 0x30
def DSQ_TAGWAIT_LIMIT.LIMIT : Field := ⟨0x30, 31, 0⟩
def DSQ_WAIT_INFO.off : Nat := 0x34
def DSQ_WAIT_INFO.TILE : Field := ⟨0x34, 31, 22⟩
def DSQ_WAIT_INFO.SLOT : Field := ⟨0x34, 21, 9⟩
def DSQ_WAIT_INFO.WRITE : Field := ⟨0x34, 0, 0⟩
def DSQ_EVENTS.off : Nat := 0x38
def DSQ_EVENTS.STOPPED : Field := ⟨0x38, 5, 5⟩
def DSQ_EVENTS.WAIT_TIMEOUT : Field := ⟨0x38, 4, 4⟩
def DSQ_EVENTS.LATE_CUT : Field := ⟨0x38, 3, 3⟩
def DSQ_EVENTS.LATE_START : Field := ⟨0x38, 2, 2⟩
def DSQ_EVENTS.CUT_TAKEN : Field := ⟨0x38, 1, 1⟩
def DSQ_EVENTS.MOULD_END : Field := ⟨0x38, 0, 0⟩
def DSQ_EVENT_MASK.off : Nat := 0x3C
def DSQ_EVENT_MASK.MASK : Field := ⟨0x3C, 5, 0⟩
def DSQ_CLOCK.off : Nat := 0x40
def DSQ_CLOCK.PERIOD_Q12 : Field := ⟨0x40, 15, 0⟩
def MLD_SLOT_STATE.off : Nat := 0x80
def MLD_SLOT_STATE.stride : Nat := 16
def MLD_SLOT_STATE.REASON : Field := ⟨0x80, 31, 16⟩
def MLD_SLOT_STATE.STATE : Field := ⟨0x80, 2, 0⟩
def MLD_SLOT_CYCLES.off : Nat := 0x84
def MLD_SLOT_CYCLES.stride : Nat := 16
def MLD_SLOT_CYCLES.CYCLES : Field := ⟨0x84, 31, 0⟩
def MLD_SLOT_ID_LO.off : Nat := 0x88
def MLD_SLOT_ID_LO.stride : Nat := 16
def MLD_SLOT_ID_LO.MOULD_ID : Field := ⟨0x88, 31, 0⟩
def MLD_SLOT_ID_HI.off : Nat := 0x8C
def MLD_SLOT_ID_HI.stride : Nat := 16
def MLD_SLOT_ID_HI.MOULD_ID : Field := ⟨0x8C, 31, 0⟩
def TSK_CFG.off : Nat := 0x100
def TSK_CFG.stride : Nat := 16
def TSK_CFG.VALID : Field := ⟨0x100, 31, 31⟩
def TSK_CFG.RELAXED : Field := ⟨0x100, 27, 27⟩
def TSK_CFG.THROUGHPUT : Field := ⟨0x100, 26, 26⟩
def TSK_CFG.NUMERICS : Field := ⟨0x100, 25, 24⟩
def TSK_CFG.STEP : Field := ⟨0x100, 23, 23⟩
def TSK_CFG.SLOT : Field := ⟨0x100, 21, 20⟩
def TSK_CFG.QUANTUM : Field := ⟨0x100, 15, 0⟩
def TSK_JOB.off : Nat := 0x104
def TSK_JOB.stride : Nat := 16
def TSK_JOB.JOB : Field := ⟨0x104, 31, 0⟩
def TSK_STEPS.off : Nat := 0x108
def TSK_STEPS.stride : Nat := 16
def TSK_STEPS.STEPS : Field := ⟨0x108, 31, 0⟩
def TVE_FLAGS.off : Nat := 0x0
def TVE_FLAGS.V_INV : Field := ⟨0x0, 6, 6⟩
def TVE_FLAGS.V_UNF : Field := ⟨0x0, 5, 5⟩
def TVE_FLAGS.V_OVF : Field := ⟨0x0, 4, 4⟩
def TVE_FLAGS.M_INV : Field := ⟨0x0, 2, 2⟩
def TVE_FLAGS.M_UNF : Field := ⟨0x0, 1, 1⟩
def TVE_FLAGS.M_OVF : Field := ⟨0x0, 0, 0⟩
def TVE_STATUS.off : Nat := 0x4
def TVE_STATUS.VPROG : Field := ⟨0x4, 31, 24⟩
def TVE_STATUS.ISSUES : Field := ⟨0x4, 23, 8⟩
def TVE_STATUS.RUNNING : Field := ⟨0x4, 0, 0⟩
def TVE_AMAX.off : Nat := 0x10
def TVE_AMAX.stride : Nat := 4
def TVE_AMAX.AMAX : Field := ⟨0x10, 31, 0⟩
def TVE_VS_LO.off : Nat := 0x20
def TVE_VS_LO.stride : Nat := 8
def TVE_VS_LO.VALUE : Field := ⟨0x20, 31, 0⟩
def TVE_VS_HI.off : Nat := 0x24
def TVE_VS_HI.stride : Nat := 8
def TVE_VS_HI.VALUE : Field := ⟨0x24, 31, 0⟩
def TVE_SEEDS.off : Nat := 0x60
def TVE_SEEDS.ENTRIES : Field := ⟨0x60, 4, 0⟩
def SCR_CE_COUNT.off : Nat := 0x0
def SCR_CE_COUNT.COUNT : Field := ⟨0x0, 31, 0⟩
def SCR_UE_COUNT.off : Nat := 0x4
def SCR_UE_COUNT.COUNT : Field := ⟨0x4, 31, 0⟩
def SCR_ERR_INFO.off : Nat := 0x8
def SCR_ERR_INFO.TILE : Field := ⟨0x8, 31, 22⟩
def SCR_ERR_INFO.SLOT : Field := ⟨0x8, 21, 9⟩
def SCR_ERR_INFO.WORD : Field := ⟨0x8, 8, 4⟩
def SCR_ERR_INFO.KIND : Field := ⟨0x8, 2, 0⟩
def SCR_EVENTS.off : Nat := 0xC
def SCR_EVENTS.DROPPED : Field := ⟨0xC, 4, 4⟩
def SCR_EVENTS.OVERRUN : Field := ⟨0xC, 3, 3⟩
def SCR_EVENTS.POISON_READ : Field := ⟨0xC, 2, 2⟩
def SCR_EVENTS.UE : Field := ⟨0xC, 1, 1⟩
def SCR_EVENTS.CE : Field := ⟨0xC, 0, 0⟩
def SCR_EVENT_MASK.off : Nat := 0x10
def SCR_EVENT_MASK.MASK : Field := ⟨0x10, 4, 0⟩
def SCR_SCRUB.off : Nat := 0x14
def SCR_SCRUB.ENABLE : Field := ⟨0x14, 31, 31⟩
def SCR_SCRUB.PERIOD : Field := ⟨0x14, 15, 0⟩
def SCR_DROP_COUNT.off : Nat := 0x18
def SCR_DROP_COUNT.COUNT : Field := ⟨0x18, 31, 0⟩
def SCR_CLEAR.off : Nat := 0x20
def SCR_CLEAR.FIRST_SLOT : Field := ⟨0x20, 31, 19⟩
def SCR_CLEAR.SLOT_COUNT : Field := ⟨0x20, 18, 6⟩
def SCR_CLEAR.BUSY : Field := ⟨0x20, 1, 1⟩
def SCR_CLEAR.GO : Field := ⟨0x20, 0, 0⟩
def SCR_TASK.off : Nat := 0x100
def SCR_TASK.stride : Nat := 4
def SCR_TASK.BASE : Field := ⟨0x100, 28, 16⟩
def SCR_TASK.BOUND : Field := ⟨0x100, 12, 0⟩
def TNM_SLOT.off : Nat := 0x200
def TNM_SLOT.stride : Nat := 4
def TNM_SLOT.ENABLE : Field := ⟨0x200, 31, 31⟩
def TNM_SLOT.M_EN : Field := ⟨0x200, 30, 30⟩
def TNM_SLOT.V_EN : Field := ⟨0x200, 29, 29⟩
def TNM_SLOT.NEXT : Field := ⟨0x200, 1, 0⟩
def TNM_VOTE_TEAM.off : Nat := 0x210
def TNM_VOTE_TEAM.TEAM : Field := ⟨0x210, 31, 0⟩
def TNM_STATUS.off : Nat := 0x214
def TNM_STATUS.RUNG : Field := ⟨0x214, 9, 8⟩
def TNM_STATUS.UNABLE : Field := ⟨0x214, 2, 2⟩
def TNM_STATUS.VOTING : Field := ⟨0x214, 1, 1⟩
def TNM_STATUS.STEP_OVF : Field := ⟨0x214, 0, 0⟩
def TNM_REFIRE_COUNT.off : Nat := 0x218
def TNM_REFIRE_COUNT.COUNT : Field := ⟨0x218, 31, 0⟩
def TNM_EVENTS.off : Nat := 0x21C
def TNM_EVENTS.VOTE_FAIL : Field := ⟨0x21C, 2, 2⟩
def TNM_EVENTS.EXHAUSTED : Field := ⟨0x21C, 1, 1⟩
def TNM_EVENTS.REFIRE : Field := ⟨0x21C, 0, 0⟩
def TNM_EVENT_MASK.off : Nat := 0x220
def TNM_EVENT_MASK.MASK : Field := ⟨0x220, 2, 0⟩
def TNM_LAST_REFIRE.off : Nat := 0x224
def TNM_LAST_REFIRE.TILE : Field := ⟨0x224, 31, 22⟩
def TNM_LAST_REFIRE.FROM : Field := ⟨0x224, 3, 2⟩
def TNM_LAST_REFIRE.TO : Field := ⟨0x224, 1, 0⟩
def CPC_CTRL.off : Nat := 0x0
def CPC_CTRL.NMI : Field := ⟨0x0, 1, 1⟩
def CPC_CTRL.RELEASE : Field := ⟨0x0, 0, 0⟩
def CPC_STATUS.off : Nat := 0x4
def CPC_STATUS.SECURE : Field := ⟨0x4, 5, 5⟩
def CPC_STATUS.PL : Field := ⟨0x4, 4, 3⟩
def CPC_STATUS.STATE : Field := ⟨0x4, 2, 0⟩
def CPC_ENTRY_LO.off : Nat := 0x8
def CPC_ENTRY_LO.ENTRY : Field := ⟨0x8, 31, 0⟩
def CPC_ENTRY_HI.off : Nat := 0xC
def CPC_ENTRY_HI.ENTRY : Field := ⟨0xC, 31, 0⟩
def CPC_GRAIN_CMP_LO.off : Nat := 0x10
def CPC_GRAIN_CMP_LO.CMP : Field := ⟨0x10, 31, 0⟩
def CPC_GRAIN_CMP_HI.off : Nat := 0x14
def CPC_GRAIN_CMP_HI.CMP : Field := ⟨0x14, 31, 0⟩
def CPC_IRQ_PEND.off : Nat := 0x20
def CPC_IRQ_PEND.stride : Nat := 4
def CPC_IRQ_PEND.PEND : Field := ⟨0x20, 31, 0⟩
def CPC_IRQ_MASK.off : Nat := 0x30
def CPC_IRQ_MASK.stride : Nat := 4
def CPC_IRQ_MASK.MASK : Field := ⟨0x30, 31, 0⟩
def CPC_IPI.off : Nat := 0x40
def CPC_IPI.CLEAR : Field := ⟨0x40, 31, 31⟩
def CPC_IPI.TARGET : Field := ⟨0x40, 6, 0⟩
def CPC_CACHE_ERR.off : Nat := 0x44
def CPC_CACHE_ERR.COUNT : Field := ⟨0x44, 31, 0⟩
def SLV_SUBMIT_LO.off : Nat := 0x0
def SLV_SUBMIT_LO.ADDR : Field := ⟨0x0, 31, 0⟩
def SLV_SUBMIT_HI.off : Nat := 0x4
def SLV_SUBMIT_HI.ADDR : Field := ⟨0x4, 31, 0⟩
def SLV_STATUS.off : Nat := 0x8
def SLV_STATUS.QUEUED : Field := ⟨0x8, 20, 16⟩
def SLV_STATUS.STATE : Field := ⟨0x8, 1, 0⟩
def SLV_CUR_LO.off : Nat := 0x10
def SLV_CUR_LO.ADDR : Field := ⟨0x10, 31, 0⟩
def SLV_CUR_HI.off : Nat := 0x14
def SLV_CUR_HI.ADDR : Field := ⟨0x14, 31, 0⟩
def SLV_BATCHES.off : Nat := 0x18
def SLV_BATCHES.COUNT : Field := ⟨0x18, 31, 0⟩
def SLV_MISS_COUNT.off : Nat := 0x1C
def SLV_MISS_COUNT.COUNT : Field := ⟨0x1C, 31, 0⟩
def SLV_REFUSE_COUNT.off : Nat := 0x20
def SLV_REFUSE_COUNT.COUNT : Field := ⟨0x20, 31, 0⟩
def SLV_EVENTS.off : Nat := 0x24
def SLV_EVENTS.DROPPED : Field := ⟨0x24, 3, 3⟩
def SLV_EVENTS.REJECTED : Field := ⟨0x24, 2, 2⟩
def SLV_EVENTS.MISS : Field := ⟨0x24, 1, 1⟩
def SLV_EVENTS.DONE : Field := ⟨0x24, 0, 0⟩
def MEM_CE_COUNT.off : Nat := 0x0
def MEM_CE_COUNT.COUNT : Field := ⟨0x0, 31, 0⟩
def MEM_UE_COUNT.off : Nat := 0x4
def MEM_UE_COUNT.COUNT : Field := ⟨0x4, 31, 0⟩
def MEM_ERR_ADDR_LO.off : Nat := 0x8
def MEM_ERR_ADDR_LO.ADDR : Field := ⟨0x8, 31, 0⟩
def MEM_ERR_ADDR_HI.off : Nat := 0xC
def MEM_ERR_ADDR_HI.ADDR : Field := ⟨0xC, 31, 0⟩
def MEM_EVENTS.off : Nat := 0x10
def MEM_EVENTS.RESERVE_FULL : Field := ⟨0x10, 3, 3⟩
def MEM_EVENTS.CUT_REFUSED : Field := ⟨0x10, 2, 2⟩
def MEM_EVENTS.UE : Field := ⟨0x10, 1, 1⟩
def MEM_EVENTS.CE : Field := ⟨0x10, 0, 0⟩
def MEM_EVENT_MASK.off : Nat := 0x14
def MEM_EVENT_MASK.MASK : Field := ⟨0x14, 3, 0⟩
def MEM_SCRUB.off : Nat := 0x18
def MEM_SCRUB.ENABLE : Field := ⟨0x18, 31, 31⟩
def MEM_SCRUB.PERIOD : Field := ⟨0x18, 15, 0⟩
def MEM_DRIFT_STORE.off : Nat := 0x20
def MEM_DRIFT_STORE.COUNT : Field := ⟨0x20, 31, 0⟩
def MEM_DRIFT_ATOMIC.off : Nat := 0x24
def MEM_DRIFT_ATOMIC.COUNT : Field := ⟨0x24, 31, 0⟩
def MEM_ATOMIC_FLAGS.off : Nat := 0x28
def MEM_ATOMIC_FLAGS.INV : Field := ⟨0x28, 2, 2⟩
def MEM_ATOMIC_FLAGS.UNF : Field := ⟨0x28, 1, 1⟩
def MEM_ATOMIC_FLAGS.OVF : Field := ⟨0x28, 0, 0⟩
def MEM_DIRTY_CTRL.off : Nat := 0x30
def MEM_DIRTY_CTRL.ENABLE : Field := ⟨0x30, 0, 0⟩
def MEM_DIRTY_COUNT.off : Nat := 0x34
def MEM_DIRTY_COUNT.GRANULES : Field := ⟨0x34, 21, 0⟩
def MEM_CUT_COUNT.off : Nat := 0x38
def MEM_CUT_COUNT.GRANULES : Field := ⟨0x38, 21, 0⟩
def MEM_RESERVE_BASE.off : Nat := 0x40
def MEM_RESERVE_BASE.GRANULE : Field := ⟨0x40, 20, 0⟩
def MEM_RESERVE_SIZE.off : Nat := 0x44
def MEM_RESERVE_SIZE.GRANULE : Field := ⟨0x44, 20, 0⟩
def MEM_RESERVE_USED.off : Nat := 0x48
def MEM_RESERVE_USED.GRANULES : Field := ⟨0x48, 20, 0⟩
def FT_CFG.off : Nat := 0x0
def FT_CFG.MODE : Field := ⟨0x0, 1, 0⟩
def FT_ILV.off : Nat := 0x4
def FT_ILV.INTERLEAVE : Field := ⟨0x4, 0, 0⟩
def FT_DEV.off : Nat := 0x10
def FT_DEV.stride : Nat := 16
def FT_DEV.COMMIT : Field := ⟨0x10, 31, 31⟩
def FT_DEV.BASE : Field := ⟨0x10, 30, 15⟩
def FT_DEV.SIZE : Field := ⟨0x10, 14, 0⟩
def FT_DEV_STATUS.off : Nat := 0x14
def FT_DEV_STATUS.stride : Nat := 16
def FT_DEV_STATUS.DOWN : Field := ⟨0x14, 1, 1⟩
def FT_DEV_STATUS.PRESENT : Field := ⟨0x14, 0, 0⟩
def GLP_PLACE.off : Nat := 0x0
def GLP_PLACE.VALID : Field := ⟨0x0, 15, 15⟩
def GLP_PLACE.PLACE : Field := ⟨0x0, 14, 0⟩
def GLP_SHAPE.off : Nat := 0x4
def GLP_SHAPE.GROUPS_M1 : Field := ⟨0x4, 14, 8⟩
def GLP_SHAPE.NODES_M1 : Field := ⟨0x4, 7, 3⟩
def GLP_ROUTE_CFG.off : Nat := 0x8
def GLP_ROUTE_CFG.HIGH : Field := ⟨0x8, 31, 24⟩
def GLP_ROUTE_CFG.LOW : Field := ⟨0x8, 23, 16⟩
def GLP_ROUTE_CFG.W_TC0 : Field := ⟨0x8, 15, 8⟩
def GLP_ROUTE_CFG.W_TC5 : Field := ⟨0x8, 7, 0⟩
def GLP_CONG.off : Nat := 0xC
def GLP_CONG.SYSTEM : Field := ⟨0xC, 23, 16⟩
def GLP_CONG.GROUP : Field := ⟨0xC, 15, 8⟩
def GLP_CONG.NODE : Field := ⟨0xC, 7, 0⟩
def GLP_EPOCH.off : Nat := 0x10
def GLP_EPOCH.EPOCH : Field := ⟨0x10, 7, 0⟩
def GLP_RESEND.off : Nat := 0x14
def GLP_RESEND.GRAINS : Field := ⟨0x14, 31, 0⟩
def GLP_DIVERT_NODE.off : Nat := 0x20
def GLP_DIVERT_NODE.COUNT : Field := ⟨0x20, 31, 0⟩
def GLP_DIVERT_GROUP.off : Nat := 0x24
def GLP_DIVERT_GROUP.COUNT : Field := ⟨0x24, 31, 0⟩
def GLP_DIVERT_SYSTEM.off : Nat := 0x28
def GLP_DIVERT_SYSTEM.COUNT : Field := ⟨0x28, 31, 0⟩
def GLP_FORCED.off : Nat := 0x2C
def GLP_FORCED.COUNT : Field := ⟨0x2C, 31, 0⟩
def GLP_UNREACH.off : Nat := 0x30
def GLP_UNREACH.COUNT : Field := ⟨0x30, 31, 0⟩
def GLP_JOB.off : Nat := 0x100
def GLP_JOB.stride : Nat := 8
def GLP_JOB.JOB : Field := ⟨0x100, 31, 0⟩
def GLP_JOB_MODE.off : Nat := 0x104
def GLP_JOB_MODE.stride : Nat := 8
def GLP_JOB_MODE.VALID : Field := ⟨0x104, 31, 31⟩
def GLP_JOB_MODE.THROUGHPUT : Field := ⟨0x104, 1, 1⟩
def GLP_JOB_MODE.RELAXED : Field := ⟨0x104, 0, 0⟩
def PRT_CTRL.off : Nat := 0x0
def PRT_CTRL.RELEASE : Field := ⟨0x0, 2, 2⟩
def PRT_CTRL.RETRAIN : Field := ⟨0x0, 1, 1⟩
def PRT_CTRL.ENABLE : Field := ⟨0x0, 0, 0⟩
def PRT_STATUS.off : Nat := 0x4
def PRT_STATUS.PEER_PLACE : Field := ⟨0x4, 31, 17⟩
def PRT_STATUS.PEER_PORT : Field := ⟨0x4, 16, 11⟩
def PRT_STATUS.LEVEL : Field := ⟨0x4, 10, 9⟩
def PRT_STATUS.LANE_REV : Field := ⟨0x4, 8, 8⟩
def PRT_STATUS.STATE : Field := ⟨0x4, 2, 0⟩
def PRT_FEC_CE.off : Nat := 0x8
def PRT_FEC_CE.COUNT : Field := ⟨0x8, 31, 0⟩
def PRT_FEC_UE.off : Nat := 0xC
def PRT_FEC_UE.COUNT : Field := ⟨0xC, 31, 0⟩
def PRT_RETRY.off : Nat := 0x10
def PRT_RETRY.COUNT : Field := ⟨0x10, 31, 0⟩
def PRT_MALFORMED.off : Nat := 0x14
def PRT_MALFORMED.COUNT : Field := ⟨0x14, 31, 0⟩
def PRT_MAL_LIMIT.off : Nat := 0x18
def PRT_MAL_LIMIT.LIMIT : Field := ⟨0x18, 15, 0⟩
def PRT_EVENTS.off : Nat := 0x1C
def PRT_EVENTS.MISWIRED : Field := ⟨0x1C, 3, 3⟩
def PRT_EVENTS.QUARANTINED : Field := ⟨0x1C, 2, 2⟩
def PRT_EVENTS.DOWN : Field := ⟨0x1C, 1, 1⟩
def PRT_EVENTS.UP : Field := ⟨0x1C, 0, 0⟩
def RMT_DUP.off : Nat := 0x0
def RMT_DUP.COUNT : Field := ⟨0x0, 31, 0⟩
def RMT_WINDOW_DROP.off : Nat := 0x4
def RMT_WINDOW_DROP.COUNT : Field := ⟨0x4, 31, 0⟩
def RMT_RESENT.off : Nat := 0x8
def RMT_RESENT.COUNT : Field := ⟨0x8, 31, 0⟩
def RMT_FLAG_HELD.off : Nat := 0xC
def RMT_FLAG_HELD.COUNT : Field := ⟨0xC, 31, 0⟩
def RMT_COMBINED.off : Nat := 0x10
def RMT_COMBINED.COUNT : Field := ⟨0x10, 31, 0⟩
def RMT_COMBINE_FLOAT.off : Nat := 0x14
def RMT_COMBINE_FLOAT.COUNT : Field := ⟨0x14, 31, 0⟩
def RMT_STORE_USED.off : Nat := 0x18
def RMT_STORE_USED.RETRY : Field := ⟨0x18, 31, 16⟩
def RMT_STORE_USED.RESP : Field := ⟨0x18, 15, 0⟩
def CPE_SUBMIT_LO.off : Nat := 0x0
def CPE_SUBMIT_LO.ADDR : Field := ⟨0x0, 31, 0⟩
def CPE_SUBMIT_HI.off : Nat := 0x4
def CPE_SUBMIT_HI.ADDR : Field := ⟨0x4, 31, 0⟩
def CPE_STATUS.off : Nat := 0x8
def CPE_STATUS.QUEUED : Field := ⟨0x8, 24, 16⟩
def CPE_STATUS.OUTSTANDING : Field := ⟨0x8, 9, 0⟩
def CPE_STATUS2.off : Nat := 0xC
def CPE_STATUS2.STATE : Field := ⟨0xC, 1, 0⟩
def CPE_CUR_LO.off : Nat := 0x10
def CPE_CUR_LO.ADDR : Field := ⟨0x10, 31, 0⟩
def CPE_CUR_HI.off : Nat := 0x14
def CPE_CUR_HI.ADDR : Field := ⟨0x14, 31, 0⟩
def CPE_DONE.off : Nat := 0x18
def CPE_DONE.COUNT : Field := ⟨0x18, 31, 0⟩
def CPE_EVENTS.off : Nat := 0x1C
def CPE_EVENTS.DROPPED : Field := ⟨0x1C, 2, 2⟩
def CPE_EVENTS.LATE : Field := ⟨0x1C, 1, 1⟩
def CPE_EVENTS.DENIED : Field := ⟨0x1C, 0, 0⟩
def COL_ENTER_LO.off : Nat := 0x0
def COL_ENTER_LO.ADDR : Field := ⟨0x0, 31, 0⟩
def COL_ENTER_HI.off : Nat := 0x4
def COL_ENTER_HI.ADDR : Field := ⟨0x4, 31, 0⟩
def COL_STATUS.off : Nat := 0x8
def COL_STATUS.TEAMS : Field := ⟨0x8, 26, 16⟩
def COL_STATUS.OUTSTANDING : Field := ⟨0x8, 15, 0⟩
def COL_CALLS.off : Nat := 0x10
def COL_CALLS.COUNT : Field := ⟨0x10, 31, 0⟩
def COL_MISMATCH_COUNT.off : Nat := 0x14
def COL_MISMATCH_COUNT.COUNT : Field := ⟨0x14, 31, 0⟩
def COL_LOST.off : Nat := 0x18
def COL_LOST.COUNT : Field := ⟨0x18, 31, 0⟩
def COL_REATTACH.off : Nat := 0x1C
def COL_REATTACH.COUNT : Field := ⟨0x1C, 31, 0⟩
def COL_ARRIVAL_FOLDS.off : Nat := 0x20
def COL_ARRIVAL_FOLDS.COUNT : Field := ⟨0x20, 31, 0⟩
def COL_LATE.off : Nat := 0x24
def COL_LATE.COUNT : Field := ⟨0x24, 31, 0⟩
def COL_EVENTS.off : Nat := 0x28
def COL_EVENTS.LATE : Field := ⟨0x28, 4, 4⟩
def COL_EVENTS.REATTACH : Field := ⟨0x28, 3, 3⟩
def COL_EVENTS.LOST : Field := ⟨0x28, 2, 2⟩
def COL_EVENTS.MISMATCH : Field := ⟨0x28, 1, 1⟩
def COL_EVENTS.DENIED : Field := ⟨0x28, 0, 0⟩
def COL_EVENT_MASK.off : Nat := 0x2C
def COL_EVENT_MASK.MASK : Field := ⟨0x2C, 4, 0⟩
def TB_CTRL.off : Nat := 0x0
def TB_CTRL.RESELECT : Field := ⟨0x0, 2, 2⟩
def TB_CTRL.PPS_EN : Field := ⟨0x0, 1, 1⟩
def TB_CTRL.GM : Field := ⟨0x0, 0, 0⟩
def TB_STATUS.off : Nat := 0x4
def TB_STATUS.UPSTREAM : Field := ⟨0x4, 19, 14⟩
def TB_STATUS.DISTANCE : Field := ⟨0x4, 13, 10⟩
def TB_STATUS.FAULT : Field := ⟨0x4, 4, 4⟩
def TB_STATUS.PPS_LOCKED : Field := ⟨0x4, 3, 3⟩
def TB_STATUS.STATE : Field := ⟨0x4, 1, 0⟩
def TB_NOW_LO.off : Nat := 0x8
def TB_NOW_LO.NOW : Field := ⟨0x8, 31, 0⟩
def TB_NOW_HI.off : Nat := 0xC
def TB_NOW_HI.NOW : Field := ⟨0xC, 31, 0⟩
def TB_OFFSET.off : Nat := 0x10
def TB_OFFSET.OFFSET : Field := ⟨0x10, 31, 0⟩
def TB_START_LO.off : Nat := 0x18
def TB_START_LO.START : Field := ⟨0x18, 31, 0⟩
def TB_START_HI.off : Nat := 0x1C
def TB_START_HI.START : Field := ⟨0x1C, 31, 0⟩
def TB_GM_PLACE.off : Nat := 0x20
def TB_GM_PLACE.PLACE : Field := ⟨0x20, 14, 0⟩
def TB_EVENTS.off : Nat := 0x24
def TB_EVENTS.UPSTREAM_CHANGE : Field := ⟨0x24, 3, 3⟩
def TB_EVENTS.FAULT : Field := ⟨0x24, 2, 2⟩
def TB_EVENTS.HOLDOVER : Field := ⟨0x24, 1, 1⟩
def TB_EVENTS.LOCK : Field := ⟨0x24, 0, 0⟩
def TB_PENDING.off : Nat := 0x28
def TB_PENDING.COUNT : Field := ⟨0x28, 8, 0⟩
def CLK_PERIOD.off : Nat := 0x300
def CLK_PERIOD.PERIOD_Q12 : Field := ⟨0x300, 15, 0⟩
def CLK_CAUSE.off : Nat := 0x304
def CLK_CAUSE.CAUSE : Field := ⟨0x304, 5, 0⟩
def CLK_SENSE.off : Nat := 0x308
def CLK_SENSE.TJ_MAX : Field := ⟨0x308, 31, 24⟩
def CLK_SENSE.TSPREAD : Field := ⟨0x308, 23, 16⟩
def CLK_SENSE.VDIFF : Field := ⟨0x308, 15, 8⟩
def CLK_STRETCH_GRAINS.off : Nat := 0x30C
def CLK_STRETCH_GRAINS.COUNT : Field := ⟨0x30C, 31, 0⟩
def STR_CTRL.off : Nat := 0x400
def STR_CTRL.ABANDON : Field := ⟨0x400, 31, 31⟩
def STR_CTRL.BEDROCK : Field := ⟨0x400, 8, 8⟩
def STR_CTRL.TASK : Field := ⟨0x400, 3, 0⟩
def STR_STEP_LO.off : Nat := 0x408
def STR_STEP_LO.STEP : Field := ⟨0x408, 31, 0⟩
def STR_STEP_HI.off : Nat := 0x40C
def STR_STEP_HI.STEP : Field := ⟨0x40C, 31, 0⟩
def STR_DUE_LO.off : Nat := 0x410
def STR_DUE_LO.DUE : Field := ⟨0x410, 31, 0⟩
def STR_DUE_HI.off : Nat := 0x414
def STR_DUE_HI.DUE : Field := ⟨0x414, 31, 0⟩
def STR_STATUS.off : Nat := 0x404
def STR_STATUS.S_OPEN : Field := ⟨0x404, 1, 1⟩
def STR_STATUS.M_OPEN : Field := ⟨0x404, 0, 0⟩
def STR_EVENTS.off : Nat := 0x418
def STR_EVENTS.ABANDONED : Field := ⟨0x418, 2, 2⟩
def STR_EVENTS.S_REFUSED : Field := ⟨0x418, 1, 1⟩
def STR_EVENTS.CLOSED : Field := ⟨0x418, 0, 0⟩
def STR_CAP_M_LO.off : Nat := 0x500
def STR_CAP_M_LO.stride : Nat := 8
def STR_CAP_M_LO.FIRST : Field := ⟨0x500, 20, 0⟩
def STR_CAP_M_HI.off : Nat := 0x504
def STR_CAP_M_HI.stride : Nat := 8
def STR_CAP_M_HI.COUNT : Field := ⟨0x504, 20, 0⟩
def STR_CAP_S.off : Nat := 0x600
def STR_CAP_S.stride : Nat := 4
def STR_CAP_S.FIRST : Field := ⟨0x600, 29, 16⟩
def STR_CAP_S.COUNT : Field := ⟨0x600, 13, 0⟩
def SCR_RSV_MAP.off : Nat := 0x800
def SCR_RSV_MAP.stride : Nat := 4
def SCR_RSV_MAP.MAP : Field := ⟨0x800, 31, 0⟩
def SCR_DIRTY_COUNT.off : Nat := 0x40
def SCR_DIRTY_COUNT.GRANULES : Field := ⟨0x40, 13, 0⟩
def SCR_CUT_COUNT.off : Nat := 0x44
def SCR_CUT_COUNT.GRANULES : Field := ⟨0x44, 13, 0⟩
def SCR_RSV_USED.off : Nat := 0x48
def SCR_RSV_USED.GRANULES : Field := ⟨0x48, 13, 0⟩
def CH_REQ_LO.off : Nat := 0x0
def CH_REQ_LO.WORD : Field := ⟨0x0, 31, 0⟩
def CH_REQ_HI.off : Nat := 0x4
def CH_REQ_HI.WORD : Field := ⟨0x4, 31, 0⟩
def CH_RSP_LO.off : Nat := 0x8
def CH_RSP_LO.WORD : Field := ⟨0x8, 31, 0⟩
def CH_RSP_HI.off : Nat := 0xC
def CH_RSP_HI.WORD : Field := ⟨0xC, 31, 0⟩
def CH_QSTAT.off : Nat := 0x10
def CH_QSTAT.OUTSTANDING : Field := ⟨0x10, 30, 24⟩
def CH_QSTAT.REQ_FREE : Field := ⟨0x10, 19, 16⟩
def CH_QSTAT.RSP_WORDS : Field := ⟨0x10, 11, 8⟩
def CH_QSTAT.DISCARD : Field := ⟨0x10, 1, 1⟩
def CH_QSTAT.SESSION : Field := ⟨0x10, 0, 0⟩
def CH_ACK.off : Nat := 0x14
def CH_ACK.SEQ : Field := ⟨0x14, 31, 16⟩
def CH_ACK.CODE : Field := ⟨0x14, 15, 0⟩
def CH_DB_REQ.off : Nat := 0x18
def CH_DB_REQ.RESYNC : Field := ⟨0x18, 1, 1⟩
def CH_DB_REQ.KEEPALIVE : Field := ⟨0x18, 0, 0⟩
def CH_DB_IN.off : Nat := 0x1C
def CH_DB_IN.BELL : Field := ⟨0x1C, 31, 0⟩
def CH_DB_IN_MASK.off : Nat := 0x20
def CH_DB_IN_MASK.MASK : Field := ⟨0x20, 31, 0⟩
def CH_SPILL_LO.off : Nat := 0x28
def CH_SPILL_LO.ADDR : Field := ⟨0x28, 31, 0⟩
def CH_SPILL_HI.off : Nat := 0x2C
def CH_SPILL_HI.ADDR : Field := ⟨0x2C, 31, 0⟩
def CH_SPILL_SIZE.off : Nat := 0x30
def CH_SPILL_SIZE.PAGES : Field := ⟨0x30, 15, 0⟩
def CH_SESSION.off : Nat := 0x34
def CH_SESSION.ROLE : Field := ⟨0x34, 31, 29⟩
def CH_SESSION.SLOT : Field := ⟨0x34, 27, 24⟩
def CH_SESSION.IDLE_LEFT : Field := ⟨0x34, 13, 0⟩
def CH_NAK_COUNT.off : Nat := 0x38
def CH_NAK_COUNT.COUNT : Field := ⟨0x38, 31, 0⟩
def FW_CTRL.off : Nat := 0x0
def FW_CTRL.GO : Field := ⟨0x0, 0, 0⟩
def FW_STATUS.off : Nat := 0x4
def FW_STATUS.SVN : Field := ⟨0x4, 31, 16⟩
def FW_STATUS.CODE : Field := ⟨0x4, 2, 0⟩
def SEC_STATUS.off : Nat := 0x10
def SEC_STATUS.MIN_SVN : Field := ⟨0x10, 31, 16⟩
def SEC_STATUS.CLAIMED : Field := ⟨0x10, 2, 2⟩
def SEC_STATUS.PUF : Field := ⟨0x10, 1, 0⟩
def SEC_SLOT.off : Nat := 0x20
def SEC_SLOT.stride : Nat := 4
def SEC_SLOT.TX : Field := ⟨0x20, 13, 13⟩
def SEC_SLOT.CHANNELS : Field := ⟨0x20, 12, 6⟩
def SEC_SLOT.MAXROLE : Field := ⟨0x20, 5, 3⟩
def SEC_SLOT.TYPE : Field := ⟨0x20, 2, 0⟩
def SEC_PART_BASE.off : Nat := 0x60
def SEC_PART_BASE.ADDR : Field := ⟨0x60, 20, 0⟩
def SEC_PART_LIMIT.off : Nat := 0x64
def SEC_PART_LIMIT.ADDR : Field := ⟨0x64, 20, 0⟩
def PWR_CAP.off : Nat := 0x0
def PWR_CAP.CAP : Field := ⟨0x0, 1, 0⟩
def PWR_NOW.off : Nat := 0x4
def PWR_NOW.WATTS : Field := ⟨0x4, 15, 0⟩
def PWR_PERIOD.off : Nat := 0x8
def PWR_PERIOD.PERIOD_Q12 : Field := ⟨0x8, 15, 0⟩
def PWR_EVENTS.off : Nat := 0x10
def PWR_EVENTS.DOMAIN_DONE : Field := ⟨0x10, 4, 4⟩
def PWR_EVENTS.SLUMP_SAVED : Field := ⟨0x10, 3, 3⟩
def PWR_EVENTS.WAKE : Field := ⟨0x10, 2, 2⟩
def PWR_EVENTS.TRIP : Field := ⟨0x10, 1, 1⟩
def PWR_EVENTS.CAP_UNMET : Field := ⟨0x10, 0, 0⟩
def PWR_EVENT_MASK.off : Nat := 0x14
def PWR_EVENT_MASK.MASK : Field := ⟨0x14, 4, 0⟩
def PWR_WAKE_EN.off : Nat := 0x18
def PWR_WAKE_EN.GROUPS : Field := ⟨0x18, 8, 0⟩
def PWR_WAKE_SRC.off : Nat := 0x1C
def PWR_WAKE_SRC.HOST : Field := ⟨0x1C, 9, 9⟩
def PWR_WAKE_SRC.GROUPS : Field := ⟨0x1C, 8, 0⟩
def PWR_SAVE_SEQ.off : Nat := 0x20
def PWR_SAVE_SEQ.VALUE : Field := ⟨0x20, 31, 0⟩
def PWR_SAVE_GRAIN_LO.off : Nat := 0x28
def PWR_SAVE_GRAIN_LO.VALUE : Field := ⟨0x28, 31, 0⟩
def PWR_SAVE_GRAIN_HI.off : Nat := 0x2C
def PWR_SAVE_GRAIN_HI.VALUE : Field := ⟨0x2C, 31, 0⟩
def PWR_DOM.off : Nat := 0x100
def PWR_DOM.stride : Nat := 4
def PWR_DOM.ISOLATED : Field := ⟨0x100, 3, 3⟩
def PWR_DOM.CHANGING : Field := ⟨0x100, 2, 2⟩
def PWR_DOM.STATE : Field := ⟨0x100, 1, 0⟩
def FT_BAD_RSP.off : Nat := 0x80
def FT_BAD_RSP.COUNT : Field := ⟨0x80, 31, 0⟩
def HST_LINK.off : Nat := 0x0
def HST_LINK.NUMVFS : Field := ⟨0x0, 11, 8⟩
def HST_LINK.FLIT : Field := ⟨0x0, 7, 7⟩
def HST_LINK.RATE : Field := ⟨0x0, 6, 4⟩
def HST_LINK.WIDTH : Field := ⟨0x0, 3, 0⟩
def HST_UR_COUNT.off : Nat := 0x10
def HST_UR_COUNT.COUNT : Field := ⟨0x10, 31, 0⟩
def HST_CA_COUNT.off : Nat := 0x14
def HST_CA_COUNT.COUNT : Field := ⟨0x14, 31, 0⟩
def HST_POISON_COUNT.off : Nat := 0x18
def HST_POISON_COUNT.COUNT : Field := ⟨0x18, 31, 0⟩
def HST_WIN_BASE.off : Nat := 0x100
def HST_WIN_BASE.stride : Nat := 16
def HST_WIN_BASE.BASE_GIB : Field := ⟨0x100, 14, 0⟩
def HST_WIN_SIZE.off : Nat := 0x104
def HST_WIN_SIZE.stride : Nat := 16
def HST_WIN_SIZE.LOG2_GIB : Field := ⟨0x104, 4, 0⟩
def MGT_STATUS.off : Nat := 0x0
def MGT_STATUS.DA_VALID : Field := ⟨0x0, 8, 8⟩
def MGT_STATUS.ADDRESS : Field := ⟨0x0, 7, 1⟩
def MGT_DROP_COUNT.off : Nat := 0x4
def MGT_DROP_COUNT.COUNT : Field := ⟨0x4, 31, 0⟩
def DRF_TOTAL.off : Nat := 0x0
def DRF_TOTAL.COUNT : Field := ⟨0x0, 31, 0⟩
def DRF_CAUSE.off : Nat := 0x4
def DRF_CAUSE.stride : Nat := 4
def DRF_CAUSE.COUNT : Field := ⟨0x4, 31, 0⟩
def DRF_STEP.off : Nat := 0x20
def DRF_STEP.COUNT : Field := ⟨0x20, 31, 0⟩
def DRF_CLEAR.off : Nat := 0x24
def DRF_CLEAR.GO : Field := ⟨0x24, 0, 0⟩
def JRN_NEXT.off : Nat := 0x100
def JRN_NEXT.VALUE : Field := ⟨0x100, 31, 0⟩
def JRN_OLDEST.off : Nat := 0x104
def JRN_OLDEST.VALUE : Field := ⟨0x104, 31, 0⟩
def JRN_LOST.off : Nat := 0x108
def JRN_LOST.VALUE : Field := ⟨0x108, 31, 0⟩
def JRN_PENDING.off : Nat := 0x10C
def JRN_PENDING.VALUE : Field := ⟨0x10C, 31, 0⟩
def GRP_ROUTE.off : Nat := 0x1000
def SYS_ROUTE.off : Nat := 0x1400
def GRP_REACH.off : Nat := 0x1C00
def MEMBER_TABLE.off : Nat := 0x100000

/-! ### Register tables -/

/-- Registers of the dsq tables. -/
def regs_dsq : List RegDesc :=
  [ ⟨0x0, 4, 1, 0x0, 0x0, 0x0, 0x0, 0x7, 0x0⟩  /- DSQ_CTRL -/,
    ⟨0x4, 4, 1, 0x0, 0x0, 0x0, 0x0, 0x0, 0x0⟩  /- DSQ_STATUS -/,
    ⟨0x8, 4, 1, 0x0, 0x0, 0x0, 0xFFFFFFFF, 0x0, 0x0⟩  /- DSQ_START_GRAIN_LO -/,
    ⟨0xC, 4, 1, 0x0, 0x0, 0x0, 0xFFFFFFFF, 0x0, 0x0⟩  /- DSQ_START_GRAIN_HI -/,
    ⟨0x10, 4, 1, 0x0, 0x0, 0xFFFFFFFF, 0x0, 0x0, 0x0⟩  /- DSQ_CUT_PERIOD -/,
    ⟨0x18, 4, 1, 0x0, 0x0, 0x0, 0x0, 0x0, 0x0⟩  /- DSQ_NEXT_CUT_LO -/,
    ⟨0x1C, 4, 1, 0x0, 0x0, 0x0, 0x0, 0x0, 0x0⟩  /- DSQ_NEXT_CUT_HI -/,
    ⟨0x20, 4, 1, 0x0, 0x0, 0x0, 0x0, 0x0, 0x0⟩  /- DSQ_STEP_CYCLES_LO -/,
    ⟨0x24, 4, 1, 0x0, 0x0, 0x0, 0x0, 0x0, 0x0⟩  /- DSQ_STEP_CYCLES_HI -/,
    ⟨0x28, 4, 1, 0x0, 0x0, 0x0, 0x0, 0x0, 0x0⟩  /- DSQ_HOLD_CYCLES -/,
    ⟨0x2C, 4, 1, 0x0, 0x0, 0x0, 0x0, 0x0, 0x0⟩  /- DSQ_TAGWAIT_COUNT -/,
    ⟨0x30, 4, 1, 0x30D40, 0x0, 0xFFFFFFFF, 0x0, 0x0, 0x0⟩  /- DSQ_TAGWAIT_LIMIT -/,
    ⟨0x34, 4, 1, 0x0, 0x0, 0x0, 0x0, 0x0, 0x0⟩  /- DSQ_WAIT_INFO -/,
    ⟨0x38, 4, 1, 0x0, 0x0, 0x0, 0x0, 0x0, 0x3F⟩  /- DSQ_EVENTS -/,
    ⟨0x3C, 4, 1, 0x0, 0x3F, 0x0, 0x0, 0x0, 0x0⟩  /- DSQ_EVENT_MASK -/,
    ⟨0x40, 4, 1, 0x1000, 0x0, 0x0, 0x0, 0x0, 0x0⟩  /- DSQ_CLOCK -/,
    ⟨0x80, 16, 4, 0x0, 0x0, 0x0, 0x0, 0x0, 0x0⟩  /- MLD_SLOT_STATE -/,
    ⟨0x84, 16, 4, 0x0, 0x0, 0x0, 0x0, 0x0, 0x0⟩  /- MLD_SLOT_CYCLES -/,
    ⟨0x88, 16, 4, 0x0, 0x0, 0x0, 0x0, 0x0, 0x0⟩  /- MLD_SLOT_ID_LO -/,
    ⟨0x8C, 16, 4, 0x0, 0x0, 0x0, 0x0, 0x0, 0x0⟩  /- MLD_SLOT_ID_HI -/,
    ⟨0x100, 16, 16, 0x1, 0x0, 0x8FB0FFFF, 0x0, 0x0, 0x0⟩  /- TSK_CFG -/,
    ⟨0x104, 16, 16, 0x0, 0x0, 0xFFFFFFFF, 0x0, 0x0, 0x0⟩  /- TSK_JOB -/,
    ⟨0x108, 16, 16, 0x0, 0x0, 0x0, 0x0, 0x0, 0x0⟩  /- TSK_STEPS -/,
    ⟨0x200, 4, 4, 0x60000000, 0x0, 0x0, 0xE0000003, 0x0, 0x0⟩  /- TNM_SLOT -/,
    ⟨0x210, 4, 1, 0x0, 0x0, 0xFFFFFFFF, 0x0, 0x0, 0x0⟩  /- TNM_VOTE_TEAM -/,
    ⟨0x214, 4, 1, 0x0, 0x0, 0x0, 0x0, 0x0, 0x0⟩  /- TNM_STATUS -/,
    ⟨0x218, 4, 1, 0x0, 0x0, 0x0, 0x0, 0x0, 0x0⟩  /- TNM_REFIRE_COUNT -/,
    ⟨0x21C, 4, 1, 0x0, 0x0, 0x0, 0x0, 0x0, 0x7⟩  /- TNM_EVENTS -/,
    ⟨0x220, 4, 1, 0x0, 0x7, 0x0, 0x0, 0x0, 0x0⟩  /- TNM_EVENT_MASK -/,
    ⟨0x224, 4, 1, 0x0, 0x0, 0x0, 0x0, 0x0, 0x0⟩  /- TNM_LAST_REFIRE -/,
    ⟨0x400, 4, 1, 0x0, 0x0, 0x10F, 0x0, 0x80000000, 0x0⟩  /- STR_CTRL -/,
    ⟨0x408, 4, 1, 0x0, 0x0, 0x0, 0xFFFFFFFF, 0x0, 0x0⟩  /- STR_STEP_LO -/,
    ⟨0x40C, 4, 1, 0x0, 0x0, 0x0, 0xFFFFFFFF, 0x0, 0x0⟩  /- STR_STEP_HI -/,
    ⟨0x410, 4, 1, 0x0, 0x0, 0xFFFFFFFF, 0x0, 0x0, 0x0⟩  /- STR_DUE_LO -/,
    ⟨0x414, 4, 1, 0x0, 0x0, 0xFFFFFFFF, 0x0, 0x0, 0x0⟩  /- STR_DUE_HI -/,
    ⟨0x404, 4, 1, 0x0, 0x0, 0x0, 0x0, 0x0, 0x0⟩  /- STR_STATUS -/,
    ⟨0x418, 4, 1, 0x0, 0x0, 0x0, 0x0, 0x0, 0x7⟩  /- STR_EVENTS -/,
    ⟨0x500, 8, 32, 0x0, 0x0, 0x0, 0x1FFFFF, 0x0, 0x0⟩  /- STR_CAP_M_LO -/,
    ⟨0x504, 8, 32, 0x0, 0x0, 0x0, 0x1FFFFF, 0x0, 0x0⟩  /- STR_CAP_M_HI -/,
    ⟨0x600, 4, 32, 0x0, 0x0, 0x0, 0x3FFF3FFF, 0x0, 0x0⟩  /- STR_CAP_S -/ ]

/-- Registers of the clk tables. -/
def regs_clk : List RegDesc :=
  [ ⟨0x300, 4, 1, 0x1000, 0x0, 0x0, 0x0, 0x0, 0x0⟩  /- CLK_PERIOD -/,
    ⟨0x304, 4, 1, 0x0, 0x0, 0x0, 0x0, 0x0, 0x0⟩  /- CLK_CAUSE -/,
    ⟨0x308, 4, 1, 0x0, 0x0, 0x0, 0x0, 0x0, 0x0⟩  /- CLK_SENSE -/,
    ⟨0x30C, 4, 1, 0x0, 0x0, 0x0, 0x0, 0x0, 0x0⟩  /- CLK_STRETCH_GRAINS -/ ]

/-- Registers of the tve tables. -/
def regs_tve : List RegDesc :=
  [ ⟨0x0, 4, 1, 0x0, 0x0, 0x0, 0x0, 0x0, 0x77⟩  /- TVE_FLAGS -/,
    ⟨0x4, 4, 1, 0x0, 0x0, 0x0, 0x0, 0x0, 0x0⟩  /- TVE_STATUS -/,
    ⟨0x10, 4, 4, 0x0, 0x0, 0x0, 0x0, 0x0, 0x0⟩  /- TVE_AMAX -/,
    ⟨0x20, 8, 8, 0x0, 0x0, 0x0, 0x0, 0x0, 0x0⟩  /- TVE_VS_LO -/,
    ⟨0x24, 8, 8, 0x0, 0x0, 0x0, 0x0, 0x0, 0x0⟩  /- TVE_VS_HI -/,
    ⟨0x60, 4, 1, 0x0, 0x0, 0x0, 0x0, 0x0, 0x0⟩  /- TVE_SEEDS -/ ]

/-- Registers of the scr tables. -/
def regs_scr : List RegDesc :=
  [ ⟨0x0, 4, 1, 0x0, 0x0, 0x0, 0x0, 0x0, 0x0⟩  /- SCR_CE_COUNT -/,
    ⟨0x4, 4, 1, 0x0, 0x0, 0x0, 0x0, 0x0, 0x0⟩  /- SCR_UE_COUNT -/,
    ⟨0x8, 4, 1, 0x0, 0x0, 0x0, 0x0, 0x0, 0x0⟩  /- SCR_ERR_INFO -/,
    ⟨0xC, 4, 1, 0x0, 0x0, 0x0, 0x0, 0x0, 0x1F⟩  /- SCR_EVENTS -/,
    ⟨0x10, 4, 1, 0x1E, 0x1F, 0x0, 0x0, 0x0, 0x0⟩  /- SCR_EVENT_MASK -/,
    ⟨0x14, 4, 1, 0x800003E8, 0x8000FFFF, 0x0, 0x0, 0x0, 0x0⟩  /- SCR_SCRUB -/,
    ⟨0x18, 4, 1, 0x0, 0x0, 0x0, 0x0, 0x0, 0x0⟩  /- SCR_DROP_COUNT -/,
    ⟨0x20, 4, 1, 0x0, 0xFFFFFFC0, 0x0, 0x0, 0x1, 0x0⟩  /- SCR_CLEAR -/,
    ⟨0x100, 4, 16, 0x0, 0x0, 0x1FFF1FFF, 0x0, 0x0, 0x0⟩  /- SCR_TASK -/,
    ⟨0x800, 4, 480, 0x0, 0x0, 0x0, 0xFFFFFFFF, 0x0, 0x0⟩  /- SCR_RSV_MAP -/,
    ⟨0x40, 4, 1, 0x0, 0x0, 0x0, 0x0, 0x0, 0x0⟩  /- SCR_DIRTY_COUNT -/,
    ⟨0x44, 4, 1, 0x0, 0x0, 0x0, 0x0, 0x0, 0x0⟩  /- SCR_CUT_COUNT -/,
    ⟨0x48, 4, 1, 0x0, 0x0, 0x0, 0x0, 0x0, 0x0⟩  /- SCR_RSV_USED -/ ]

/-- Registers of the cpc tables. -/
def regs_cpc : List RegDesc :=
  [ ⟨0x0, 4, 1, 0x0, 0x0, 0x0, 0x0, 0x3, 0x0⟩  /- CPC_CTRL -/,
    ⟨0x4, 4, 1, 0x30, 0x0, 0x0, 0x0, 0x0, 0x0⟩  /- CPC_STATUS -/,
    ⟨0x8, 4, 1, 0x0, 0x0, 0x0, 0xFFFFFFFF, 0x0, 0x0⟩  /- CPC_ENTRY_LO -/,
    ⟨0xC, 4, 1, 0x0, 0x0, 0x0, 0xFFFFFFFF, 0x0, 0x0⟩  /- CPC_ENTRY_HI -/,
    ⟨0x10, 4, 1, 0xFFFFFFFF, 0xFFFFFFFF, 0x0, 0x0, 0x0, 0x0⟩  /- CPC_GRAIN_CMP_LO -/,
    ⟨0x14, 4, 1, 0xFFFFFFFF, 0xFFFFFFFF, 0x0, 0x0, 0x0, 0x0⟩  /- CPC_GRAIN_CMP_HI -/,
    ⟨0x20, 4, 3, 0x0, 0x0, 0x0, 0x0, 0x0, 0x0⟩  /- CPC_IRQ_PEND -/,
    ⟨0x30, 4, 3, 0x0, 0xFFFFFFFF, 0x0, 0x0, 0x0, 0x0⟩  /- CPC_IRQ_MASK -/,
    ⟨0x40, 4, 1, 0x0, 0x0, 0x0, 0x0, 0x8000007F, 0x0⟩  /- CPC_IPI -/,
    ⟨0x44, 4, 1, 0x0, 0x0, 0x0, 0x0, 0x0, 0x0⟩  /- CPC_CACHE_ERR -/ ]

/-- Registers of the slv tables. -/
def regs_slv : List RegDesc :=
  [ ⟨0x0, 4, 1, 0x0, 0x0, 0x0, 0x0, 0xFFFFFFFF, 0x0⟩  /- SLV_SUBMIT_LO -/,
    ⟨0x4, 4, 1, 0x0, 0x0, 0x0, 0x0, 0xFFFFFFFF, 0x0⟩  /- SLV_SUBMIT_HI -/,
    ⟨0x8, 4, 1, 0x0, 0x0, 0x0, 0x0, 0x0, 0x0⟩  /- SLV_STATUS -/,
    ⟨0x10, 4, 1, 0x0, 0x0, 0x0, 0x0, 0x0, 0x0⟩  /- SLV_CUR_LO -/,
    ⟨0x14, 4, 1, 0x0, 0x0, 0x0, 0x0, 0x0, 0x0⟩  /- SLV_CUR_HI -/,
    ⟨0x18, 4, 1, 0x0, 0x0, 0x0, 0x0, 0x0, 0x0⟩  /- SLV_BATCHES -/,
    ⟨0x1C, 4, 1, 0x0, 0x0, 0x0, 0x0, 0x0, 0x0⟩  /- SLV_MISS_COUNT -/,
    ⟨0x20, 4, 1, 0x0, 0x0, 0x0, 0x0, 0x0, 0x0⟩  /- SLV_REFUSE_COUNT -/,
    ⟨0x24, 4, 1, 0x0, 0x0, 0x0, 0x0, 0x0, 0xF⟩  /- SLV_EVENTS -/ ]

/-- Registers of the mem tables. -/
def regs_mem : List RegDesc :=
  [ ⟨0x0, 4, 1, 0x0, 0x0, 0x0, 0x0, 0x0, 0x0⟩  /- MEM_CE_COUNT -/,
    ⟨0x4, 4, 1, 0x0, 0x0, 0x0, 0x0, 0x0, 0x0⟩  /- MEM_UE_COUNT -/,
    ⟨0x8, 4, 1, 0x0, 0x0, 0x0, 0x0, 0x0, 0x0⟩  /- MEM_ERR_ADDR_LO -/,
    ⟨0xC, 4, 1, 0x0, 0x0, 0x0, 0x0, 0x0, 0x0⟩  /- MEM_ERR_ADDR_HI -/,
    ⟨0x10, 4, 1, 0x0, 0x0, 0x0, 0x0, 0x0, 0xF⟩  /- MEM_EVENTS -/,
    ⟨0x14, 4, 1, 0xE, 0xF, 0x0, 0x0, 0x0, 0x0⟩  /- MEM_EVENT_MASK -/,
    ⟨0x18, 4, 1, 0x80000018, 0x8000FFFF, 0x0, 0x0, 0x0, 0x0⟩  /- MEM_SCRUB -/,
    ⟨0x20, 4, 1, 0x0, 0x0, 0x0, 0x0, 0x0, 0x0⟩  /- MEM_DRIFT_STORE -/,
    ⟨0x24, 4, 1, 0x0, 0x0, 0x0, 0x0, 0x0, 0x0⟩  /- MEM_DRIFT_ATOMIC -/,
    ⟨0x28, 4, 1, 0x0, 0x0, 0x0, 0x0, 0x0, 0x7⟩  /- MEM_ATOMIC_FLAGS -/,
    ⟨0x30, 4, 1, 0x1, 0x0, 0x0, 0x1, 0x0, 0x0⟩  /- MEM_DIRTY_CTRL -/,
    ⟨0x34, 4, 1, 0x0, 0x0, 0x0, 0x0, 0x0, 0x0⟩  /- MEM_DIRTY_COUNT -/,
    ⟨0x38, 4, 1, 0x0, 0x0, 0x0, 0x0, 0x0, 0x0⟩  /- MEM_CUT_COUNT -/,
    ⟨0x40, 4, 1, 0x0, 0x0, 0x0, 0x1FFFFF, 0x0, 0x0⟩  /- MEM_RESERVE_BASE -/,
    ⟨0x44, 4, 1, 0x0, 0x0, 0x0, 0x1FFFFF, 0x0, 0x0⟩  /- MEM_RESERVE_SIZE -/,
    ⟨0x48, 4, 1, 0x0, 0x0, 0x0, 0x0, 0x0, 0x0⟩  /- MEM_RESERVE_USED -/ ]

/-- Registers of the ft tables. -/
def regs_ft : List RegDesc :=
  [ ⟨0x0, 4, 1, 0x0, 0x0, 0x0, 0x0, 0x0, 0x0⟩  /- FT_CFG -/,
    ⟨0x4, 4, 1, 0x0, 0x0, 0x0, 0x1, 0x0, 0x0⟩  /- FT_ILV -/,
    ⟨0x10, 16, 4, 0x0, 0x80000000, 0x0, 0x7FFFFFFF, 0x0, 0x0⟩  /- FT_DEV -/,
    ⟨0x14, 16, 4, 0x0, 0x0, 0x0, 0x0, 0x0, 0x2⟩  /- FT_DEV_STATUS -/,
    ⟨0x80, 4, 1, 0x0, 0x0, 0x0, 0x0, 0x0, 0x0⟩  /- FT_BAD_RSP -/ ]

/-- Registers of the glp tables. -/
def regs_glp : List RegDesc :=
  [ ⟨0x0, 4, 1, 0x0, 0x0, 0x0, 0x0, 0x0, 0x0⟩  /- GLP_PLACE -/,
    ⟨0x4, 4, 1, 0x0, 0x0, 0x0, 0x0, 0x0, 0x0⟩  /- GLP_SHAPE -/,
    ⟨0x8, 4, 1, 0xC0400301, 0xFFFFFFFF, 0x0, 0x0, 0x0, 0x0⟩  /- GLP_ROUTE_CFG -/,
    ⟨0xC, 4, 1, 0x0, 0x0, 0x0, 0x0, 0x0, 0x0⟩  /- GLP_CONG -/,
    ⟨0x10, 4, 1, 0x0, 0x0, 0x0, 0x0, 0x0, 0x0⟩  /- GLP_EPOCH -/,
    ⟨0x14, 4, 1, 0xC80, 0xFFFFFFFF, 0x0, 0x0, 0x0, 0x0⟩  /- GLP_RESEND -/,
    ⟨0x20, 4, 1, 0x0, 0x0, 0x0, 0x0, 0x0, 0x0⟩  /- GLP_DIVERT_NODE -/,
    ⟨0x24, 4, 1, 0x0, 0x0, 0x0, 0x0, 0x0, 0x0⟩  /- GLP_DIVERT_GROUP -/,
    ⟨0x28, 4, 1, 0x0, 0x0, 0x0, 0x0, 0x0, 0x0⟩  /- GLP_DIVERT_SYSTEM -/,
    ⟨0x2C, 4, 1, 0x0, 0x0, 0x0, 0x0, 0x0, 0x0⟩  /- GLP_FORCED -/,
    ⟨0x30, 4, 1, 0x0, 0x0, 0x0, 0x0, 0x0, 0x0⟩  /- GLP_UNREACH -/,
    ⟨0x100, 8, 64, 0x0, 0xFFFFFFFF, 0x0, 0x0, 0x0, 0x0⟩  /- GLP_JOB -/,
    ⟨0x104, 8, 64, 0x0, 0x80000003, 0x0, 0x0, 0x0, 0x0⟩  /- GLP_JOB_MODE -/,
    ⟨0x1000, 4, 64, 0x0, 0xFFFFFFFF, 0x0, 0x0, 0x0, 0x0⟩  /- GRP_ROUTE -/,
    ⟨0x1400, 16, 128, 0x0, 0xFFFFFFFF, 0x0, 0x0, 0x0, 0x0⟩  /- SYS_ROUTE node mask -/,
    ⟨0x1408, 16, 128, 0x0, 0xFFFFFFFF, 0x0, 0x0, 0x0, 0x0⟩  /- SYS_ROUTE local mask low -/,
    ⟨0x140C, 16, 128, 0x0, 0xFFFFFFFF, 0x0, 0x0, 0x0, 0x0⟩  /- SYS_ROUTE local mask high -/,
    ⟨0x1C00, 4, 32, 0x0, 0xFFFFFFFF, 0x0, 0x0, 0x0, 0x0⟩  /- GRP_REACH -/,
    ⟨0x100000, 8, 524288, 0x0, 0xFFFC7FFF, 0x0, 0x0, 0x0, 0x0⟩  /- member table word 0 -/,
    ⟨0x100004, 8, 524288, 0x0, 0xF, 0x0, 0x0, 0x0, 0x0⟩  /- member table word 1 -/ ]

/-- Registers of the prt tables. -/
def regs_prt : List RegDesc :=
  [ ⟨0x0, 4, 1, 0x1, 0x1, 0x0, 0x0, 0x6, 0x0⟩  /- PRT_CTRL -/,
    ⟨0x4, 4, 1, 0x600, 0x0, 0x0, 0x0, 0x0, 0x0⟩  /- PRT_STATUS -/,
    ⟨0x8, 4, 1, 0x0, 0x0, 0x0, 0x0, 0x0, 0x0⟩  /- PRT_FEC_CE -/,
    ⟨0xC, 4, 1, 0x0, 0x0, 0x0, 0x0, 0x0, 0x0⟩  /- PRT_FEC_UE -/,
    ⟨0x10, 4, 1, 0x0, 0x0, 0x0, 0x0, 0x0, 0x0⟩  /- PRT_RETRY -/,
    ⟨0x14, 4, 1, 0x0, 0x0, 0x0, 0x0, 0x0, 0x0⟩  /- PRT_MALFORMED -/,
    ⟨0x18, 4, 1, 0x10, 0x0, 0x0, 0xFFFF, 0x0, 0x0⟩  /- PRT_MAL_LIMIT -/,
    ⟨0x1C, 4, 1, 0x0, 0x0, 0x0, 0x0, 0x0, 0xF⟩  /- PRT_EVENTS -/ ]

/-- Registers of the rmt tables. -/
def regs_rmt : List RegDesc :=
  [ ⟨0x0, 4, 1, 0x0, 0x0, 0x0, 0x0, 0x0, 0x0⟩  /- RMT_DUP -/,
    ⟨0x4, 4, 1, 0x0, 0x0, 0x0, 0x0, 0x0, 0x0⟩  /- RMT_WINDOW_DROP -/,
    ⟨0x8, 4, 1, 0x0, 0x0, 0x0, 0x0, 0x0, 0x0⟩  /- RMT_RESENT -/,
    ⟨0xC, 4, 1, 0x0, 0x0, 0x0, 0x0, 0x0, 0x0⟩  /- RMT_FLAG_HELD -/,
    ⟨0x10, 4, 1, 0x0, 0x0, 0x0, 0x0, 0x0, 0x0⟩  /- RMT_COMBINED -/,
    ⟨0x14, 4, 1, 0x0, 0x0, 0x0, 0x0, 0x0, 0x0⟩  /- RMT_COMBINE_FLOAT -/,
    ⟨0x18, 4, 1, 0x0, 0x0, 0x0, 0x0, 0x0, 0x0⟩  /- RMT_STORE_USED -/ ]

/-- Registers of the cpe tables. -/
def regs_cpe : List RegDesc :=
  [ ⟨0x0, 4, 1, 0x0, 0x0, 0x0, 0x0, 0xFFFFFFFF, 0x0⟩  /- CPE_SUBMIT_LO -/,
    ⟨0x4, 4, 1, 0x0, 0x0, 0x0, 0x0, 0xFFFFFFFF, 0x0⟩  /- CPE_SUBMIT_HI -/,
    ⟨0x8, 4, 1, 0x0, 0x0, 0x0, 0x0, 0x0, 0x0⟩  /- CPE_STATUS -/,
    ⟨0xC, 4, 1, 0x0, 0x0, 0x0, 0x0, 0x0, 0x0⟩  /- CPE_STATUS2 -/,
    ⟨0x10, 4, 1, 0x0, 0x0, 0x0, 0x0, 0x0, 0x0⟩  /- CPE_CUR_LO -/,
    ⟨0x14, 4, 1, 0x0, 0x0, 0x0, 0x0, 0x0, 0x0⟩  /- CPE_CUR_HI -/,
    ⟨0x18, 4, 1, 0x0, 0x0, 0x0, 0x0, 0x0, 0x0⟩  /- CPE_DONE -/,
    ⟨0x1C, 4, 1, 0x0, 0x0, 0x0, 0x0, 0x0, 0x7⟩  /- CPE_EVENTS -/ ]

/-- Registers of the col tables. -/
def regs_col : List RegDesc :=
  [ ⟨0x0, 4, 1, 0x0, 0x0, 0x0, 0x0, 0xFFFFFFFF, 0x0⟩  /- COL_ENTER_LO -/,
    ⟨0x4, 4, 1, 0x0, 0x0, 0x0, 0x0, 0xFFFFFFFF, 0x0⟩  /- COL_ENTER_HI -/,
    ⟨0x8, 4, 1, 0x0, 0x0, 0x0, 0x0, 0x0, 0x0⟩  /- COL_STATUS -/,
    ⟨0x10, 4, 1, 0x0, 0x0, 0x0, 0x0, 0x0, 0x0⟩  /- COL_CALLS -/,
    ⟨0x14, 4, 1, 0x0, 0x0, 0x0, 0x0, 0x0, 0x0⟩  /- COL_MISMATCH_COUNT -/,
    ⟨0x18, 4, 1, 0x0, 0x0, 0x0, 0x0, 0x0, 0x0⟩  /- COL_LOST -/,
    ⟨0x1C, 4, 1, 0x0, 0x0, 0x0, 0x0, 0x0, 0x0⟩  /- COL_REATTACH -/,
    ⟨0x20, 4, 1, 0x0, 0x0, 0x0, 0x0, 0x0, 0x0⟩  /- COL_ARRIVAL_FOLDS -/,
    ⟨0x24, 4, 1, 0x0, 0x0, 0x0, 0x0, 0x0, 0x0⟩  /- COL_LATE -/,
    ⟨0x28, 4, 1, 0x0, 0x0, 0x0, 0x0, 0x0, 0x1F⟩  /- COL_EVENTS -/,
    ⟨0x2C, 4, 1, 0xE, 0x1F, 0x0, 0x0, 0x0, 0x0⟩  /- COL_EVENT_MASK -/ ]

/-- Registers of the tb tables. -/
def regs_tb : List RegDesc :=
  [ ⟨0x0, 4, 1, 0x0, 0x0, 0x0, 0x3, 0x4, 0x0⟩  /- TB_CTRL -/,
    ⟨0x4, 4, 1, 0x0, 0x0, 0x0, 0x0, 0x0, 0x0⟩  /- TB_STATUS -/,
    ⟨0x8, 4, 1, 0x0, 0x0, 0x0, 0x0, 0x0, 0x0⟩  /- TB_NOW_LO -/,
    ⟨0xC, 4, 1, 0x0, 0x0, 0x0, 0x0, 0x0, 0x0⟩  /- TB_NOW_HI -/,
    ⟨0x10, 4, 1, 0x0, 0x0, 0x0, 0x0, 0x0, 0x0⟩  /- TB_OFFSET -/,
    ⟨0x18, 4, 1, 0x0, 0x0, 0x0, 0xFFFFFFFF, 0x0, 0x0⟩  /- TB_START_LO -/,
    ⟨0x1C, 4, 1, 0x0, 0x0, 0x0, 0xFFFFFFFF, 0x0, 0x0⟩  /- TB_START_HI -/,
    ⟨0x20, 4, 1, 0x0, 0x0, 0x0, 0x0, 0x0, 0x0⟩  /- TB_GM_PLACE -/,
    ⟨0x24, 4, 1, 0x0, 0x0, 0x0, 0x0, 0x0, 0xF⟩  /- TB_EVENTS -/,
    ⟨0x28, 4, 1, 0x0, 0x0, 0x0, 0x0, 0x0, 0x0⟩  /- TB_PENDING -/ ]

/-- Registers of the ch tables. -/
def regs_ch : List RegDesc :=
  [ ⟨0x0, 4, 1, 0x0, 0x0, 0x0, 0x0, 0xFFFFFFFF, 0x0⟩  /- CH_REQ_LO -/,
    ⟨0x4, 4, 1, 0x0, 0x0, 0x0, 0x0, 0xFFFFFFFF, 0x0⟩  /- CH_REQ_HI -/,
    ⟨0x8, 4, 1, 0x0, 0x0, 0x0, 0x0, 0x0, 0x0⟩  /- CH_RSP_LO -/,
    ⟨0xC, 4, 1, 0x0, 0x0, 0x0, 0x0, 0x0, 0x0⟩  /- CH_RSP_HI -/,
    ⟨0x10, 4, 1, 0x80000, 0x0, 0x0, 0x0, 0x0, 0x0⟩  /- CH_QSTAT -/,
    ⟨0x14, 4, 1, 0x0, 0x0, 0x0, 0x0, 0x0, 0x0⟩  /- CH_ACK -/,
    ⟨0x18, 4, 1, 0x0, 0x0, 0x0, 0x0, 0x3, 0x0⟩  /- CH_DB_REQ -/,
    ⟨0x1C, 4, 1, 0x0, 0x0, 0x0, 0x0, 0x0, 0xFFFFFFFF⟩  /- CH_DB_IN -/,
    ⟨0x20, 4, 1, 0x0, 0x0FFF001F, 0x0, 0x0, 0x0, 0x0⟩  /- CH_DB_IN_MASK -/,
    ⟨0x28, 4, 1, 0x0, 0x0, 0x0, 0xFFFFFFFF, 0x0, 0x0⟩  /- CH_SPILL_LO -/,
    ⟨0x2C, 4, 1, 0x0, 0x0, 0x0, 0xFFFFFFFF, 0x0, 0x0⟩  /- CH_SPILL_HI -/,
    ⟨0x30, 4, 1, 0x0, 0x0, 0x0, 0xFFFF, 0x0, 0x0⟩  /- CH_SPILL_SIZE -/,
    ⟨0x34, 4, 1, 0x0, 0x0, 0x0, 0x0, 0x0, 0x0⟩  /- CH_SESSION -/,
    ⟨0x38, 4, 1, 0x0, 0x0, 0x0, 0x0, 0x0, 0x0⟩  /- CH_NAK_COUNT -/ ]

/-- Registers of the fw tables. -/
def regs_fw : List RegDesc :=
  [ ⟨0x0, 4, 1, 0x0, 0x0, 0x0, 0x0, 0x1, 0x0⟩  /- FW_CTRL -/,
    ⟨0x4, 4, 1, 0x0, 0x0, 0x0, 0x0, 0x0, 0x0⟩  /- FW_STATUS -/,
    ⟨0x100, 4, 1, 0x0, 0x0, 0x0, 0x0, 0x0, 0x0⟩  /- JRN_NEXT -/,
    ⟨0x104, 4, 1, 0x0, 0x0, 0x0, 0x0, 0x0, 0x0⟩  /- JRN_OLDEST -/,
    ⟨0x108, 4, 1, 0x0, 0x0, 0x0, 0x0, 0x0, 0x0⟩  /- JRN_LOST -/,
    ⟨0x10C, 4, 1, 0x0, 0x0, 0x0, 0x0, 0x0, 0x0⟩  /- JRN_PENDING -/ ]

/-- Registers of the sec tables. -/
def regs_sec : List RegDesc :=
  [ ⟨0x10, 4, 1, 0x0, 0x0, 0x0, 0x0, 0x0, 0x0⟩  /- SEC_STATUS -/,
    ⟨0x20, 4, 16, 0x0, 0x0, 0x0, 0x0, 0x0, 0x0⟩  /- SEC_SLOT -/,
    ⟨0x60, 4, 1, 0x0, 0x0, 0x0, 0x0, 0x0, 0x0⟩  /- SEC_PART_BASE -/,
    ⟨0x64, 4, 1, 0x0, 0x0, 0x0, 0x0, 0x0, 0x0⟩  /- SEC_PART_LIMIT -/ ]

/-- Registers of the pwr tables. -/
def regs_pwr : List RegDesc :=
  [ ⟨0x0, 4, 1, 0x0, 0x3, 0x0, 0x0, 0x0, 0x0⟩  /- PWR_CAP -/,
    ⟨0x4, 4, 1, 0x0, 0x0, 0x0, 0x0, 0x0, 0x0⟩  /- PWR_NOW -/,
    ⟨0x8, 4, 1, 0x1000, 0x0, 0x0, 0x0, 0x0, 0x0⟩  /- PWR_PERIOD -/,
    ⟨0x10, 4, 1, 0x0, 0x0, 0x0, 0x0, 0x0, 0x1F⟩  /- PWR_EVENTS -/,
    ⟨0x14, 4, 1, 0xF, 0x1F, 0x0, 0x0, 0x0, 0x0⟩  /- PWR_EVENT_MASK -/,
    ⟨0x18, 4, 1, 0x1FF, 0x1FF, 0x0, 0x0, 0x0, 0x0⟩  /- PWR_WAKE_EN -/,
    ⟨0x1C, 4, 1, 0x0, 0x0, 0x0, 0x0, 0x0, 0x0⟩  /- PWR_WAKE_SRC -/,
    ⟨0x20, 4, 1, 0x0, 0x0, 0x0, 0x0, 0x0, 0x0⟩  /- PWR_SAVE_SEQ -/,
    ⟨0x28, 4, 1, 0x0, 0x0, 0x0, 0x0, 0x0, 0x0⟩  /- PWR_SAVE_GRAIN_LO -/,
    ⟨0x2C, 4, 1, 0x0, 0x0, 0x0, 0x0, 0x0, 0x0⟩  /- PWR_SAVE_GRAIN_HI -/,
    ⟨0x100, 4, 113, 0xA, 0x0, 0x0, 0x0, 0x0, 0x0⟩  /- PWR_DOM -/ ]

/-- Registers of the hst tables. -/
def regs_hst : List RegDesc :=
  [ ⟨0x0, 4, 1, 0x0, 0x0, 0x0, 0x0, 0x0, 0x0⟩  /- HST_LINK -/,
    ⟨0x10, 4, 1, 0x0, 0x0, 0x0, 0x0, 0x0, 0x0⟩  /- HST_UR_COUNT -/,
    ⟨0x14, 4, 1, 0x0, 0x0, 0x0, 0x0, 0x0, 0x0⟩  /- HST_CA_COUNT -/,
    ⟨0x18, 4, 1, 0x0, 0x0, 0x0, 0x0, 0x0, 0x0⟩  /- HST_POISON_COUNT -/,
    ⟨0x100, 16, 16, 0x0, 0x0, 0x0, 0x7FFF, 0x0, 0x0⟩  /- HST_WIN_BASE -/,
    ⟨0x104, 16, 16, 0x2, 0x0, 0x0, 0x0, 0x0, 0x0⟩  /- HST_WIN_SIZE -/ ]

/-- Registers of the mgt tables. -/
def regs_mgt : List RegDesc :=
  [ ⟨0x0, 4, 1, 0x0, 0x0, 0x0, 0x0, 0x0, 0x0⟩  /- MGT_STATUS -/,
    ⟨0x4, 4, 1, 0x0, 0x0, 0x0, 0x0, 0x0, 0x0⟩  /- MGT_DROP_COUNT -/ ]

/-- Registers of the drf tables. -/
def regs_drf : List RegDesc :=
  [ ⟨0x0, 4, 1, 0x0, 0x0, 0x0, 0x0, 0x0, 0x0⟩  /- DRF_TOTAL -/,
    ⟨0x4, 4, 7, 0x0, 0x0, 0x0, 0x0, 0x0, 0x0⟩  /- DRF_CAUSE -/,
    ⟨0x20, 4, 1, 0x0, 0x0, 0x0, 0x0, 0x0, 0x0⟩  /- DRF_STEP -/,
    ⟨0x24, 4, 1, 0x0, 0x0, 0x0, 0x0, 0x1, 0x0⟩  /- DRF_CLEAR -/ ]

/-! ### The control-space map (R515) -/

/-- The kinds of blocks of R515. -/
inductive Blk where
  | dsq | scr | mem | cpe | tve | ctl | cpc | slv | glp | prt | rmt | col | tb | ft | pwr | sec | fw | hst | mgt
  | ch | store
  deriving DecidableEq, Repr

def dsqB (k : Nat) : Nat := k * 0x1000000
def scrB (k : Nat) : Nat := k * 0x1000000 + 0x1000
def memB (k : Nat) : Nat := k * 0x1000000 + 0x2000
def tveB (k t : Nat) : Nat := k * 0x1000000 + 0x100000 + t * 0x100
def ctlB (d : Nat) : Nat := 0xC000000 + (d - 12) * 0x1000000
def cpcB (c : Nat) : Nat := 0xC010000 + c / 64 * 0x1000000 + c % 64 * 0x1000
def slvB (e : Nat) : Nat := 0xC080000 + e / 4 * 0x1000000 + e % 4 * 0x1000
def glpB : Nat := 0xE000000
def prtB (p : Nat) : Nat := 0xE800000 + p * 0x1000
def rmtB : Nat := 0xE900000
def colB : Nat := 0xE910000
def tbB : Nat := 0xE920000
def ftB : Nat := 0xE930000
def pwrB : Nat := 0xE940000
def secB : Nat := 0xE950000
def fwB : Nat := 0xE960000
def hstB : Nat := 0xE970000
def mgtB : Nat := 0xE980000
def chB (n : Nat) : Nat := 0xEA00000 + n * 0x1000
/-- The firmware store, 16 MiB. -/
def storeB : Nat := 0xF000000

/-- Copy engine e: 0-11 on the compute dies, 12-19 on the processor dies. -/
def cpeB (e : Nat) : Nat :=
  if e < 12 then e * 0x1000000 + 0x3000 else 0xC090000 + (e - 12) / 4 * 0x1000000 + (e - 12) % 4 * 0x1000

/-- The block of die `d`, 0-13, that holds its CLK and DRF registers. -/
def clkB (d : Nat) : Nat := if d < 12 then dsqB d else ctlB d

/-- The base of the DRF registers of die `d`, 14 for the fabric die. -/
def drfB (d : Nat) : Nat := if d = 14 then rmtB + 0x100 else clkB d + 0x700

/-- The channel numbers of R449. -/
def chanExists (n : Nat) : Bool :=
  decide (n ≤ 0x11) || (decide (0x20 ≤ n) && decide (n ≤ 0x2B)) || (decide (0x80 ≤ n) && decide (n < 0x180))

/-- The block an offset lies in, the unit number of the block (for a tile die × 768 + tile) and the offset in
it; none outside every block (R516). -/
def locate (a : Nat) : Option (Blk × Nat × Nat) :=
  let k := a / 0x1000000
  let o := a % 0x1000000
  if k < 12 then
    if o < 0x1000 then some (.dsq, k, o)
    else if o < 0x2000 then some (.scr, k, o - 0x1000)
    else if o < 0x3000 then some (.mem, k, o - 0x2000)
    else if o < 0x4000 then some (.cpe, k, o - 0x3000)
    else if 0x100000 ≤ o ∧ o < 0x130000 then some (.tve, k * 768 + (o - 0x100000) / 0x100, o % 0x100)
    else none
  else if k = 12 ∨ k = 13 then
    if o < 0x1000 then some (.ctl, k, o)
    else if 0x10000 ≤ o ∧ o < 0x50000 then some (.cpc, (k - 12) * 64 + (o - 0x10000) / 0x1000, o % 0x1000)
    else if 0x80000 ≤ o ∧ o < 0x84000 then some (.slv, (k - 12) * 4 + (o - 0x80000) / 0x1000, o % 0x1000)
    else if 0x90000 ≤ o ∧ o < 0x94000 then some (.cpe, 12 + (k - 12) * 4 + (o - 0x90000) / 0x1000, o % 0x1000)
    else none
  else if k = 14 then
    if o < 0x800000 then some (.glp, 0, o)
    else if o < 0x824000 then some (.prt, (o - 0x800000) / 0x1000, o % 0x1000)
    else if 0x900000 ≤ o ∧ o < 0x901000 then some (.rmt, 0, o % 0x1000)
    else if 0x910000 ≤ o ∧ o < 0x911000 then some (.col, 0, o % 0x1000)
    else if 0x920000 ≤ o ∧ o < 0x921000 then some (.tb, 0, o % 0x1000)
    else if 0x930000 ≤ o ∧ o < 0x931000 then some (.ft, 0, o % 0x1000)
    else if 0x940000 ≤ o ∧ o < 0x941000 then some (.pwr, 0, o % 0x1000)
    else if 0x950000 ≤ o ∧ o < 0x951000 then some (.sec, 0, o % 0x1000)
    else if 0x960000 ≤ o ∧ o < 0x961000 then some (.fw, 0, o % 0x1000)
    else if 0x970000 ≤ o ∧ o < 0x971000 then some (.hst, 0, o % 0x1000)
    else if 0x980000 ≤ o ∧ o < 0x981000 then some (.mgt, 0, o % 0x1000)
    else if 0xA00000 ≤ o ∧ chanExists ((o - 0xA00000) / 0x1000) then
      some (.ch, (o - 0xA00000) / 0x1000, o % 0x1000)
    else none
  else if k = 15 then some (.store, 0, o)
  else none

/-- The table of a block, with the offset of the table's registers in the block. -/
def blkRows : Blk → Nat → List (Nat × List RegDesc)
  | .dsq, _ => [(0, regs_dsq), (0, regs_clk), (0x700, regs_drf)]
  | .scr, _ => [(0, regs_scr)]
  | .mem, _ => [(0, regs_mem)]
  | .cpe, _ => [(0, regs_cpe)]
  | .tve, _ => [(0, regs_tve)]
  | .ctl, _ => [(0, regs_clk), (0x700, regs_drf)]
  | .cpc, _ => [(0, regs_cpc)]
  | .slv, _ => [(0, regs_slv)]
  | .glp, _ => [(0, regs_glp)]
  | .prt, _ => [(0, regs_prt)]
  | .rmt, _ => [(0, regs_rmt), (0x100, regs_drf)]
  | .col, _ => [(0, regs_col)]
  | .tb, _ => [(0, regs_tb)]
  | .ft, _ => [(0, regs_ft)]
  | .pwr, _ => [(0, regs_pwr)]
  | .sec, _ => [(0, regs_sec)]
  | .fw, _ => [(0, regs_fw)]
  | .hst, _ => [(0, regs_hst)]
  | .mgt, _ => [(0, regs_mgt)]
  | .ch, _ => [(0, regs_ch)]
  | .store, _ => []

/-- The row a block offset names, and the index of the register in it. -/
def findRow (o : Nat) : List RegDesc → Option (RegDesc × Nat)
  | [] => none
  | r :: rs =>
    if r.off ≤ o ∧ (o - r.off) % r.stride = 0 ∧ (o - r.off) / r.stride < r.count then
      some (r, (o - r.off) / r.stride)
    else findRow o rs

def findDesc (o : Nat) : List (Nat × List RegDesc) → Option (RegDesc × Nat)
  | [] => none
  | (b, t) :: ts =>
    match (if b ≤ o then findRow (o - b) t else none) with
    | some r => some r
    | none => findDesc o ts

/-- The row that describes the register at a control-space offset, and its index in the row. -/
def descOf (a : Nat) : Option (Blk × Nat × Nat × RegDesc × Nat) :=
  match locate a with
  | none => none
  | some (b, u, o) =>
    match findDesc o (blkRows b u) with
    | none => none
    | some (r, i) => some (b, u, o, r, i)

/-- The domain codes of R495 as PWR_DOM numbers: C 0x00-0x0B, S 0x10-0x1B, M 0x20-0x2B, K 0x30-0x4F, FC 0x50,
G 0x58-0x60, host port 0x68, CXL port 0x69, AON 0x70. -/
def domainExists (n : Nat) : Bool :=
  decide (n ≤ 0x0B) || (decide (0x10 ≤ n) && decide (n ≤ 0x1B)) || (decide (0x20 ≤ n) && decide (n ≤ 0x2B)) ||
  (decide (0x30 ≤ n) && decide (n ≤ 0x4F)) || n == 0x50 || (decide (0x58 ≤ n) && decide (n ≤ 0x60)) ||
  n == 0x68 || n == 0x69 || n == 0x70

/-- The reset value of the register at a control-space offset (the Reset columns; the values that a column gives
per index are here). A PWR_DOM number that R495 does not assign names no register and reads zero. -/
def resetWord (a : Nat) : Word :=
  match descOf a with
  | none => 0
  | some (b, _, o, r, i) =>
    if b = .dsq ∧ o = TSK_CFG.off then 0x80000001
    else if b = .scr ∧ o = 0x100 then 5120
    else if b = .hst ∧ o = 0x104 then 4
    else if b = .pwr ∧ 0x100 ≤ o then
      if i = 0x70 ∨ !domainExists i then 0 else BitVec.ofNat 32 r.reset
    else BitVec.ofNat 32 r.reset

/-! ### Stored values -/

/-- The stored value of the register at a control-space offset. -/
def State.reg (s : State) (a : Nat) : Word := mapGet (resetWord a) s.regs a

/-- Stores a register value. -/
def State.setReg (s : State) (a : Nat) (v : Word) : State :=
  { s with regs := mapSet (resetWord a) s.regs a v }

/-- A field of the register block at `b`. -/
def State.fld (s : State) (b : Nat) (f : Field) : Nat := bitsOf (s.reg (b + f.off)).toNat f.hi f.lo

/-- Stores a field. -/
def State.setFld (s : State) (b : Nat) (f : Field) (v : Nat) : State :=
  s.setReg (b + f.off) (BitVec.ofNat 32 (putBits (s.reg (b + f.off)).toNat f.hi f.lo v))

/-- A one-bit field as a truth value. -/
def State.flag (s : State) (b : Nat) (f : Field) : Bool := s.fld b f == 1

/-- The 64-bit value of the low and high registers at `a` and `a + 4` (R4). -/
def State.reg64 (s : State) (a : Nat) : Nat := (s.reg a).toNat + (s.reg (a + 4)).toNat * 2 ^ 32

/-- Stores a 64-bit value in the low and high registers at `a`. -/
def State.setReg64 (s : State) (a v : Nat) : State :=
  (s.setReg a (BitVec.ofNat 32 v)).setReg (a + 4) (BitVec.ofNat 32 (v / 2 ^ 32))

/-- Adds one to a counter field that saturates at all ones. -/
def State.bump (s : State) (b : Nat) (f : Field) : State :=
  let x := s.fld b f
  s.setFld b f (if x < 2 ^ (f.hi + 1 - f.lo) - 1 then x + 1 else x)

/-- Adds `n` to a 32-bit saturating counter field. -/
def State.bumpBy (s : State) (b : Nat) (f : Field) (n : Nat) : State :=
  s.setFld b f (sat32 (s.fld b f + n))

/-- Forgets every stored register value whose offset satisfies `p`: each reads as its reset value again. -/
def State.resetRegs (s : State) (p : Nat → Bool) : State :=
  { s with regs := mapKeep s.regs fun a => !p a, shadow := mapKeep s.shadow fun a => !p a }

end Sys2Proof.Machine
end

