-- ==== Sys2Proof/Machine/Ops.lean ====
section
/-! DEFINITION. Operations that every chapter shares: status codes (R474), places and unit addresses (R313-R315),
the address map (R274), the error journal (R548-R552), drift counters (R554), doorbells and event bits
(R459, R460, R518), domains (R497), rights and the partition (R490-R493). -/

namespace Sys2Proof.Machine

/-! ### Status codes (R474) -/

def stOK : Nat := 0x0000
def stACCEPTED : Nat := 0x0001
def stBAD_OPCODE : Nat := 0x0101
def stBAD_LENGTH : Nat := 0x0102
def stBAD_UNIT : Nat := 0x0103
def stNO_SESSION : Nat := 0x0104
def stDENIED : Nat := 0x0105
def stBUSY : Nat := 0x0106
def stLATE : Nat := 0x0107
def stQUEUE_FULL : Nat := 0x0108
def stDEADLINE_MISS : Nat := 0x0201
def stPIVOT_ZERO : Nat := 0x0202
def stFIXED_OVF : Nat := 0x0203
def stCOLL_MISMATCH : Nat := 0x0204
def stMEMBER_LOST : Nat := 0x0205
def stDIGEST_BAD : Nat := 0x0206
def stSTRATA_MIXED : Nat := 0x0207
def stSTRUCT_MISMATCH : Nat := 0x0208
def stDIVERGE : Nat := 0x0209
def stREFIRED : Nat := 0x020A
def stPORT_QUARANTINED : Nat := 0x020B
def stINTERNAL : Nat := 0x0301

/-! ### Parts of the state by unit -/

def State.die (s : State) (d : Nat) : DieX := mapGet DieX.init s.dies d
def State.setDie (s : State) (d : Nat) (x : DieX) : State := { s with dies := mapPut s.dies d x }
def State.modDie (s : State) (d : Nat) (f : DieX → DieX) : State := s.setDie d (f (s.die d))

/-- Tile `t` of die `d` has key d × 768 + t. -/
def tileKey (d t : Nat) : Nat := d * 768 + t
def State.tile (s : State) (d t : Nat) : TileX := mapGet TileX.init s.tiles (tileKey d t)
def State.setTile (s : State) (d t : Nat) (x : TileX) : State :=
  { s with tiles := mapPut s.tiles (tileKey d t) x }
def State.modTile (s : State) (d t : Nat) (f : TileX → TileX) : State := s.setTile d t (f (s.tile d t))

def State.stack (s : State) (k : Nat) : StackX := mapGet StackX.init s.stackMap k
def State.setStack (s : State) (k : Nat) (x : StackX) : State := { s with stackMap := mapPut s.stackMap k x }
def State.modStack (s : State) (k : Nat) (f : StackX → StackX) : State := s.setStack k (f (s.stack k))

def State.core (s : State) (c : Nat) : CoreX := mapGet CoreX.init s.cores c
def State.setCore (s : State) (c : Nat) (x : CoreX) : State := { s with cores := mapPut s.cores c x }
def State.modCore (s : State) (c : Nat) (f : CoreX → CoreX) : State := s.setCore c (f (s.core c))

def State.proc (s : State) (d : Nat) : ProcX := mapGet ProcX.init s.procs d
def State.setProc (s : State) (d : Nat) (x : ProcX) : State := { s with procs := mapPut s.procs d x }

def State.solver (s : State) (e : Nat) : SolverX := mapGet SolverX.init s.solvers e
def State.setSolver (s : State) (e : Nat) (x : SolverX) : State := { s with solvers := mapPut s.solvers e x }
def State.modSolver (s : State) (e : Nat) (f : SolverX → SolverX) : State := s.setSolver e (f (s.solver e))

def State.copy (s : State) (e : Nat) : CopyX := mapGet CopyX.init s.copies e
def State.setCopy (s : State) (e : Nat) (x : CopyX) : State := { s with copies := mapPut s.copies e x }
def State.modCopy (s : State) (e : Nat) (f : CopyX → CopyX) : State := s.setCopy e (f (s.copy e))

def State.port (s : State) (p : Nat) : PortX := mapGet PortX.init s.ports p
def State.setPort (s : State) (p : Nat) (x : PortX) : State := { s with ports := mapPut s.ports p x }
def State.modPort (s : State) (p : Nat) (f : PortX → PortX) : State := s.setPort p (f (s.port p))

def State.chan (s : State) (n : Nat) : ChanX := mapGet ChanX.init s.chans n
def State.setChan (s : State) (n : Nat) (x : ChanX) : State := { s with chans := mapPut s.chans n x }
def State.modChan (s : State) (n : Nat) (f : ChanX → ChanX) : State := s.setChan n (f (s.chan n))

/-- A slot store of a compute die (R118). -/
def DieX.slot (x : DieX) (i : Nat) : SlotX := mapGet SlotX.init x.slots i
def State.modSlot (s : State) (d i : Nat) (f : SlotX → SlotX) : State :=
  s.modDie d fun x => { x with slots := mapPut x.slots i (f (x.slot i)) }

/-- The grain the timebase counter reads (R401). -/
def State.now (s : State) : Nat := s.tb.now

/-- Notes a write of `n` bytes at a package-local address for the solver engines, other than `own`, whose batch runs (R260). -/
def State.stir (s : State) (own : Option Nat) (a n : Nat) : State :=
  if s.solvers.any fun e => e.2.batch.isSome && own != some e.1 then
    { s with solvers := s.solvers.map fun e =>
        if e.2.batch.isSome && own != some e.1 then (e.1, { e.2 with stirred := (a, n) :: e.2.stirred }) else e }
  else s

/-- Draws a free value: the number of the draw, and the state with the next number. -/
def State.draw (s : State) : Nat × State := (s.freeCount, { s with freeCount := s.freeCount + 1 })

/-! ### Places and units -/

/-- The own place (R313). -/
def State.place (s : State) : Nat := s.fld glpB GLP_PLACE.PLACE

/-- A place inside the system shape (R313, R314). -/
def State.placeOk (s : State) (p : Nat) : Bool :=
  decide (p < 32768) && decide (bitsOf p 14 8 ≤ s.fld glpB GLP_SHAPE.GROUPS_M1) &&
    decide (bitsOf p 7 3 ≤ s.fld glpB GLP_SHAPE.NODES_M1)

/-- A unit address (R314). -/
def unitAddr (place level die tile : Nat) : Nat := place * 2 ^ 17 + level * 2 ^ 14 + die * 2 ^ 10 + tile

def State.pkgUnit (s : State) : Nat := unitAddr s.place 2 0 0
def State.dieUnit (s : State) (d : Nat) : Nat := unitAddr s.place 1 d 0
def State.tileUnit (s : State) (d t : Nat) : Nat := unitAddr s.place 0 d t

def unitPlace (u : Nat) : Nat := bitsOf u 31 17
def unitLevel (u : Nat) : Nat := bitsOf u 16 14
def unitDie (u : Nat) : Nat := bitsOf u 13 10
def unitTile (u : Nat) : Nat := bitsOf u 9 0

/-- R314: no field below the level is set, the level exists, the tile and die exist, and the place lies in the
shape. -/
def State.unitOk (s : State) (u : Nat) : Bool :=
  let l := unitLevel u; let p := unitPlace u; let d := unitDie u; let t := unitTile u
  s.placeOk p &&
  (match l with
   | 0 => decide (t < 768) && decide (d < 12)
   | 1 => t == 0
   | 2 => t == 0 && d == 0
   | 3 => t == 0 && d == 0 && bitsOf p 2 0 == 0
   | 4 => t == 0 && d == 0 && bitsOf p 7 0 == 0
   | 5 => t == 0 && d == 0 && p == 0
   | _ => false)

/-- Unit `u` contains unit `v` (the levels nest: tile, die, package, node, group, system). -/
def unitContains (u v : Nat) : Bool :=
  let lu := unitLevel u
  if unitLevel v > lu then false
  else match lu with
    | 0 => u == v
    | 1 => unitPlace u == unitPlace v && unitDie u == unitDie v && decide (unitLevel v ≤ 1)
    | 2 => unitPlace u == unitPlace v
    | 3 => bitsOf (unitPlace u) 14 3 == bitsOf (unitPlace v) 14 3
    | 4 => bitsOf (unitPlace u) 14 8 == bitsOf (unitPlace v) 14 8
    | _ => true

/-- A global address (R315). -/
def globalAddr (place loc : Nat) : Nat := place * 2 ^ 45 + loc
def gaSpace (a : Nat) : Nat := bitsOf a 63 60
def gaPlace (a : Nat) : Nat := bitsOf a 59 45
def gaLocal (a : Nat) : Nat := bitsOf a 44 0

/-! ### The package-local map (R274) -/

/-- What a package-local address reaches, with the offset there. -/
inductive Home where
  | stack (k o : Nat)
  | scratch (k o : Nat)
  | control (o : Nat)
  | far (o : Nat)
  | unmapped
  deriving DecidableEq, Repr

/-- R274. -/
def homeOf (a : Nat) : Home :=
  if a < 0x18000000000 then .stack (a / 0x2000000000) (a % 0x2000000000)
  else if a < 0x40000000000 then .unmapped
  else if a < 0x40300000000 then .scratch ((a - 0x40000000000) / 0x40000000) (a % 0x40000000)
  else if a < 0x60000000000 then .unmapped
  else if a < 0x70000000000 then .control (a - 0x60000000000)
  else if a < 0x100000000000 then .unmapped
  else if a < 0x180000000000 then .far (a - 0x100000000000)
  else .unmapped

def stackAddr (k o : Nat) : Nat := k * 0x2000000000 + o
def scratchAddr (k o : Nat) : Nat := 0x40000000000 + k * 0x40000000 + o
def controlAddr (o : Nat) : Nat := 0x60000000000 + o
def farAddr (o : Nat) : Nat := 0x100000000000 + o

/-! ### Doorbells (R459, R518) -/

/-- Sets inbound doorbell bit `b` of channel `n`. Where the bit rises while its mask bit is 1, the sender's
interrupt rises: an MSI-X message on a host channel (R518), the in-band interrupt on channel 0x011 (R529). A
core channel's interrupt is read from the register (R218). -/
def State.ring (s : State) (n b : Nat) : State :=
  let base := chB n
  let w := (s.reg (base + CH_DB_IN.off)).toNat
  if bitOf w b then s
  else
    let s := s.setReg (base + CH_DB_IN.off) (BitVec.ofNat 32 (putBits w b b 1))
    if bitOf (s.reg (base + CH_DB_IN_MASK.off)).toNat b then
      if n < 0x10 then { s with host := { s.host with msix := s.host.msix ++ [(n, b)] } }
      else if n = 0x10 then { s with host := { s.host with msix := s.host.msix ++ [(0, b)] } }
      else if n = 0x11 then { s with mgt := { s.mgt with ibi := true } }
      else s
    else s

/-- The channel has subscribed to doorbell class `b` of a unit that contains `unit` (R460). -/
def subscribed (x : ChanX) (b unit : Nat) : Bool :=
  x.subs.any fun e => bitOf e.2 (b - 16) && unitContains e.1 unit

/-- Sets doorbell class bit `b` for an event of `unit` on every subscribed channel but `skip` (R460). -/
def State.ringClass (s : State) (b unit : Nat) (skip : Option Nat) : State :=
  s.chans.foldl (fun s e => if some e.1 ≠ skip ∧ subscribed e.2 b unit then s.ring e.1 b else s) s

/-- Sets event bit `f` of the block at `base` and the doorbells it raises: class bit `b`, directly on channel
`direct` where `masked` lets it, and on every other subscribed channel (R460). -/
def State.event (s : State) (base : Nat) (f : Field) (b : Nat) (direct : Option Nat) (masked : Bool)
    (unit : Nat) : State :=
  let s := s.setFld base f 1
  let s := match direct with
    | some n => if masked then s.ring n b else s
    | none => s
  s.ringClass b unit direct

/-! ### The error journal (R548-R552) -/

def jrnCap : Nat := 768

/-- An event as its logging rule gives it. -/
structure LogRec where
  status : Nat
  cls : Nat
  source : Nat
  unit : Nat
  peer : Option Nat
  job : Nat
  detail : List Word
  deriving DecidableEq, Repr

/-- R550: the event merges into the newest entry of the buffer. -/
def mergesInto (e : JEntry) (r : LogRec) (now : Nat) : Bool :=
  e.status == r.status && e.cls == r.cls && e.unit == r.unit && decide (e.peer = r.peer) &&
    decide (now ≤ e.grain + 200000)

/-- Logs an event: merged (R550), made into a new entry with a doorbell (R552), or lost in a full buffer (R551).
The buffer is kept newest first. -/
def State.log (s : State) (r : LogRec) : State :=
  let fresh : JEntry :=
    { status := r.status, cls := r.cls, source := r.source, seq := s.jrn.next, grain := s.now, unit := r.unit,
      peer := r.peer, job := r.job, count := 1, detail := r.detail }
  match s.jrn.buf with
  | [] =>
    ({ s with jrn := { s.jrn with buf := [fresh], next := s.jrn.next + 1 } }).ringClass 27 s.pkgUnit none
  | e :: es =>
    if mergesInto e r s.now then
      { s with jrn := { s.jrn with buf := { e with count := min (e.count + 1) 0xFFFF } :: es } }
    else if s.jrn.buf.length < jrnCap then
      ({ s with jrn := { s.jrn with buf := fresh :: e :: es, next := s.jrn.next + 1 } }).ringClass 27 s.pkgUnit
        none
    else
      { s with jrn := { s.jrn with buf := { e with count := 0xFFFF } :: es, lost := satInc32 s.jrn.lost } }

/-- Low and high words of a 64-bit value. -/
def words64 (x : Nat) : List Word := [BitVec.ofNat 32 x, BitVec.ofNat 32 (x / 2 ^ 32)]

/-- Logs LATE with its detail (R549): planned grain, actual grain, drift cause. -/
def State.logLate (s : State) (source unit job planned cause : Nat) : State :=
  s.log { status := stLATE, cls := 3, source := source, unit := unit, peer := none, job := job,
          detail := words64 planned ++ words64 s.now ++ [BitVec.ofNat 32 cause] }

/-- Logs a refusal with the requester's place (class 2). -/
def State.logRefused (s : State) (status source unit : Nat) (peer : Nat) (job : Nat) (detail : List Word) :
    State :=
  s.log { status := status, cls := 2, source := source, unit := unit, peer := some peer, job := job,
          detail := detail }

/-! ### Drift counters (R554) -/

/-- Counts one event of a cause on die `d` (14 for F): the cause, the total, and on a compute die the step's
count. -/
def State.drift (s : State) (d cause : Nat) : State :=
  let b := drfB d
  let s := s.bump (b + DRF_CAUSE.stride * cause) DRF_CAUSE.COUNT
  let s := s.bump b DRF_TOTAL.COUNT
  if d < 12 then s.bump b DRF_STEP.COUNT else s

/-! ### Domains (R495, R497) -/

def domC (k : Nat) : Nat := k
def domS (k : Nat) : Nat := 0x10 + k
def domM (k : Nat) : Nat := 0x20 + k
/-- The cluster of core `c` (four cores each). -/
def domK (c : Nat) : Nat := 0x30 + c / 64 * 0x10 + c % 64 / 4
/-- Cluster K00 of processor die 12 or 13. -/
def domK00 (d : Nat) : Nat := 0x30 + (d - 12) * 0x10
def domFC : Nat := 0x50
def domG (g : Nat) : Nat := 0x58 + g
def domHost : Nat := 0x68
def domCXL : Nat := 0x69
def domAON : Nat := 0x70

/-- State of a domain: 0 ON, 1 RETENTION, 2 OFF. -/
def State.domState (s : State) (n : Nat) : Nat := s.fld (pwrB + PWR_DOM.stride * n) PWR_DOM.STATE
/-- ON with its clamps released (R498, R499). -/
def State.domOn (s : State) (n : Nat) : Bool := s.domState n == 0 && s.fld (pwrB + PWR_DOM.stride * n) PWR_DOM.ISOLATED == 0

/-- The domain that powers the block at a control-space offset. -/
def blkDomain (b : Blk) (u : Nat) : Nat :=
  match b with
  | .dsq | .scr | .mem => domC u
  | .cpe => if u < 12 then domC u else domK00 (12 + (u - 12) / 4)
  | .tve => domC (u / 768)
  | .ctl => domK00 u
  | .cpc => domK u
  | .slv => domK00 (12 + u / 4)
  | .glp | .rmt | .col => domFC
  | .prt => domG (u / 4)
  | .ft => domCXL
  | .hst => domHost
  | .tb | .pwr | .sec | .fw | .mgt | .ch | .store => domAON

/-! ### Rights and the partition (R490-R493) -/

/-- A core is in the secure state (CPC_STATUS.SECURE). -/
def State.coreSecure (s : State) (c : Nat) : Bool := s.flag (cpcB c) CPC_STATUS.SECURE

/-- The channel whose rights an agent carries (R491); none for the package controller and other places. -/
def State.agentChan (s : State) : Agent → Option Nat
  | .host fn secure => some (if secure then 0x10 else fn)
  | .core c => some (if s.coreSecure c then 0x100 + c else 0x80 + c)
  | .tile d _ => some (0x20 + d)
  | .dieSeq d => some (0x20 + d)
  | .mgt => some 0x11
  | .solver _ | .copy _ | .pkc | .remote _ => none

/-- Secure agents: secure cores, the package controller and channel 0x010 (R490). -/
def State.agentSecure (s : State) : Agent → Bool
  | .host _ secure => secure
  | .core c => s.coreSecure c
  | .pkc => true
  | _ => false

/-- A number for an agent, used to name a source (R280, R340). -/
def agentPlace (s : State) : Agent → Nat
  | .remote p => p
  | _ => s.place

/-- A KIND 1 entry lets [a, a + len) be read or written. -/
def windowLets (e : Word64) (a len : Nat) (write : Bool) : Bool :=
  let x := e.toNat
  bitsOf x 63 62 == 1 && (if write then bitOf x 60 else bitOf x 61) &&
    decide (bitsOf x 52 32 * 2 ^ 24 ≤ a) && decide (a + len ≤ (bitsOf x 52 32 + bitsOf x 20 0) * 2 ^ 24)

/-- The parts of [a, a + n) within aligned units of `u`: address, length and offset, ascending. -/
def splitAt (u a n : Nat) : List (Nat × Nat × Nat) :=
  if n = 0 then []
  else (List.range' (a / u) ((a + n - 1) / u + 1 - a / u)).map fun b =>
    let lo := max a (b * u)
    (lo, min (a + n) (b * u + u) - lo, lo - a)

/-- Rights let an access: some window lets each of its addresses, whose windows begin and end at 16 MiB units (R491). Rights
that nothing has set let the whole map. -/
def entriesLet (rights : Option (List Word64)) (a len : Nat) (write : Bool) : Bool :=
  match rights with
  | none => true
  | some es => (splitAt (2 ^ 24) a (max 1 len)).all fun p => es.any fun e => windowLets e p.1 p.2.1 write

/-- The channel's rights let an access (R491). -/
def State.rightsLet (s : State) (chan : Option Nat) (a len : Nat) (write : Bool) : Bool :=
  match chan with
  | none => true
  | some n => entriesLet (mapGet? s.sec.rights n) a len write

/-- A partition [base, limit) lets an access (R490): a non-secure one may not touch it. -/
def partitionLets (base limit : Nat) (secure : Bool) (a len : Nat) : Bool :=
  secure || decide (limit ≤ base) || decide (a + len ≤ base) || decide (limit ≤ a)

def State.partLets (s : State) (secure : Bool) (a len : Nat) : Bool :=
  partitionLets s.sec.partBase s.sec.partLimit secure a len

/-- The rights that an access of a command carries: those in force at its acknowledgement (R466), else the channel's. -/
def State.rightsIn (s : State) (g : Option Grant) (chan : Option Nat) (a len : Nat) (write : Bool) : Bool :=
  match g with
  | some g => entriesLet g.rights a len write
  | none => s.rightsLet chan a len write

/-- Partition and rights let an access of the own place (R466, R490, R491, R493). -/
def State.lets (s : State) (g : Option Grant) (chan : Option Nat) (secure : Bool) (a len : Nat) (write : Bool) : Bool :=
  (match g with
   | some g => partitionLets g.base g.limit secure a len
   | none => s.partLets secure a len) && s.rightsIn g chan a len write

/-- The protection in force for a channel (R466). -/
def State.grantOf (s : State) (n : Nat) : Grant := ⟨mapGet? s.sec.rights n, s.sec.partBase, s.sec.partLimit⟩

/-- The channel's rights let it command a unit (R491). -/
def State.rightsUnit (s : State) (chan unit : Nat) : Bool :=
  match mapGet? s.sec.rights chan with
  | none => true
  | some es => es.any fun e => bitsOf e.toNat 63 62 == 0 && unitContains (bitsOf e.toNat 31 0) unit

/-- Ownership lets channel `chan` with role `role` command die `d` (R492). -/
def State.ownerLets (s : State) (chan role d : Nat) : Bool :=
  match mapGet? s.sec.owners d with
  | none => true
  | some c => c == chan || role == 4

/-! ### Jobs -/

/-- The task in a die and its job (TSK_JOB). -/
def State.taskOf (s : State) (d : Nat) : Nat := s.fld (dsqB d) DSQ_STATUS.TASK
def State.jobOfTask (s : State) (d n : Nat) : Nat := s.fld (dsqB d + TSK_JOB.stride * n) TSK_JOB.JOB
def State.jobOf (s : State) (d : Nat) : Nat := s.jobOfTask d (s.taskOf d)

/-- The fabric job table's entry of a job: RELAXED and THROUGHPUT (R338); STRICT and LATENCY without one. -/
def State.jobMode (s : State) (job : Nat) : Bool × Bool :=
  match (List.range 64).find? fun j =>
      s.flag (glpB + 8 * j) GLP_JOB_MODE.VALID && s.fld (glpB + 8 * j) GLP_JOB.JOB == job with
  | none => (false, false)
  | some j => (s.flag (glpB + 8 * j) GLP_JOB_MODE.RELAXED, s.flag (glpB + 8 * j) GLP_JOB_MODE.THROUGHPUT)

/-! ### The far tier's map (R297) -/

/-- Device `i` is mapped: committed. -/
def State.farMapped (s : State) (i : Nat) : Bool := s.flag (ftB + FT_DEV.stride * i) FT_DEV.COMMIT

/-- The port serves device `i`: its link is up, and after a DOWN its COMMIT has been written to 0 and to 1 (R300, R527). -/
def State.farServes (s : State) (i : Nat) : Bool :=
  s.flag (ftB + FT_DEV.stride * i) FT_DEV_STATUS.PRESENT && !s.far.stale.contains i

/-- The device links that the FT_BIFUR straps select: x16, two x8, four x4 (R296). -/
def farLinks (x : Straps) : Nat := if x.ftBifur = 0 then 1 else if x.ftBifur = 1 then 2 else 4

def State.farBase (s : State) (i : Nat) : Nat := s.fld (ftB + FT_DEV.stride * i) FT_DEV.BASE * 2 ^ 30
def State.farSize (s : State) (i : Nat) : Nat := s.fld (ftB + FT_DEV.stride * i) FT_DEV.SIZE * 2 ^ 30

/-- The devices that are present or mapped are interleaved: INTERLEAVE, and every present one of equal SIZE (R297). -/
def State.farInterleaved (s : State) : Bool :=
  let there := (List.range 4).filter fun i => s.farMapped i || s.flag (ftB + FT_DEV.stride * i) FT_DEV_STATUS.PRESENT
  s.flag ftB FT_ILV.INTERLEAVE && there.all fun i => there.all fun j => s.farSize i == s.farSize j

/-- The device that holds far-tier offset `o` (R297); none in no committed range. -/
def State.farDev (s : State) (o : Nat) : Option Nat :=
  let base := s.farBase
  let size := s.farSize
  let live := (List.range 4).filter s.farMapped
  if s.farInterleaved then
    match live with
    | [] => none
    | d :: ds =>
      let lo := ds.foldl (fun m i => min m (base i)) (base d)
      if lo ≤ o ∧ o < lo + size d * live.length then live[(o - lo) / 4096 % live.length]? else none
  else live.find? fun i => decide (base i ≤ o) && decide (o < base i + size i)

end Sys2Proof.Machine
end

