-- ==== Sys2Proof/Machine/Flags.lean ====
section
/-! DEFINITION. Every flag computation: the sticky flags of a tile and the step overflow latch (R68, R156, R190), and
the flags of the long-vector extension. The flags of memory-side atomics stand in Machine/Stack.lean (R284). -/

namespace Sys2Proof.Machine

/-- Raises flags of the matrix unit (`matrix`) or the vector engine of a tile; an OVF that the active slot's TNM_SLOT
lets sets the latch and the lowest tile (R190, R199). -/
def State.raise (s : State) (d t : Nat) (matrix : Bool) (f : Flags) : State :=
  if f.bits = 0 then s
  else
    let a := tveB d t + TVE_FLAGS.off
    let s := s.setReg a (s.reg a ||| BitVec.ofNat 32 (if matrix then f.bits else f.bits * 16))
    let b := dsqB d + TNM_SLOT.stride * s.fld (dsqB d) DSQ_STATUS.SLOT
    if f.ovf && s.flag b (if matrix then TNM_SLOT.M_EN else TNM_SLOT.V_EN) then
      (s.setFld (dsqB d) TNM_STATUS.STEP_OVF 1).modDie d fun x =>
        { x with ovfTile := some (match x.ovfTile with
                                  | none => t
                                  | some u => min t u) }
    else s

/-- FLG (R156): the flags, and the word that CLEAR leaves. -/
def State.readTileFlags (s : State) (d t : Nat) (clear : Bool) : Nat × State :=
  let a := tveB d t + TVE_FLAGS.off
  ((s.reg a).toNat, if clear then s.setReg a 0 else s)

/-- Raises the waiting flags of cycles before `c`. -/
def State.flagsDue (s : State) (d t c : Nat) : State :=
  match (s.tile d t).vec with
  | none => s
  | some r =>
    let fs := (r.flags.filter fun e => decide (e.1 < c)).map fun e => Flags.ofBits e.2
    (s.modTile d t fun x =>
      { x with vec := some { r with flags := r.flags.filter fun e => !decide (e.1 < c) } }).raise d t false (fs.foldl Flags.or Flags.none)

end Sys2Proof.Machine
end

