-- ==== Sys2Proof/Machine/DieBase.lean ====
section
/-! DEFINITION. The die sequencer's shared operations: its states and events (R103), the commit of shadow values
(R8, R9, R29 action 1), the fabric job table (R338, R339), entering STOPPED and ABORT (R101, R102). -/

namespace Sys2Proof.Machine

/-! ### States of the die sequencer -/

def dsSTOPPED : Nat := 0
def dsLOADING : Nat := 1
def dsARMED : Nat := 2
def dsRUNNING : Nat := 3
def dsHELD : Nat := 4
def dsAT_END : Nat := 5

def State.dieState (s : State) (d : Nat) : Nat := s.fld (dsqB d) DSQ_STATUS.STATE
def State.setDieState (s : State) (d v : Nat) : State := s.setFld (dsqB d) DSQ_STATUS.STATE v
/-- The die runs as an owner of fields: from its start grain until it stops (R5). -/
def State.dieRuns (s : State) (d : Nat) : Bool :=
  s.dieState d == dsRUNNING || s.dieState d == dsHELD || s.dieState d == dsAT_END
def State.slotOf (s : State) (d : Nat) : Nat := s.fld (dsqB d) DSQ_STATUS.SLOT

/-- Slot states (R118). -/
def slEMPTY : Nat := 0
def slLOADING : Nat := 1
def slCHECKING : Nat := 2
def slREADY : Nat := 3
def slACTIVE : Nat := 4
def slFAILED : Nat := 5

def mldB (d i : Nat) : Nat := dsqB d + MLD_SLOT_STATE.stride * i
def State.slotState (s : State) (d i : Nat) : Nat := s.fld (mldB d i) MLD_SLOT_STATE.STATE
def State.setSlotState (s : State) (d i v : Nat) : State := s.setFld (mldB d i) MLD_SLOT_STATE.STATE v

def tskB (d n : Nat) : Nat := dsqB d + TSK_CFG.stride * n
def State.tsk (s : State) (d n : Nat) (f : Field) : Nat := s.fld (tskB d n) f
def State.taskValid (s : State) (d n : Nat) : Bool := s.tsk d n TSK_CFG.VALID == 1

/-! ### Events with the doorbell of the die channel (R103, R460) -/

def State.dsqEvent (s : State) (d : Nat) (f : Field) : State :=
  s.event (dsqB d) f 16 (some (0x20 + d)) (bitOf (s.fld (dsqB d) DSQ_EVENT_MASK.MASK) f.lo) (s.dieUnit d)

def State.scrEvent (s : State) (d : Nat) (f : Field) : State :=
  s.event (scrB d) f 17 (some (0x20 + d)) (bitOf (s.fld (scrB d) SCR_EVENT_MASK.MASK) f.lo) (s.dieUnit d)

def State.memEvent (s : State) (d : Nat) (f : Field) : State :=
  s.event (memB d) f 18 (some (0x20 + d)) (bitOf (s.fld (memB d) MEM_EVENT_MASK.MASK) f.lo) (s.dieUnit d)

def State.tnmEvent (s : State) (d : Nat) (f : Field) : State :=
  s.event (dsqB d) f 19 (some (0x20 + d)) (bitOf (s.fld (dsqB d) TNM_EVENT_MASK.MASK) f.lo) (s.dieUnit d)

/-- STR_EVENTS has no mask register; its doorbell rings unmasked (DESIGN CHOICE, log entry 20). -/
def State.strEvent (s : State) (d : Nat) (f : Field) : State :=
  s.event (dsqB d) f 20 (some (0x20 + d)) true (s.dieUnit d)

/-- Events of the engines, of a port, of the timebase and of power reach subscribed channels only (R460). -/
def State.slvEvent (s : State) (e : Nat) (f : Field) : State := s.event (slvB e) f 22 none false (s.dieUnit (12 + e / 4))

def State.cpeEvent (s : State) (e : Nat) (f : Field) : State :=
  s.event (cpeB e) f 23 none false (s.dieUnit (if e < 12 then e else 12 + (e - 12) / 4))

def State.prtEvent (s : State) (p : Nat) (f : Field) : State := s.event (prtB p) f 24 none false (s.dieUnit 14)

def State.tbEvent (s : State) (f : Field) : State := s.event tbB f 25 none false s.pkgUnit

/-- PWR_EVENT_MASK gates the doorbell of power events. -/
def State.pwrEvent (s : State) (f : Field) : State :=
  let s := s.setFld pwrB f 1
  if bitOf (s.fld pwrB PWR_EVENT_MASK.MASK) f.lo then s.ringClass 26 s.pkgUnit none else s

/-- A stopped die into whose slots an image is being written shows LOADING. -/
def State.dieLoading (s : State) (d : Nat) : Bool :=
  s.dieState d == dsSTOPPED && (List.range 4).any fun i => s.slotState d i == slLOADING

/-- A refusal of the die sequencer, class 2. -/
def State.dieBusy (s : State) (d : Nat) : State :=
  s.log { status := stBUSY, cls := 2, source := 1, unit := s.dieUnit d, peer := none, job := s.jobOf d, detail := [] }

/-! ### The job table (R338, R339) -/

/-- Writes the entry of a job: the entry that names it, or else the first invalid one. Job 0 names no job. A job that finds
all 64 entries VALID gets none and stays STRICT and LATENCY; where tasks of one job hold differing modes, the one that
changed last stands (DESIGN CHOICE, log entry 36). -/
def State.setJobMode (s : State) (job : Nat) (relaxed throughput : Bool) : State :=
  if job = 0 then s
  else
    let valid := fun j => s.flag (glpB + 8 * j) GLP_JOB_MODE.VALID
    let own := (List.range 64).find? fun j => valid j && s.fld (glpB + 8 * j) GLP_JOB.JOB == job
    let slot := match own with
      | some j => some j
      | none => (List.range 64).find? fun j => !valid j
    match slot with
    | none => s
    | some j =>
      let s := s.setFld (glpB + 8 * j) GLP_JOB.JOB job
      s.setReg (glpB + 8 * j + GLP_JOB_MODE.off)
        (BitVec.ofNat 32 (2 ^ 31 + 2 * bit1 throughput + bit1 relaxed))

/-! ### Shadow values (R8, R9) -/

/-- Control-space offsets of the registers that die `d` owns. -/
def ownedByDie (d a : Nat) : Bool := a / 0x1000000 == d

/-- Commits one pending value. -/
def commitOne (s : State) (a : Nat) (h : Shadow) : State :=
  s.setReg a ((s.reg a &&& ~~~h.mask) ||| (h.val &&& h.mask))

/-- After TSK_CFG and TSK_JOB changed from those of `old`: TSK_STEPS restarts where VALID went from 0 to 1, and
the job table follows a change of modes (R24, R339). -/
def tasksChanged (old s : State) (d : Nat) : State :=
  (List.range 16).foldl (fun s n =>
    let s := if s.taskValid d n && !old.taskValid d n then s.setFld (tskB d n) TSK_STEPS.STEPS 0 else s
    let modes := fun (x : State) =>
      (x.tsk d n TSK_CFG.RELAXED, x.tsk d n TSK_CFG.THROUGHPUT, x.tsk d n TSK_JOB.JOB, x.tsk d n TSK_CFG.VALID)
    if modes s ≠ modes old ∧ s.taskValid d n then
      s.setJobMode (s.tsk d n TSK_JOB.JOB) (s.tsk d n TSK_CFG.RELAXED == 1) (s.tsk d n TSK_CFG.THROUGHPUT == 1)
    else s) s

/-- R174: remembers the regions that valid tasks hold. -/
def noteHolders (s : State) (d : Nat) : State :=
  s.modDie d fun x =>
    { x with holders := (List.range 16).foldl (fun hs n =>
        let job := s.tsk d n TSK_JOB.JOB
        let base := s.fld (scrB d + 4 * n) SCR_TASK.BASE
        let bound := s.fld (scrB d + 4 * n) SCR_TASK.BOUND
        if s.taskValid d n && bound != 0 && !hs.contains (job, base, bound) then
          hs ++ [(job, base, bound)]
        else hs) x.holders }

/-- Commits every pending value of die `d` (R9, R29 action 1). -/
def State.commitShadows (s : State) (d : Nat) : State :=
  let due := s.shadow.filter fun e => ownedByDie d e.1
  let s1 := { s with shadow := s.shadow.filter fun e => !ownedByDie d e.1 }
  let s2 := due.foldl (fun s e => commitOne s e.1 e.2) s1
  noteHolders (tasksChanged s s2 d) d

/-! ### Wall cycles (R91, R92) -/

/-- The wall cycle of issue cycle `c` of the step: a hold moves the cycle that it holds and every later one. -/
def DieX.wallOf (x : DieX) (c : Nat) : Nat :=
  x.holds.foldl (fun w h => if h.1 ≤ c then w + h.2 else w) (x.wall0 + c)

/-- Arithmetic cycles of the grain that begins now (R395). -/
def State.grainCycles (s : State) (d : Nat) : Nat :=
  let p := s.fld (clkB d) CLK_PERIOD.PERIOD_Q12
  if p = 0 then 0 else ((s.die d).frac + 16384) / p

/-! ### Stopping (R101, R102) -/

/-- Every tile of the die without work: nothing runs in its pipelines. -/
def TileX.stopWork (x : TileX) : TileX :=
  { x with mma := none, vec := none, snd := [], rcv := [], locOut := [] }

/-- Applies `f` to every listed tile of die `d`. -/
def State.mapTiles (s : State) (d : Nat) (f : Nat → TileX → TileX) : State :=
  { s with tiles := s.tiles.map fun e => if e.1 / 768 = d then (e.1, f (e.1 % 768) e.2) else e }

/-- The die enters STOPPED: pending values commit (R9), its active slot is READY again (DEDUCED from R119 and
R123: log entry 13), no cut is planned, and STOPPED is set. -/
def State.enterStopped (s : State) (d : Nat) : State :=
  let s := s.commitShadows d
  let sl := s.slotOf d
  let s := if s.slotState d sl == slACTIVE then s.setSlotState d sl slREADY else s
  let s := s.setReg64 (dsqB d + DSQ_NEXT_CUT_LO.off) 0
  let s := s.modDie d fun x =>
    { x with stopPending := false, flights := [], switching := none, hold := none, refireAt := none, refired := false,
             closing := ⟨0, 0, 0, 0⟩, sched := 0, run := x.run + 1, wallTo := x.wall + 8 }
  let s := (s.setFld (dsqB d) TNM_STATUS.RUNG 0).setFld (dsqB d) TNM_STATUS.VOTING 0
  (s.setDieState d dsSTOPPED).dsqEvent d DSQ_EVENTS.STOPPED

/-- R95: a hold that ends after `n` wall cycles is one tag wait, one drift event and those cycles. -/
def State.countHold (s : State) (d n : Nat) : State :=
  match (s.die d).hold with
  | none => s
  | some h =>
    let s := (s.bump (dsqB d) DSQ_TAGWAIT_COUNT.WAITS).bumpBy (dsqB d) DSQ_HOLD_CYCLES.HOLD n
    (s.drift d 0).modDie d fun x => { x with hold := none, holds := (h.cycle, n) :: x.holds }

/-- Wall cycles that the hold in progress has lasted. -/
def DieX.heldFor (x : DieX) : Nat :=
  match x.hold with
  | none => 0
  | some h => x.wall - h.wall

/-- The issue cycle of wall cycle `w`, which lies after the holds that have ended (R92). -/
def DieX.issueAt (x : DieX) (w : Nat) : Nat := w - x.wall0 - (x.holds.map fun h => h.2).foldl (· + ·) 0

/-- The vector programs of a die stop where they stand: flags of earlier cycles are raised, and none runs (R102, R156). -/
def State.vecStop (s : State) (d : Nat) : State :=
  let c := (s.die d).issueAt (s.die d).wall
  (s.tiles.filter fun e => e.1 / 768 == d && e.2.vec.isSome).foldl (fun s e =>
    (s.flagsDue d (e.1 % 768) c).setFld (tveB d (e.1 % 768)) TVE_STATUS.RUNNING 0) s

/-- ABORT (R102): issue stops, also in HELD, where the hold ends and is counted; the banks keep the values they hold. Nothing
happens to a die that is STOPPED or only loads. -/
def State.abortDie (s : State) (d : Nat) : State :=
  let s := s.countHold d (s.die d).heldFor
  if s.dieState d == dsSTOPPED || s.dieState d == dsLOADING then s
  else ((s.vecStop d).mapTiles d fun _ x => x.stopWork).enterStopped d

/-- STOP (R101): takes effect at the next step cut; none in STOPPED. -/
def State.stopDie (s : State) (d : Nat) : State :=
  if s.dieState d == dsSTOPPED || s.dieState d == dsLOADING then s
  else s.modDie d fun x => { x with stopPending := true }

end Sys2Proof.Machine
end

