-- ==== Sys2Proof/Machine/Scratch.lean ====
section
/-! DEFINITION. Scratch memory (chapter 7): slots and tags (R157, R159-R162), relocation (R166-R169), the error
register and upsets (R175-R178), clearing (R173, R174), and the dirty granules and preserved slots of an open cut
image (R420). -/

namespace Sys2Proof.Machine

/-! ### Sets of granules -/

def GranSet.mem (g : GranSet) (i : Nat) : Bool := g.whole != g.exc.contains i
def GranSet.add (g : GranSet) (i : Nat) : GranSet :=
  if g.mem i then g else if g.whole then { g with exc := g.exc.filter (· != i) } else { g with exc := i :: g.exc }
def GranSet.del (g : GranSet) (i : Nat) : GranSet :=
  if g.mem i then
    (if g.whole then { g with exc := i :: g.exc } else { g with exc := g.exc.filter (· != i) })
  else g
/-- Members among `n` granules. -/
def GranSet.size (g : GranSet) (n : Nat) : Nat :=
  if g.whole then n - (g.exc.filter (· < n)).length else g.exc.length
def GranSet.isEmpty (g : GranSet) (n : Nat) : Bool := g.size n == 0
/-- Union. -/
def GranSet.join (a b : GranSet) : GranSet :=
  match a.whole, b.whole with
  | false, false => b.exc.foldl GranSet.add a
  | true, false => b.exc.foldl GranSet.add a
  | false, true => a.exc.foldl GranSet.add b
  | true, true => { whole := true, exc := a.exc.filter b.exc.contains }
/-- Members in ascending order. -/
def GranSet.toList (g : GranSet) (n : Nat) : List Nat := (List.range n).filter g.mem
/-- Members within ranges of (first, count). -/
def inRanges (rs : List (Nat × Nat)) (i : Nat) : Bool := rs.any fun r => decide (r.1 ≤ i) && decide (i < r.1 + r.2)
/-- The members of `g` that lie in the ranges. -/
def GranSet.within (g : GranSet) (rs : List (Nat × Nat)) : GranSet :=
  if g.whole then
    { whole := false, exc := (rs.flatMap fun r => List.range' r.1 r.2).eraseDups.filter g.mem }
  else { g with exc := g.exc.filter (inRanges rs) }

/-- Granules of Mk and of Sk (R285, R420). -/
def memGranules : Nat := 2097152
def scrGranules : Nat := 15360

/-! ### Slots and tags -/

/-- Window address of physical slot `p` of tile `t` (R157). -/
def slotAddr (d t p : Nat) : Nat := scratchAddr d (t * 0x140000 + p * 0x100)
/-- The number of a slot in the tag map. -/
def slotNo (d t p : Nat) : Nat := (d * 768 + t) * 5120 + p
def State.tag (s : State) (d t p : Nat) : Tag := mapGet Tag.empty s.tags (slotNo d t p)
def State.setTag (s : State) (d t p : Nat) (g : Tag) : State :=
  { s with tags := mapSet Tag.empty s.tags (slotNo d t p) g }

/-- The first cycle in which a read of the tile that has not been made yet may cross its port. -/
def TileX.horizon (x : TileX) : Nat :=
  let a := match x.mma with
    | some m => min x.cycle m.cycle
    | none => x.cycle
  let b := x.snd.foldl (fun a st => if st.did < 2 * st.count then min a (st.start + st.did) else a) a
  match x.vec with
  | some r => match r.sched[r.next]? with
    | some v => min b (r.s0 + v.s)
    | none => b
  | none => b

/-- The tag that an examination in wall cycle `w` sees, from the present tag back through its changes (R164). -/
def tagBefore (w : Nat) : List (Nat × Tag) → Tag → Tag
  | [], g => g
  | (v, old) :: r, g => if w < v then tagBefore w r old else g

def State.tagSeen (s : State) (d t p w : Nat) : Tag :=
  tagBefore w (mapGet [] (s.die d).fresh (slotNo d t p)) (s.tag d t p)

/-- Sets a tag so that an examination sees it from wall cycle `v` on (R164). Changes that every coming examination of the
tile sees are forgotten. -/
def State.setTagAt (s : State) (d t p : Nat) (g : Tag) (v : Nat) : State :=
  let old := s.tag d t p
  if old = g then s
  else
    let n := slotNo d t p
    let x := s.die d
    let past := if s.dieRuns d then x.wallOf (s.tile d t).cycle - 2 else x.wall
    let kept := (mapGet [] x.fresh n).filter fun e => decide (past < e.1)
    (s.setTag d t p g).modDie d fun x => { x with fresh := mapPut x.fresh n ((v, old) :: kept) }

/-- The 256 bytes of a slot. -/
def State.slotBytes (s : State) (d t p : Nat) : List Byte := readBytes s.mem (slotAddr d t p) 256
/-- The granule of a slot (R420). -/
def granOf (t p : Nat) : Nat := 20 * t + p / 256

/-- Word 8 of a tag-wait, poison or overrun entry: tile, slot, word (R549). -/
def slotDetail (t p w : Nat) : Word := BitVec.ofNat 32 (t % 1024 * 2 ^ 22 + p % 8192 * 2 ^ 9 + w % 32 * 16)

/-! ### The error register (R178) -/

/-- Writes SCR_ERR_INFO where R178 lets the event. -/
def State.scrErrInfo (s : State) (d t p w kind : Nat) : State :=
  let b := scrB d
  let k := s.fld b SCR_ERR_INFO.KIND
  let quiet := !s.flag b SCR_EVENTS.UE && !s.flag b SCR_EVENTS.POISON_READ && !s.flag b SCR_EVENTS.OVERRUN
  let write := if kind = 5 then k == 0 || (quiet && !s.flag b SCR_EVENTS.CE) else quiet || k == 0 || k == 5
  if write then
    s.setReg (b + SCR_ERR_INFO.off) (BitVec.ofNat 32 (t % 1024 * 2 ^ 22 + p % 8192 * 2 ^ 9 + w % 32 * 16 + kind))
  else s

/-- An uncorrectable error, poison read or overrun in the journal (R178, class 6). -/
def State.scrFatalLog (s : State) (d t p w : Nat) : State :=
  s.log { status := stINTERNAL, cls := 6, source := 3, unit := s.dieUnit d, peer := none, job := s.jobOf d,
          detail := [slotDetail t p w] }

/-- One upset as an access or the scrubber meets it (R175, R176). -/
def meetUpset (d : Nat) (s : State) (u : Upset) : State :=
  let t := u.unit / 5120 % 768
  let p := u.unit % 5120
  let b := scrB d
  match u.kind with
  | .dataSingle | .sectorOne => (s.bump b SCR_CE_COUNT.COUNT).scrEvent d SCR_EVENTS.CE
  | .tagSingle => ((s.scrErrInfo d t p u.word 5).bump b SCR_CE_COUNT.COUNT).scrEvent d SCR_EVENTS.CE
  | .dataDouble | .sectorMany =>
    (((s.scrErrInfo d t p u.word 1).setTag d t p .poison).bump b SCR_UE_COUNT.COUNT).scrEvent d SCR_EVENTS.UE
      |>.scrFatalLog d t p u.word
  | .tagAll =>
    (((s.scrErrInfo d t p u.word 2).setTag d t p .poison).bump b SCR_UE_COUNT.COUNT).scrEvent d SCR_EVENTS.UE
      |>.scrFatalLog d t p u.word

/-- Meets every upset of the die that `hit` selects, each once. -/
def State.meetUpsets (s : State) (d : Nat) (hit : Upset → Bool) : State :=
  let us := (s.die d).upsets
  (us.filter hit).foldl (meetUpset d) (s.modDie d fun x => { x with upsets := us.filter fun u => !hit u })

/-- The upset struck a copy of the slot's tag. -/
def tagUpset (u : Upset) : Bool := u.kind == .tagSingle || u.kind == .tagAll

/-- Meets what `hit` selects among the upsets of a slot. -/
def State.meetSlot (s : State) (d t p : Nat) (hit : Upset → Bool) : State :=
  if (s.die d).upsets.any (fun u => u.unit == slotNo d t p && hit u) then
    s.meetUpsets d fun u => u.unit == slotNo d t p && hit u
  else s

/-- The tag of a slot is read (R176). -/
def State.touchTag (s : State) (d t p : Nat) : State := s.meetSlot d t p tagUpset

/-- Byte `lo` and the `n` − 1 bytes after it of a slot are read: the codes of their 8-byte words, and the tag (R175, R176). -/
def State.touchBytes (s : State) (d t p lo n : Nat) : State :=
  s.meetSlot d t p fun u => tagUpset u || (decide (lo < 8 * u.word + 8) && decide (8 * u.word < lo + n))

/-- Bytes of a slot are about to be written: a word that the write covers takes a new code, a word of which it covers a part is
read first (R175). -/
def State.overBytes (s : State) (d t p lo n : Nat) : State :=
  let gone := fun (u : Upset) =>
    u.unit == slotNo d t p && !tagUpset u && decide (lo ≤ 8 * u.word) && decide (8 * u.word + 8 ≤ lo + n)
  let s := if (s.die d).upsets.any gone then s.modDie d fun x => { x with upsets := x.upsets.filter fun u => !gone u } else s
  s.touchBytes d t p lo n

/-! ### Writing slots -/

/-- R285 as R420 applies it to Sk. -/
def State.scrMark (s : State) (d g : Nat) : State :=
  if s.flag (memB d) MEM_DIRTY_CTRL.ENABLE then s.modDie d fun x => { x with sDirty := x.sDirty.add g } else s

/-- The first slot of reserve granule `r`: tile and slot. -/
def rsvPlace (r : Nat) : Nat × Nat := (r / 20, r % 20 * 256)

/-- Before the first write to a slot of an unread cut-set granule, the slot is copied into the granule's reserve
granule (R420). -/
def State.preserveSlot (s : State) (d t p : Nat) : State :=
  let g := granOf t p
  let x := s.die d
  if x.sCut.mem g then
    match mapGet? x.sRsv g with
    | none => s
    | some (r, kept) =>
      if kept.contains p then s
      else
        let q := rsvPlace r
        let s := { s with mem := writeBytes s.mem (slotAddr d q.1 (q.2 + p % 256)) (s.slotBytes d t p) }
        s.modDie d fun x => { x with sRsv := mapPut x.sRsv g (r, p :: kept) }
  else s

/-- Stores bytes in one slot: preserve, dirty bit, bytes. -/
def State.putSlot (s : State) (d t p ofs : Nat) (data : List Byte) : State :=
  let s := ((s.preserveSlot d t p).scrMark d (granOf t p)).stir none (slotAddr d t p + ofs) data.length
  { s with mem := writeBytes s.mem (slotAddr d t p + ofs) data }

/-- The tag after a write (R159, R160). -/
def tagAfter (g : Tag) (whole fills : Bool) : Tag :=
  match g with
  | .poison => if whole then (if fills then .full else .empty) else .poison
  | g => if fills then .full else g

/-- Notes a write of `n` bytes that lands in wall cycle `w`, before it is made (R163); forgets those that no coming read
could miss. A stopped die counts wall cycles until its reads could see the write. -/
def State.noteWrite (s : State) (d t w a n : Nat) : State :=
  let x := s.die d
  let runs := s.dieRuns d
  let past := if runs then x.wallOf (s.tile d t).horizon else x.wall
  let s := s.modTile d t fun y => { y with late := ⟨w, a, readBytes s.mem a n⟩ :: y.late.filter fun e => decide (past < e.wall + 7) }
  if runs then s else s.modDie d fun x => { x with wallTo := x.wall + 8 }

/-- A tile's write of bytes of a slot through its port in wall cycle `w`; its effect on the tag is `tileTag`. -/
def State.tilePut (s : State) (d t p ofs w : Nat) (data : List Byte) : State :=
  ((s.overBytes d t p ofs data.length).noteWrite d t w (slotAddr d t p + ofs) data.length).putSlot d t p ofs data

/-- The tag of a slot whose last byte a tile wrote in wall cycle `w` (R159, R160, R164). -/
def State.tileTag (s : State) (d t p w : Nat) (whole fills : Bool) : State :=
  let g := tagAfter (s.tag d t p) whole fills
  s.setTagAt d t p g (if g = .full then w + 5 else w)

/-- Abort of a die on a poison read or an overrun in word `w` of a slot (R159, R178): kind 3 or 4. -/
def State.scrAbort (s : State) (d t p w kind : Nat) : State :=
  let s := s.scrErrInfo d t p w kind
  let s := s.scrEvent d (if kind = 3 then SCR_EVENTS.POISON_READ else SCR_EVENTS.OVERRUN)
  (s.scrFatalLog d t p w).abortDie d

/-- An arrival in one slot (R159-R162). -/
def State.scrArrive (s : State) (d t p ofs : Nat) (data : List Byte) (fill poison : Bool) : State :=
  let s := s.touchTag d t p
  if fill && s.tag d t p == .full then s.scrAbort d t p (ofs / 8) 4
  else
    let w := (s.die d).wall
    let s := ((s.overBytes d t p ofs data.length).noteWrite d t w (slotAddr d t p + ofs) data.length).putSlot d t p ofs data
    if poison then s.setTagAt d t p .poison w
    else s.tileTag d t p w (ofs == 0 && data.length == 256) fill

/-! ### Relocation and admission (R166-R169) -/

/-- Physical slot of a logical slot of the task in the die (R166). -/
def State.phys (s : State) (d slot : Nat) : Nat := (s.die d).base + slot

/-- Region of task `n`: the loaded one for the task in a running die, else SCR_TASK. -/
def State.region (s : State) (d n : Nat) : Nat × Nat :=
  if s.dieRuns d && s.taskOf d == n then ((s.die d).base, (s.die d).bound)
  else (s.fld (scrB d + 4 * n) SCR_TASK.BASE, s.fld (scrB d + 4 * n) SCR_TASK.BOUND)

/-- R169: the slot lies in the region of a valid task of the job. -/
def State.slotAdmits (s : State) (d p job : Nat) : Bool :=
  (List.range 16).any fun n =>
    s.taskValid d n && s.tsk d n TSK_JOB.JOB == job && decide ((s.region d n).1 ≤ p) &&
      decide (p < (s.region d n).1 + (s.region d n).2)

/-- A granule is marked as reserve in SCR_RSV_MAP. -/
def State.isReserve (s : State) (d g : Nat) : Bool :=
  bitOf (s.fld (scrB d + 4 * (g / 32)) SCR_RSV_MAP.MAP) (g % 32)

/-- Sk holds an open image. -/
def State.scrOpen (s : State) (d : Nat) : Bool := !(s.die d).sCut.isEmpty scrGranules

/-- A dropped access (R158, R168): journal, count and event. -/
def State.scrDrop (s : State) (d t p place src : Nat) : State :=
  let s := s.log { status := stDENIED, cls := 2, source := 3, unit := s.dieUnit d, peer := some place,
                   job := s.jobOf d, detail := [BitVec.ofNat 32 (t % 1024 * 2 ^ 22 + p % 8192 * 2 ^ 9 + src % 16)] }
  (s.bump (scrB d) SCR_DROP_COUNT.COUNT).scrEvent d SCR_EVENTS.DROPPED

def Reply.denied : Reply := ⟨stDENIED, [], false⟩
def Reply.ok (data : List Byte) : Reply := ⟨stOK, data, false⟩

/-- A window access from outside the die to at most one slot (R157, R158, R169, R171). `src` is the source die's
index, 15 when it does not lie in this package. -/
def State.windowAccess (s : State) (d : Nat) (a : WindowAccess) (src : Nat) : State × Reply :=
  let t := a.off / 0x140000
  let p := a.off % 0x140000 / 0x100
  let ofs := a.off % 0x100
  let len := match a.op with
    | .read n => n
    | .write data _ _ => data.length
    | .atomic => 0
  let ok := decide (a.off < 0x3C000000) && a.op != .atomic && s.domOn (domS d) && decide (ofs + len ≤ 256) &&
    s.slotAdmits d p a.job.toNat && !(s.scrOpen d && s.isReserve d (granOf t p))
  if ok then
    match a.op with
    | .read n =>
      let s := s.touchBytes d t p ofs n
      (s, ⟨stOK, readBytes s.mem (slotAddr d t p + ofs) n, s.tag d t p == .poison⟩)
    | .write data fill poison => (s.scrArrive d t p ofs data fill poison, Reply.ok [])
    | .atomic => (s, Reply.denied)
  else (s.scrDrop d t p a.place src, Reply.denied)

/-- An arrival at a scratch die that is not on is dropped as an access of the own package (R158, R171). -/
def State.scrLand (s : State) (d t p ofs : Nat) (data : List Byte) (fill poison : Bool) (src : Nat) : State :=
  if s.domOn (domS d) then s.scrArrive d t p ofs data fill poison else s.scrDrop d t p s.place src

/-- The adapter of die `src` toward die `d` (R14, R90): the ring links to the neighbours, the spoke to every other die. -/
def edgeTo (src d : Nat) : Nat := if d = (src + 1) % 12 then 2 else if src = (d + 1) % 12 then 4 else 3

/-- The edge tiles whose words wait in an adapter of a die. -/
def DieX.lanes (x : DieX) (edge : Nat) : List Nat := ((x.adapters.filter fun e => e.1 == edge).map fun e => e.2.1).eraseDups

/-- The words of an edge tile in an adapter, oldest first. -/
def DieX.lane (x : DieX) (edge t : Nat) : List (List Byte) :=
  (x.adapters.filter fun e => e.1 == edge && e.2.1 == t).map fun e => e.2.2

/-- Removes the `n` oldest words of an edge tile. -/
def takeWords (edge t : Nat) : Nat → List (Nat × Nat × List Byte) → List (Nat × Nat × List Byte)
  | 0, es => es
  | _, [] => []
  | n + 1, e :: es => if e.1 = edge ∧ e.2.1 = t then takeWords edge t n es else e :: takeWords edge t (n + 1) es

/-- The edge tile whose two oldest words in the adapter toward `d` are the 256 bytes of a slot. -/
def State.routeLane (s : State) (src d : Nat) (data : List Byte) : Option Nat :=
  ((s.die src).lanes (edgeTo src d)).find? fun t => (((s.die src).lane (edgeTo src d) t).take 2).flatMap id == data

/-- A static-route delivery (R90, R168): two words that an edge tile of the source put on its adapter arrive as a slot,
relocated by the task in the destination die, always filling. Which die and slot a route names stands in no field of the
image: they come with the arrival (DESIGN CHOICE, log entry 37). Bytes that no route sent do not arrive. -/
def State.routeArrive (s : State) (src d t slot : Nat) (data : List Byte) : State :=
  match s.routeLane src d data with
  | none => s
  | some l =>
    let s := s.modDie src fun x => { x with adapters := takeWords (edgeTo src d) l 2 x.adapters }
    let x := s.die d
    if s.jobOf src ≠ s.jobOf d ∨ x.bound ≤ slot ∨ !s.domOn (domS d) then s.scrDrop d t (x.base + slot) s.place src
    else s.scrArrive d t (x.base + slot) 0 data true false

/-! ### Clearing (R173, R174) -/

/-- Slots of a clear: FIRST_SLOT and SLOT_COUNT, ended at slot 5,119. -/
def clearRange (first count : Nat) : ClearX := ⟨first, min count (5120 - first), 0, 0, [], .none⟩

/-- The range overlaps the region of the task in a running die (R173). -/
def State.clearRefused (s : State) (d : Nat) (c : ClearX) : Bool :=
  s.dieRuns d && decide (0 < c.count) && decide (c.first < (s.die d).base + (s.die d).bound) &&
    decide ((s.die d).base < c.first + c.count)

/-- A write of SCR_CLEAR.GO (R173). -/
def State.startClear (s : State) (d first count : Nat) : State :=
  if (s.die d).clear.isSome || s.clearRefused d (clearRange first count) then
    s.log { status := stBUSY, cls := 2, source := 3, unit := s.dieUnit d, peer := none, job := s.jobOf d,
            detail := [] }
  else s.modDie d fun x => { x with clear := some { clearRange first count with go := x.wall } }

/-- Preserves every slot of the range that an open image still needs (R420). -/
def State.preserveRange (s : State) (d : Nat) (c : ClearX) : State :=
  if s.scrOpen d then
    (List.range 768).foldl (fun s t =>
      (List.range' c.first c.count).foldl (fun s p => s.preserveSlot d t p) s) s
  else s

/-- Granules of a slot range over all tiles become dirty (R420). -/
def dirtyRange (g : GranSet) (c : ClearX) : GranSet :=
  if c.count = 0 then g
  else
    (List.range 768).foldl (fun g t =>
      (List.range' (c.first / 256) ((c.first + c.count - 1) / 256 + 1 - c.first / 256)).foldl
        (fun g k => g.add (20 * t + k)) g) g

/-- What a clear leaves of a hold: job, first slot, count (R174). -/
def unheld (h : Nat × Nat × Nat) (c : ClearX) : List (Nat × Nat × Nat) :=
  let e := h.2.1 + h.2.2
  [(h.1, h.2.1, min e c.first - h.2.1), (h.1, max h.2.1 (c.first + c.count), e - max h.2.1 (c.first + c.count))].filter fun x => x.2.2 != 0

/-- The slots of a range hold zero and EMPTY in every tile; the range is no longer held by earlier tasks. -/
def State.zeroSlots (s : State) (d : Nat) (c : ClearX) : State :=
  let inSlots := fun p => decide (c.first ≤ p) && decide (p < c.first + c.count)
  let inMem := fun a =>
    decide (slotAddr d 0 0 ≤ a) && decide (a < slotAddr d 768 0) && inSlots ((a - slotAddr d 0 0) % 0x140000 / 0x100)
  let inTags := fun k => k / 5120 / 768 == d && inSlots (k % 5120)
  let s := s.preserveRange d c
  let s := { s with mem := clearBytes s.mem inMem, tags := mapKeep s.tags fun k => !inTags k }
  s.modDie d fun x =>
    { x with sDirty := if s.flag (memB d) MEM_DIRTY_CTRL.ENABLE then dirtyRange x.sDirty c else x.sDirty,
             upsets := x.upsets.filter fun u => !inTags u.unit,
             holders := x.holders.flatMap fun h => unheld h c }

/-- Slot `p` of every tile is cleared in wall cycle `w`: examinations see EMPTY from the cycle after on (R173), and reads on
their way return the bytes that stood before (R163). -/
def State.clearSlot (s : State) (d p w : Nat) : State :=
  let s := (s.tags.filter fun e => e.1 / 5120 / 768 == d && e.1 % 5120 == p).foldl
    (fun s e => s.setTagAt d (e.1 / 5120 % 768) p .empty (w + 1)) s
  let s := if s.dieRuns d then
      (s.tiles.filter fun e => e.1 / 768 == d).foldl
        (fun s e => s.noteWrite d (e.1 % 768) w (slotAddr d (e.1 % 768) p) 256) s
    else s
  s.zeroSlots d ⟨p, 1, 0, 0, [], .none⟩

/-! ### Clears before a task becomes VALID (R174) -/

/-- The slots of a region that tasks of other jobs held since the last clear (R174). -/
def foreignRanges (hs : List (Nat × Nat × Nat)) (job base bound : Nat) : List ClearX :=
  (hs.filter fun h => h.1 != job).filterMap fun h =>
    let lo := max h.2.1 base
    let hi := min (h.2.1 + h.2.2) (min (base + bound) 5120)
    if lo < hi then some ⟨lo, hi - lo, 0, 0, [], .none⟩ else none

/-- The ranges to clear before a write that sets VALID (`sets`) of a task with a job and a region. -/
def State.foreignSlots (s : State) (d : Nat) (sets : Bool) (job base bound : Nat) : List ClearX :=
  if sets then foreignRanges ((noteHolders s d).die d).holders job base bound else []

/-- The package cannot clear the ranges now: a clear runs, or a range meets the region of the task that runs. -/
def State.clearsBlocked (s : State) (d : Nat) (cs : List ClearX) : Bool := (s.die d).clear.isSome || cs.any (s.clearRefused d)

/-- Starts the first of several clears; the others and what waits for them follow. -/
def State.startClears (s : State) (d : Nat) (cs : List ClearX) (task : ClearTask) : State :=
  match cs with
  | [] => s
  | c :: cs =>
    (noteHolders s d).modDie d fun x =>
      { x with clear := some { c with go := x.wall, rest := cs.map fun e => (e.first, e.count), task := task } }

/-- One sweep of the scrubber (R177). -/
def State.scrubScratch (s : State) (d : Nat) (struck : List Upset) : State :=
  let s := s.modDie d fun x => { x with upsets := x.upsets ++ struck.filter fun u => u.unit / 5120 / 768 == d }
  if s.flag (scrB d) SCR_SCRUB.ENABLE && s.domOn (domS d) then s.meetUpsets d fun _ => true else s

end Sys2Proof.Machine
end

