-- ==== Sys2Proof/Machine/Stack.lean ====
section
/-! DEFINITION. Memory stacks (chapter 12): pseudo-channel hashing (R278), one operation applied by a stack
controller (R276, R280-R284), dirty granules and the cut image (R285-R291), sector errors and poison (R293, R294),
the same operations at the far tier (R298, R300), and the close and the end of the cut images of a die
(R419, R420, R438). -/

namespace Sys2Proof.Machine

/-! ### Atomics (R282, R284) -/

/-- The minimum or maximum of two codes as R154 orders them: NaN if either is NaN, −0 below +0. -/
def fPick (f : Fmt) (wantMax : Bool) (a b : Nat) : Nat :=
  let x := decode f a
  let y := decode f b
  if isNaN x || isNaN y then f.nanCode
  else
    let below := ltNum x y || (eqNum x y && isNegNum x && !isNegNum y)
    if below = wantMax then b else a

/-- The base operation of an AOP (low four bits) on `w` bits, with the flags of R284. -/
def atomicBase (op : Nat) (w : Nat) (old x : Nat) : Nat × Flags :=
  let f : Fmt := if w = 64 then .b64 else .b32
  let int := fun (z : Nat) => (z % 2 ^ w, Flags.none)
  match op with
  | 0x0 => int (old + x)
  | 0x1 => int (Nat.land old x)
  | 0x2 => int (Nat.lor old x)
  | 0x3 => int (Nat.xor old x)
  | 0x4 => int (if signedOf x w < signedOf old w then x else old)
  | 0x5 => int (if signedOf old w < signedOf x w then x else old)
  | 0x6 => int (if x < old then x else old)
  | 0x7 => int (if old < x then x else old)
  | 0x8 => fAdd f .rne old x
  | 0x9 => int (fPick f false old x)
  | _ => int (fPick f true old x)

/-- AOP values of the table of R282. -/
def atomicKnown (aop : Nat) : Bool :=
  (decide (0x10 ≤ aop) && decide (aop ≤ 0x1B)) || (decide (0x20 ≤ aop) && decide (aop ≤ 0x2A)) ||
    aop == 0x30 || aop == 0x31

def atomicReturns (aop : Nat) : Bool := decide (0x20 ≤ aop)

/-- Column "Order-sensitive" of R282. -/
def orderSensitive (aop : Nat) : Bool := aop == 0x18 || aop == 0x1B || atomicReturns aop

/-- Bytes that an atomic covers. -/
def atomicLen (aop : Nat) (size64 : Bool) (operand : List Byte) : Nat :=
  if aop = 0x1B then operand.length else if size64 then 8 else 4

/-- R276 and R282: the AOP exists, the target is aligned and lies in one block. -/
def atomicOk (aop : Nat) (size64 : Bool) (operand : List Byte) (a : Nat) : Bool :=
  let e := if size64 then 8 else 4
  let n := atomicLen aop size64 operand
  atomicKnown aop && a % e == 0 && decide (a % 256 + n ≤ 256) &&
    (aop != 0x1B || (n % e == 0 && decide (8 ≤ n)))

/-- The bytes an atomic leaves, with its flags. -/
def atomicNew (aop : Nat) (size64 : Bool) (old operand : List Byte) : List Byte × Flags :=
  let n := if size64 then 8 else 4
  let w := 8 * n
  if aop = 0x1B then
    let f : Fmt := if size64 then .b64 else .b32
    let rs := (List.zip (leWords n old) (leWords n operand)).map fun p => fAdd f .rne p.1 p.2
    (rs.flatMap fun r => toBytes r.1 n, rs.foldl (fun fl r => fl.or r.2) Flags.none)
  else if aop = 0x30 then (fitBytes n operand, Flags.none)
  else if aop = 0x31 then
    if leNat (operand.take n) = leNat old then (fitBytes n (operand.drop 8), Flags.none) else (old, Flags.none)
  else
    let r := atomicBase (aop % 16) w (leNat old) (leNat (operand.take n))
    (toBytes r.1 n, r.2)

/-! ### Ranges of operations -/

def MemOp.len : MemOp → Nat
  | .read n => n
  | .write d => d.length
  | .copyData d => d.length
  | .shardData d => d.length
  | .atomic aop s x => atomicLen aop s x

/-- The operation writes bytes of memory. -/
def MemOp.writes : MemOp → Bool
  | .read _ => false
  | _ => true

/-- The operation returns an old value (R282). -/
def MemOp.fetches : MemOp → Bool
  | .atomic aop _ _ => atomicReturns aop
  | _ => false

/-- A plain write in the sense of R280. -/
def MemOp.plain : MemOp → Bool
  | .write _ => true
  | .copyData _ => true
  | .shardData _ => true
  | _ => false

/-- The source of an operation: the issuing agent with its place, of another place its die and unit (R280, R283). -/
def Req.source (r : Req) : Agent × Nat × Nat := (r.who, r.place, r.srcUnit)

/-- Two requests come from different sources (R280). -/
def differentSource (a b : Req) : Bool := a.source != b.source

def overlaps (a n b m : Nat) : Bool := decide (a < b + m) && decide (b < a + n)

/-- R280: a waiting request that writes a byte of the same block that `r` writes, one of them a plain write. -/
def contends (r q : Req) : Bool :=
  r.op.writes && q.op.writes && differentSource r q && (r.op.plain || q.op.plain) && r.addr / 256 == q.addr / 256 &&
    overlaps r.addr r.op.len q.addr q.op.len

/-! ### The hash (R278) -/

/-- Pseudo-channel of the block at stack offset `o`. -/
def pseudoChannel (o : Nat) : Nat :=
  Nat.xor (bitsOf o 13 8) (Nat.xor (bitsOf o 19 14) (Nat.xor (bitsOf o 25 20)
    (Nat.xor (bitsOf o 31 26) (bitsOf o 36 32))))

/-! ### Sectors: upsets and poison (R293, R294) -/

/-- Sectors that a range of package-local addresses covers. -/
def sectorsOf (a n : Nat) : List Nat := if n = 0 then [] else List.range' (a / 64) ((a + n - 1) / 64 + 1 - a / 64)

def State.poisoned (s : State) (a n : Nat) : Bool := (sectorsOf a n).any s.poison.contains

/-- Marks sectors as poisoned, or clears the mark. -/
def State.setPoison (s : State) (secs : List Nat) (on : Bool) : State :=
  { s with poison := let rest := s.poison.filter fun x => !secs.contains x
                     if on then secs ++ rest else rest }

/-- One upset of stack `k` as the controller meets it (R293). -/
def meetStackUpset (k : Nat) (s : State) (u : Upset) : State :=
  let b := memB k
  match u.kind with
  | .sectorOne | .dataSingle | .tagSingle => (s.bump b MEM_CE_COUNT.COUNT).memEvent k MEM_EVENTS.CE
  | .sectorMany | .dataDouble | .tagAll =>
    let o := u.unit * 64 - stackAddr k 0
    let s := s.setPoison [u.unit] true
    let s := if s.flag b MEM_EVENTS.UE then s else s.setReg64 (b + MEM_ERR_ADDR_LO.off) o
    ((s.bump b MEM_UE_COUNT.COUNT).memEvent k MEM_EVENTS.UE).log
      { status := stINTERNAL, cls := 6, source := 4, unit := s.dieUnit k, peer := none, job := 0, detail := words64 o }

/-- Meets every upset of the stack in the sectors that `hit` selects. -/
def State.meetStackUpsets (s : State) (k : Nat) (hit : Nat → Bool) : State :=
  let us := (s.stack k).upsets
  (us.filter fun u => hit u.unit).foldl (meetStackUpset k)
    (s.modStack k fun x => { x with upsets := us.filter fun u => !hit u.unit })

/-! ### Dirty granules and the cut image (R285-R290) -/

def State.memOpen (s : State) (k : Nat) : Bool := !(s.stack k).cut.isEmpty memGranules

/-- The reserve region of Mk as first granule and count. -/
def State.reserve (s : State) (k : Nat) : Nat × Nat :=
  (s.fld (memB k) MEM_RESERVE_BASE.GRANULE, s.fld (memB k) MEM_RESERVE_SIZE.GRANULE)

def State.inReserve (s : State) (k o : Nat) : Bool :=
  decide ((s.reserve k).1 ≤ o / 65536) && decide (o / 65536 < (s.reserve k).1 + (s.reserve k).2)

/-- R285. -/
def State.memMark (s : State) (k o : Nat) : State :=
  if s.flag (memB k) MEM_DIRTY_CTRL.ENABLE then s.modStack k fun x => { x with dirty := x.dirty.add (o / 65536) }
  else s

/-- A free granule of the reserve region, lowest first. -/
def State.freeReserve (s : State) (k : Nat) : Option Nat :=
  (List.range' (s.reserve k).1 (s.reserve k).2).find? fun r => !(s.stack k).rsv.any fun e => e.2 == r

/-- The granule needs its cut-image copy before a write. -/
def State.needsCopy (s : State) (k g : Nat) : Bool := (s.stack k).cut.mem g && (mapGet? (s.stack k).rsv g).isNone

/-- Sectors of a granule of stack `k`. -/
def granuleSectors (k g : Nat) : List Nat := List.range' (stackAddr k (g * 65536) / 64) 1024

/-- The controller reads a granule: it meets the upsets of its sectors (R293). -/
def State.meetGranule (s : State) (k g : Nat) : State := s.meetStackUpsets k fun u => (granuleSectors k g).contains u

/-- Copies 64 KiB of stack `k` from granule `g` to granule `r`, poison included. -/
def State.copyGranule (s : State) (k g r : Nat) : State :=
  let s := s.meetGranule k g
  let src := stackAddr k (g * 65536)
  let dst := stackAddr k (r * 65536)
  let bad := ((sectorsOf src 65536).filter s.poison.contains).map fun x => x - src / 64 + dst / 64
  ({ s with mem := writeBytes s.mem dst (readBytes s.mem src 65536) }.setPoison (sectorsOf dst 65536) false).setPoison
    bad true

/-- R287: before a write the granule is copied; none where the reserve has no room (R288). -/
def State.preserveGranule (s : State) (k g : Nat) : Option State :=
  if s.needsCopy k g then
    match s.freeReserve k with
    | none => none
    | some r => some ((s.copyGranule k g r).modStack k fun x => { x with rsv := mapPut x.rsv g r })
  else some s

/-- A cut read of a granule (R289): its cut-image bytes; the granule leaves the cut set and frees its copy. -/
def State.cutReadMem (s : State) (k g : Nat) : State × List Byte :=
  let at_ := match mapGet? (s.stack k).rsv g with
    | some r => r
    | none => g
  let s := s.meetGranule k at_
  let bytes := readBytes s.mem (stackAddr k (at_ * 65536)) 65536
  (s.modStack k fun x => { x with cut := x.cut.del g, rsv := mapErase x.rsv g }, bytes)

/-- Granule `g` of Sk: tile g / 20, slots 256 (g mod 20) onward (R420). -/
def scrGranBase (d g : Nat) : Nat := slotAddr d (g / 20) (g % 20 * 256)

/-- A cut read of a granule of Sk (R289 by R420): a preserved slot comes from the reserve granule. -/
def State.cutReadScr (s : State) (d g : Nat) : State × List Byte :=
  let kept := match mapGet? (s.die d).sRsv g with
    | some (r, ps) => some (r, ps)
    | none => none
  let at_ := fun (i : Nat) =>
    let p := g % 20 * 256 + i
    match kept with
    | some (r, ps) => if ps.contains p then (r / 20, r % 20 * 256 + i) else (g / 20, p)
    | none => (g / 20, p)
  let s := (List.range 256).foldl (fun s i => s.touchBytes d (at_ i).1 (at_ i).2 0 256) s
  let bytes := (List.range 256).flatMap fun i => s.slotBytes d (at_ i).1 (at_ i).2
  (s.modDie d fun x => { x with sCut := x.sCut.del g, sRsv := mapErase x.sRsv g }, bytes)

/-! ### One operation (R276, R277, R279-R288, R294) -/

/-- Sets the flags of a floating atomic (R284). -/
def State.atomicFlags (s : State) (k : Nat) (f : Flags) : State :=
  let a := memB k + MEM_ATOMIC_FLAGS.off
  s.setReg a (s.reg a ||| BitVec.ofNat 32 f.bits)

/-- Stores bytes at a stack or far-tier address; sectors that the bytes cover whole lose their poison (R294). -/
def State.putMem (s : State) (a : Nat) (bytes : List Byte) : State :=
  let whole := (sectorsOf a bytes.length).filter fun x => decide (a ≤ x * 64) && decide (x * 64 + 64 ≤ a + bytes.length)
  ({ s with mem := writeBytes s.mem a bytes } : State).setPoison whole false

/-- The solver engine that issues a request. -/
def Req.engine (r : Req) : Option Nat :=
  match r.who with
  | .solver e => some e
  | _ => none

/-- The bytes and poison of a read, or the effect of a write or atomic, with no check: what the stack controller
and the far-tier port share (R282, R294, R298). The flags are those of a floating atomic. -/
def State.memEffect (s : State) (r : Req) : State × Reply × Flags :=
  let a := r.addr
  let s := if r.op.writes then s.stir r.engine a r.op.len else s
  match r.op with
  | .read n => (s, ⟨stOK, readBytes s.mem a n, s.poisoned a n⟩, Flags.none)
  | .write d =>
    let s := s.putMem a d
    (if r.poison then s.setPoison (sectorsOf a d.length) true else s, Reply.ok [], Flags.none)
  | .copyData d =>
    let s := s.putMem a d
    (if r.poison then s.setPoison (sectorsOf a d.length) true else s, Reply.ok [], Flags.none)
  | .shardData d =>
    let s := s.putMem a d
    (if r.poison then s.setPoison (sectorsOf a d.length) true else s, Reply.ok [], Flags.none)
  | .atomic aop size64 x =>
    let n := atomicLen aop size64 x
    if s.poisoned a n then (s, ⟨stINTERNAL, if atomicReturns aop then readBytes s.mem a n else [],
      atomicReturns aop⟩, Flags.none)
    else
      let old := readBytes s.mem a n
      let v := atomicNew aop size64 old x
      (s.putMem a v.1, ⟨stOK, if atomicReturns aop then old else [], false⟩, v.2)

/-- R276: the operation lies in one aligned block, or is an atomic of the table on an aligned target. -/
def MemOp.fits (op : MemOp) (a : Nat) : Bool :=
  match op with
  | .atomic aop size64 x => atomicOk aop size64 x a
  | op => decide (1 ≤ op.len) && decide (a % 256 + op.len ≤ 256)

/-- R283: counts an order-sensitive atomic whose granule saw another source since the cut. -/
def State.countAtomic (s : State) (k : Nat) (r : Req) : State :=
  match r.op with
  | .atomic aop _ _ =>
    if orderSensitive aop then
      let g := (r.addr - stackAddr k 0) / 65536
      let src := r.source
      let s := match mapGet? (s.stack k).lastAtomic g with
        | some a => if a = src then s else (s.bump (memB k) MEM_DRIFT_ATOMIC.COUNT).drift k 2
        | none => s
      s.modStack k fun x => { x with lastAtomic := mapPut x.lastAtomic g src }
    else s
  | _ => s

/-- R280: counts an operation that another source's waiting operation contends with. -/
def State.countStore (s : State) (k : Nat) (r : Req) (waiting : List Req) : State :=
  if waiting.any (contends r) then (s.bump (memB k) MEM_DRIFT_STORE.COUNT).drift k 1 else s

/-- The front operation of a pseudo-channel is held for a reserve granule: RESERVE_FULL once for the hold (R288). -/
def State.holdFront (s : State) (k pc : Nat) : State :=
  if (s.stack k).held.contains pc then s
  else (s.modStack k fun x => { x with held := x.held ++ [pc] }).memEvent k MEM_EVENTS.RESERVE_FULL

/-- The hold of a pseudo-channel ends. -/
def State.freeFront (s : State) (k pc : Nat) : State := s.modStack k fun x => { x with held := x.held.filter (· != pc) }

/-- The granules of stack `k` whose writes are held, which readout serves first (R288). -/
def State.heldGranules (s : State) (k : Nat) : List Nat :=
  (s.stack k).held.filterMap fun pc => (mapGet [] (s.stack k).queues pc).head?.map fun r => (r.addr - stackAddr k 0) / 65536

/-- The stack controller of Ck applies one operation, with `waiting` behind it in the pseudo-channel. It answers
none where the write is held for a reserve granule (R288). -/
def State.stackApply (s : State) (k : Nat) (r : Req) (waiting : List Req) : State × Option Reply :=
  let o := r.addr - stackAddr k 0
  if !s.domOn (domM k) || !s.domOn (domC k) then
    (s.logRefused stDENIED 4 (s.dieUnit k) r.place r.job (words64 r.addr), some Reply.denied)
  else if !r.op.fits r.addr || (s.memOpen k && s.inReserve k o) then (s, some Reply.denied)
  else
    let s := s.meetStackUpsets k fun u => (sectorsOf r.addr r.op.len).contains u
    if r.op.writes then
      match s.preserveGranule k (o / 65536) with
      | none => (s.holdFront k (pseudoChannel o), none)
      | some s =>
        let s := ((s.freeFront k (pseudoChannel o)).countStore k r waiting).countAtomic k r
        let e := (s.memMark k o).memEffect r
        (e.1.atomicFlags k e.2.2, some e.2.1)
    else
      let e := s.memEffect r
      (e.1, some e.2.1)

/-! ### The far-tier port (R298, R300) -/

/-- R298: as R283, with the job beside the source, in the drift counter of F. -/
def State.countFarAtomic (s : State) (r : Req) : State :=
  match r.op with
  | .atomic aop _ _ =>
    if orderSensitive aop then
      let g := (r.addr - farAddr 0) / 65536
      let src := r.source
      let s := match mapGet? s.far.lastAtomic g with
        | some (_, a) => if a = src then s else s.drift 14 2
        | none => s
      { s with far := { s.far with lastAtomic := mapPut s.far.lastAtomic g (r.job, src) } }
    else s
  | _ => s

/-- A CXL poison indication of a device in its answer to a read or an atomic that returns a value (R294, R300). -/
def Reply.cxl (rep : Reply) (poison : Bool) : Reply := { rep with poison := rep.poison || (poison && !rep.data.isEmpty) }

/-- The far-tier port applies one operation of device `dev`. -/
def State.farApply (s : State) (dev : Nat) (r : Req) (waiting : List Req) : State × Reply :=
  if !s.domOn domCXL then (s.logRefused stDENIED 11 (s.dieUnit 14) r.place r.job (words64 r.addr), Reply.denied)
  else if !r.op.fits r.addr then (s, Reply.denied)
  else if !s.farServes dev then (s, ⟨stINTERNAL, List.replicate r.op.len 0, true⟩)
  else
    let s := if waiting.any (contends r) then s.drift 14 1 else s
    let e := (s.countFarAtomic r).memEffect r
    (e.1, e.2.1)

/-! ### Closing and ending the cut images (R286, R419, R420, R438) -/

/-- A capture list up to its first empty range. -/
def capList : List (Nat × Nat) → List (Nat × Nat)
  | [] => []
  | (f, n) :: r => if n = 0 then [] else (f, n) :: capList r

def State.memCaps (s : State) (k : Nat) : List (Nat × Nat) :=
  capList ((List.range 32).map fun i => (s.fld (dsqB k + 8 * i) STR_CAP_M_LO.FIRST, s.fld (dsqB k + 8 * i) STR_CAP_M_HI.COUNT))

def State.scrCaps (s : State) (d : Nat) : List (Nat × Nat) :=
  capList ((List.range 32).map fun i => (s.fld (dsqB d + 4 * i) STR_CAP_S.FIRST, s.fld (dsqB d + 4 * i) STR_CAP_S.COUNT))

/-- The cut set of a close: the dirty granules of the capture ranges, or for a bedrock every granule of them. -/
def cutSetOf (dirty : GranSet) (caps : List (Nat × Nat)) (bedrock : Bool) : GranSet :=
  if bedrock then GranSet.every.within caps else dirty.within caps

/-- Logs BUSY for a refused image (R286, R420). -/
def State.imageBusy (s : State) (d source : Nat) : State :=
  s.log { status := stBUSY, cls := 2, source := source, unit := s.dieUnit d, peer := none, job := s.jobOf d, detail := [] }

/-- Mk refuses a new image (R286). -/
def State.memRefuses (s : State) (k : Nat) : Bool := s.memOpen k

/-- The close in Mk (R286, R419); true where an image closed. -/
def State.closeMem (s : State) (k : Nat) (bedrock : Bool) : State × Bool :=
  if s.memRefuses k then ((s.memEvent k MEM_EVENTS.CUT_REFUSED).imageBusy k 4, false)
  else
    let caps := s.memCaps k
    (s.modStack k fun x => { x with cut := cutSetOf x.dirty caps bedrock, dirty := GranSet.none, rsv := [] }, true)

/-- Pairs each cut granule with a reserve granule, both ascending (R420). -/
def assignReserve (gs rs : List Nat) : FMap (Nat × List Nat) := (List.zip gs rs).map fun p => (p.1, p.2, [])

/-- The granules that SCR_RSV_MAP marks, ascending. -/
def State.scrReserve (s : State) (d : Nat) : List Nat :=
  (List.range 480).flatMap fun w =>
    let m := s.fld (scrB d + 4 * w) SCR_RSV_MAP.MAP
    if m = 0 then [] else ((List.range 32).filter (bitOf m)).map fun b => 32 * w + b

/-- The cut set of a close in Sk, ascending. -/
def State.scrCutSet (s : State) (d : Nat) (bedrock : Bool) : List Nat :=
  (cutSetOf (s.die d).sDirty (s.scrCaps d) bedrock).toList scrGranules

/-- Sk refuses a new image: one is open, or the reserve is short (R286, R420). -/
def State.scrRefuses (s : State) (d : Nat) (bedrock : Bool) : Bool :=
  s.scrOpen d || decide ((s.scrReserve d).length < (s.scrCutSet d bedrock).length)

/-- The close in Sk (R420); true where an image closed. -/
def State.closeScr (s : State) (d : Nat) (bedrock : Bool) : State × Bool :=
  let cut := s.scrCutSet d bedrock
  let rsv := s.scrReserve d
  if s.scrRefuses d bedrock then ((s.strEvent d STR_EVENTS.S_REFUSED).imageBusy d 3, false)
  else
    (s.modDie d fun x =>
      { x with sCut := ⟨false, cut⟩, sDirty := GranSet.none, sRsv := assignReserve cut rsv }, true)

/-- Action 3 of R29: where STR_STEP equals STR_DUE both units close an image (R419). -/
def State.closeImages (s : State) (d : Nat) : State :=
  let b := dsqB d
  let due := s.reg64 (b + STR_DUE_LO.off)
  if due = 0 ∨ s.reg64 (b + STR_STEP_LO.off) ≠ due then s
  else
    let bedrock := s.flag b STR_CTRL.BEDROCK
    let m := s.closeMem d bedrock
    let c := m.1.closeScr d bedrock
    if m.2 || c.2 then
      ((c.1.setReg64 (b + STR_DUE_LO.off) 0).setFld b STR_CTRL.BEDROCK 0).strEvent d STR_EVENTS.CLOSED
    else c.1

/-- ABANDON (R438): both images end, their unread granules are dirty again. -/
def State.abandonImages (s : State) (d : Nat) : State :=
  let s := s.modStack d fun x => { x with dirty := x.dirty.join x.cut, cut := GranSet.none, rsv := [] }
  let s := s.modDie d fun x => { x with sDirty := x.sDirty.join x.sCut, sCut := GranSet.none, sRsv := [] }
  s.strEvent d STR_EVENTS.ABANDONED

end Sys2Proof.Machine
end

