-- ==== Sys2Proof/Machine/Access.lean ====
section
/-! DEFINITION. Accesses on their way to a home: the agent's place, channel and security state (R490, R491), the
checks at a home's queue (R493), the pieces of a request within blocks (R276), its home (R274-R277, R297), the
queues it waits in (R279, R298, R352), and accesses that the package's own engines make at once. -/

namespace Sys2Proof.Machine

/-! ### Requests -/

/-- The die an agent sits on; 14 is F (R314, R364). -/
def agentDie : Agent → Nat
  | .host _ _ => 14
  | .core c => 12 + c / 64
  | .tile d _ => d
  | .dieSeq d => d
  | .solver e => 12 + e / 4
  | .copy e => if e < 12 then e else 12 + (e - 12) / 4
  | .pkc => 14
  | .mgt => 14
  | .remote _ => 15

/-- The number of an agent in SRC_UNIT (R319). -/
def agentUnit : Agent → Nat
  | .host fn _ => fn
  | .core c => c % 64
  | .tile _ t => t
  | .solver e => e % 4
  | .copy e => e
  | _ => 0

/-- A request of an agent of this package with its rights (R491), to an address of the own place. -/
def State.reqOf (s : State) (who : Agent) (job addr : Nat) (op : MemOp) : Req :=
  { id := 0, who := who, place := s.place, srcUnit := agentDie who * 1024 + agentUnit who, chan := s.agentChan who, dst := s.place, space := 0, addr := addr, op := op,
    flag := false, fill := false, combine := false, job := job, secure := s.agentSecure who, seq := 0, poison := false,
    land := .none }

/-- The pieces of [a, a + n) within aligned 256-byte blocks, ascending: address, length and offset (R276). -/
def pieces (a n : Nat) : List (Nat × Nat × Nat) := splitAt 256 a n

/-- The part of an operation in a piece. -/
def MemOp.piece (op : MemOp) (ofs len : Nat) : MemOp :=
  match op with
  | .read _ => .read len
  | .write d => .write ((d.drop ofs).take len)
  | .copyData d => .copyData ((d.drop ofs).take len)
  | .shardData d => .shardData ((d.drop ofs).take len)
  | op => op

/-- The pieces of a request; an atomic is one piece. -/
def Req.pieces (r : Req) : List Req :=
  match r.op with
  | .atomic _ _ _ => [r]
  | op => (Machine.pieces r.addr op.len).map fun p => { r with addr := p.1, op := op.piece p.2.2 p.2.1 }

/-- The checks of R493 at the home's queue: partition, and for an access from the own place the rights of its
channel. -/
def State.entryOk (s : State) (r : Req) : Bool :=
  if r.place = s.place then
    s.lets r.grant r.chan r.secure r.addr r.op.len r.op.writes
  else s.partLets false r.addr r.op.len

/-- The access of a request to a scratch window. -/
def windowOf (r : Req) (o : Nat) : WindowAccess :=
  { off := o,
    op := match r.op with
      | .read n => .read n
      | .write d => .write d r.fill r.poison
      | .copyData d => .write d r.fill r.poison
      | .shardData d => .write d r.fill r.poison
      | .atomic _ _ _ => .atomic
    job := BitVec.ofNat 32 r.job, place := r.place }

/-- R275: an access to an unmapped address, which the fabric die logs. -/
def State.unmapped (s : State) (r : Req) : State × Option Reply :=
  (s.logRefused stDENIED 15 (s.dieUnit 14) r.place r.job (words64 r.addr), some Reply.denied)

/-- The map gives a package-local address a home (R274, R297). -/
def State.mapped (s : State) (a : Nat) : Bool :=
  match homeOf a with
  | .far o => (s.farDev o).isSome
  | .control o => (locate o).isSome
  | .unmapped => false
  | _ => true

/-- One operation within a block, applied at its home with the requests that wait behind it; none where the home
holds it (R288). Control space is served by the register blocks (REQUEST_SEND), not here. -/
def State.atHome (s : State) (r : Req) (waiting : List Req) : State × Option Reply :=
  match homeOf r.addr with
  | .stack k _ => s.stackApply k r waiting
  | .scratch d o =>
    let w := s.windowAccess d (windowOf r o) (if r.place = s.place then agentDie r.who else 15)
    (w.1, some w.2)
  | .far o =>
    match s.farDev o with
    | none => s.unmapped r
    | some i =>
      let f := s.farApply i r waiting
      (f.1, some f.2)
  | .control _ => (s, some Reply.denied)
  | .unmapped => s.unmapped r

/-- Two answers of one request: the higher status, the bytes in order. -/
def Reply.join (a b : Reply) : Reply := ⟨max a.status b.status, a.data ++ b.data, a.poison || b.poison⟩

/-- Puts a request at the end of its home's queue. -/
def State.enqueueStack (s : State) (k : Nat) (r : Req) : State :=
  let pc := pseudoChannel (r.addr - stackAddr k 0)
  s.modStack k fun x => { x with queues := mapPut x.queues pc (mapGet [] x.queues pc ++ [r]) }

def State.enqueueFar (s : State) (i : Nat) (r : Req) : State :=
  { s with far := { s.far with queues := mapPut s.far.queues i (mapGet [] s.far.queues i ++ [r]) } }

/-- Applies the operations that reached a pseudo-channel before `r`, oldest first, at most `n` of them and up to one that is
held (R279, R288); their answers leave later. -/
def State.drainStack (k pc : Nat) (r : Req) : Nat → State → State
  | 0, s => s
  | n + 1, s =>
    match mapGet [] (s.stack k).queues pc with
    | [] => s
    | q :: rest =>
      match s.stackApply k q (rest ++ [r]) with
      | (s, none) => s
      | (s, some rep) =>
        State.drainStack k pc r n (s.modStack k fun x =>
          { x with queues := mapPut x.queues pc rest, answers := x.answers ++ [(q, rep)] })

/-- The same for the accesses that wait at a device of the far tier (R298). -/
def State.drainFar (dev : Nat) (r : Req) : Nat → State → State
  | 0, s => s
  | n + 1, s =>
    match mapGet [] s.far.queues dev with
    | [] => s
    | q :: rest =>
      let y := s.farApply dev q (rest ++ [r])
      State.drainFar dev r n { y.1 with far := { y.1.far with queues := mapPut y.1.far.queues dev rest,
                                                              answers := y.1.far.answers ++ [(dev, q, y.2)] } }

/-- What reached the home of a request before it is applied. -/
def State.drainHome (s : State) (r : Req) : State :=
  match homeOf r.addr with
  | .stack k o => State.drainStack k (pseudoChannel o) r (mapGet [] (s.stack k).queues (pseudoChannel o)).length s
  | .far o =>
    match s.farDev o with
    | some i => State.drainFar i r (mapGet [] s.far.queues i).length s
    | none => s
  | _ => s

/-- One piece of a request of an engine at its home, behind what reached the home before it: what R288 holds there a write
waits behind, and a read passes (DESIGN CHOICE, log entry 41). -/
def State.directPiece (s : State) (p : Req) : State × Reply :=
  if !s.mapped p.addr then ((s.unmapped p).1, Reply.denied)
  else if !s.entryOk p then (s, Reply.denied)
  else
    let s := s.drainHome p
    match homeOf p.addr with
    | .stack k o =>
      if p.op.writes ∧ mapGet [] (s.stack k).queues (pseudoChannel o) ≠ [] then (s.enqueueStack k p, Reply.ok [])
      else
        match s.stackApply k p [] with
        | (s, some a) => (s, a)
        | (s, none) => (s.enqueueStack k p, Reply.ok [])
    | _ =>
      match s.atHome p [] with
      | (s, some a) => (s, a)
      | (s, none) => (s, Reply.ok [])

/-- A request of an engine of the package served at once, piece by piece, behind what reached its homes before it (R279, R298,
R352; the engine's own timing is not modelled). -/
def State.direct (s : State) (r : Req) : State × Reply :=
  r.pieces.foldl (fun (x : State × Reply) p =>
    let y := x.1.directPiece p
    (y.1, x.2.join y.2)) (s, Reply.ok [])

/-! ### Queues (R279, R298, R344, R352) -/

/-- Numbers a request. -/
def State.number (s : State) (r : Req) : State × Req :=
  let n := s.fabric.nextReq
  ({ s with fabric := { s.fabric with nextReq := n + 1 } }, { r with id := n })

/-- A request for the fabric die: to another place, or to control space of the own place. -/
def State.enqueueFabric (s : State) (r : Req) : State :=
  { s with fabric := { s.fabric with reqQ := s.fabric.reqQ ++ [r] } }

/-- Every request that waits at a home of this package. -/
def State.waitingReqs (s : State) : List Req :=
  (s.stackMap.flatMap fun e => e.2.queues.flatMap fun q => q.2) ++ (s.far.queues.flatMap fun q => q.2)

/-- A write of the own place issued before request `n` waits at a home (R351, R352). -/
def State.earlierWrites (s : State) (n : Nat) : Bool :=
  (s.waitingReqs ++ s.fabric.held ++ s.fabric.reqQ).any fun q =>
    q.place == s.place && q.dst == s.place && q.op.writes && decide (q.id < n)

/-- An earlier request of the same agent to the same block is held (R350, R352). -/
def State.heldBefore (s : State) (r : Req) : Bool :=
  s.fabric.held.any fun q =>
    q.place == r.place && q.srcUnit == r.srcUnit && q.addr / 256 == r.addr / 256 && decide (q.id < r.id)

/-- A request of the own place, within a block and numbered, enters its home's queue (R493) or is answered at once:
a refusal, or a scratch access. A flagged one waits while an earlier write is not yet applied (R351, R352), and one to
the block of a held request of its agent waits behind that (R350). -/
def State.submit (s : State) (r : Req) : State × Option Reply :=
  if !s.mapped r.addr then s.unmapped r
  else if !s.entryOk r then (s, some Reply.denied)
  else if r.flag && s.earlierWrites r.id then
    ({ s with fabric := { s.fabric with held := s.fabric.held ++ [r] } }.bump rmtB RMT_FLAG_HELD.COUNT, none)
  else if s.heldBefore r then ({ s with fabric := { s.fabric with held := s.fabric.held ++ [r] } }, none)
  else
    match homeOf r.addr with
    | .stack k _ => (s.enqueueStack k r, none)
    | .far o =>
      match s.farDev o with
      | none => s.unmapped r
      | some i => (s.enqueueFar i r, none)
    | .control _ => (s.enqueueFabric r, none)
    | _ => s.atHome r []

/-! ### Global addresses (R315) -/

/-- R493: the source checks the rights of an access before it leaves for another place; R491 windows hold in every place. -/
def State.leaves (s : State) (r : Req) : Bool := s.rightsIn r.grant r.chan r.addr r.op.len r.op.writes

/-- Statuses that the home of another place may answer a read with (R347, R355). -/
def remoteStatuses : List Nat := [stOK, stDENIED, stBAD_UNIT, stINTERNAL, stMEMBER_LOST]

/-- What another place answers to a read of `n` bytes: status, bytes and poison are free, since no state of this package holds
them (log entry 41). -/
def freeReply (k n : Nat) : Reply :=
  let st := nthD stOK remoteStatuses (Config.freeBits k 3 % 5)
  ⟨st, if st = stOK then Config.freeBytes (k + 1) n else [], Config.freeBits k 4 / 8 == 1⟩

/-- Sends the READ_REQs of a read at another place, each within 4,096 bytes (R342, R343), whose answers a free reply stands
for. -/
def State.askRemote (s : State) (r : Req) (a n : Nat) : State :=
  (splitAt 4096 a n).foldl (fun s p =>
    let m := s.number { r with addr := p.1, op := .read p.2.1 }
    m.1.enqueueFabric m.2) s

/-- Bytes at a global address, read at once under the rights of `r`. A reserved space, and control space, answer DENIED
(R315), and a place that no path leads to MEMBER_LOST (R355). -/
def State.readWith (s : State) (r : Req) (ga n : Nat) : State × Reply :=
  if gaSpace ga ≠ 0 ∨ !s.placeOk (gaPlace ga) then (s, Reply.denied)
  else if gaPlace ga = s.place then s.direct { r with addr := gaLocal ga, op := .read n }
  else if !s.leaves { r with addr := gaLocal ga, op := .read n } then (s, Reply.denied)
  else if s.fabric.unreachable.contains (gaPlace ga) then (s, ⟨stMEMBER_LOST, [], false⟩)
  else
    let d := s.draw
    let e := d.2.draw
    (e.2.askRemote { r with dst := gaPlace ga, land := .none } (gaLocal ga) n, freeReply d.1 n)

/-- Bytes at a global address as an engine of the package reads them. -/
def State.readGlobal (s : State) (who : Agent) (job ga n : Nat) : State × Reply :=
  s.readWith (s.reqOf who job 0 (.read n)) ga n

/-- A channel of the secure state (R449). -/
def secureChan (n : Nat) : Bool := n == 0x10 || (decide (0x100 ≤ n) && decide (n < 0x180))

/-- A request of the package controller for a command, with the security state of its channel and the rights at its
acknowledgement (R447, R466). -/
def State.cmdReq (s : State) (h : CmdHdr) (addr : Nat) (op : MemOp) : Req :=
  { s.reqOf .pkc h.job.toNat addr op with chan := some h.chan, secure := secureChan h.chan, grant := h.grant }

/-- Bytes at a global address that a command names (R447, R119). -/
def State.readFor (s : State) (h : CmdHdr) (ga n : Nat) : State × Reply := s.readWith (s.cmdReq h 0 (.read n)) ga n

/-- A write at a global address with the rights of `r`: at once at the own place, as requests of R344 to another. -/
def State.writeWith (s : State) (r : Req) (ga : Nat) : State × Reply :=
  let r := { r with addr := gaLocal ga, dst := gaPlace ga }
  if gaSpace ga ≠ 0 ∨ !s.placeOk (gaPlace ga) then (s, Reply.denied)
  else if gaPlace ga = s.place then s.direct r
  else if !s.leaves r then (s, Reply.denied)
  else if s.fabric.unreachable.contains (gaPlace ga) then (s, ⟨stMEMBER_LOST, [], false⟩)
  else (r.pieces.foldl (fun s p => let n := s.number p; n.1.enqueueFabric n.2) s, Reply.ok [])

/-- A write of an engine to a global address. -/
def State.writeGlobal (s : State) (who : Agent) (job ga : Nat) (data : List Byte) (fill : Bool) : State × Reply :=
  s.writeWith { s.reqOf who job 0 (.write data) with fill := fill } ga

end Sys2Proof.Machine
end

