-- ==== Sys2Proof/Machine/CounterSets.lean ====
section
/-! DEFINITION. The counter sets of COUNTERS_READ: the counters of each die in the order of a reply (R559), and the sums
over members (R560). The order within a reply is the model's (DESIGN CHOICE, log entry 6). -/

namespace Sys2Proof.Machine

/-- A counter: its number within its set, the control-space offset of its register, and whether it has 64 bits. -/
structure CounterReg where
  name : Nat
  off : Nat
  wide : Bool
  deriving DecidableEq, Repr

/-- Counters of 32 bits at consecutive names. -/
def counters32 (first : Nat) (offs : List Nat) : List CounterReg :=
  (List.zip (List.range offs.length) offs).map fun e => ⟨first + e.1, e.2, false⟩

/-- The drift counters of a die, 14 for F. -/
def driftRegs (d : Nat) : List Nat := (List.range 8).map fun i => drfB d + 4 * i

/-- The counters of a set on compute die `d`. -/
def computeCounters (set d : Nat) : List CounterReg :=
  match set with
  | 0 => counters32 0 (driftRegs d)
  | 1 => counters32 0 [scrB d + SCR_CE_COUNT.off, scrB d + SCR_UE_COUNT.off, memB d + MEM_CE_COUNT.off, memB d + MEM_UE_COUNT.off]
  | 3 => counters32 7 [cpeB d + CPE_DONE.off]
  | 5 => ⟨0, dsqB d + DSQ_STEP_CYCLES_LO.off, true⟩ :: counters32 1
      [dsqB d + DSQ_HOLD_CYCLES.off, dsqB d + DSQ_TAGWAIT_COUNT.off, dsqB d + TNM_REFIRE_COUNT.off]
  | 6 => counters32 2 [clkB d + CLK_STRETCH_GRAINS.off, clkB d + CLK_SENSE.off]
  | _ => []

/-- The counters of a set on processor die `d`, 12 or 13. -/
def procCounters (set d : Nat) : List CounterReg :=
  let p := d - 12
  match set with
  | 0 => counters32 0 (driftRegs d)
  | 1 => (List.range' (64 * p) 64).map fun c => ⟨4, cpcB c + CPC_CACHE_ERR.off, false⟩
  | 3 => (List.range' (12 + 4 * p) 4).map fun e => ⟨7, cpeB e + CPE_DONE.off, false⟩
  | 5 => (List.range' (4 * p) 4).flatMap fun e => counters32 4 [slvB e + SLV_BATCHES.off, slvB e + SLV_MISS_COUNT.off]
  | 6 => counters32 2 [clkB d + CLK_STRETCH_GRAINS.off, clkB d + CLK_SENSE.off]
  | _ => []

/-- The counters of a set on the fabric die. -/
def fabricCounters (set : Nat) : List CounterReg :=
  let ports := fun (first : Nat) (os : List Nat) => (List.range 36).flatMap fun p => counters32 first (os.map fun o => prtB p + o)
  match set with
  | 0 => counters32 0 (driftRegs 14)
  | 1 => ports 5 [PRT_FEC_CE.off, PRT_FEC_UE.off] ++ counters32 7
      [hstB + HST_UR_COUNT.off, hstB + HST_CA_COUNT.off, hstB + HST_POISON_COUNT.off, ftB + FT_BAD_RSP.off]
  | 2 => counters32 0 [glpB + GLP_CONG.off, glpB + GLP_DIVERT_NODE.off, glpB + GLP_DIVERT_GROUP.off, glpB + GLP_DIVERT_SYSTEM.off,
      glpB + GLP_FORCED.off, glpB + GLP_UNREACH.off] ++ ports 6 [PRT_RETRY.off, PRT_MALFORMED.off]
  | 3 => counters32 0 [rmtB + RMT_DUP.off, rmtB + RMT_WINDOW_DROP.off, rmtB + RMT_RESENT.off, rmtB + RMT_FLAG_HELD.off,
      rmtB + RMT_COMBINED.off, rmtB + RMT_COMBINE_FLOAT.off, rmtB + RMT_STORE_USED.off]
  | 4 => counters32 0 [colB + COL_CALLS.off, colB + COL_MISMATCH_COUNT.off, colB + COL_LOST.off, colB + COL_REATTACH.off,
      colB + COL_ARRIVAL_FOLDS.off, colB + COL_LATE.off]
  | 6 => counters32 0 [pwrB + PWR_NOW.off, pwrB + PWR_PERIOD.off]
  | _ => []

/-- The counters of a set on die `d` of a package, 14 for F. -/
def dieCounters (set d : Nat) : List CounterReg :=
  if d < 12 then computeCounters set d else if d < 14 then procCounters set d else if d = 14 then fabricCounters set else []

/-! ### Sums over members (R560) -/

/-- What is known of one counter name: sum, largest value, its unit, and whether a 32-bit source is saturated. -/
structure CounterSum where
  sum : Nat
  most : Nat
  unit : Nat
  full : Bool
  deriving DecidableEq, Repr

/-- One more value of a name; the first of equal values names the unit. -/
def CounterSum.add (c : Option CounterSum) (unit v : Nat) (wide : Bool) : CounterSum :=
  let full := !wide && v == 0xFFFFFFFF
  match c with
  | none => ⟨v, v, unit, full⟩
  | some c => ⟨c.sum + v, max c.most v, if c.most < v then unit else c.unit, c.full || full⟩

/-- Pairs (unit, value) of a reply. -/
def unitPairs : List Word64 → List (Nat × Nat)
  | u :: v :: r => (u.toNat, v.toNat) :: unitPairs r
  | _ => []

/-- Gathers pairs by name: the i-th pair of a unit is the i-th counter of its die. -/
def gatherPairs (set : Nat) (ps : List (Nat × Nat)) : FMap CounterSum :=
  (ps.foldl (fun (x : FMap CounterSum × FMap Nat) p =>
    let i := mapGet 0 x.2 p.1
    let seen := mapPut x.2 p.1 (i + 1)
    match (dieCounters set (unitDie p.1))[i]? with
    | none => (x.1, seen)
    | some r => (mapPut x.1 r.name (CounterSum.add (mapGet? x.1 r.name) p.1 p.2 r.wide), seen)) ([], [])).1

/-- The 64-bit sum of R560: saturating, with bit 63 set where a 32-bit source is saturated. -/
def CounterSum.word (c : CounterSum) : Nat :=
  if 2 ^ 64 ≤ c.sum then 2 ^ 64 - 1 else if c.full then c.sum % 2 ^ 63 + 2 ^ 63 else c.sum

/-- The parameters of the merged reply: for each counter name its sum, its largest value and the unit that holds it. -/
def mergedCounters (set : Nat) (ws : List Word64) : List Word64 :=
  (gatherPairs set (unitPairs ws)).flatMap fun e =>
    [BitVec.ofNat 64 e.2.word, BitVec.ofNat 64 e.2.most, BitVec.ofNat 64 e.2.unit]

end Sys2Proof.Machine
end

