-- ==== Sys2Proof/Machine/Crypto.lean ====
section
/-! DEFINITION. The published functions the spec names: SHAKE256, KMAC256, CRC-32C and Ed448 of RFC 8032
(R57, R307, R446, R463, R475, R487). -/

namespace Sys2Proof.Machine

/-! ### Keccak-f[1600]

The 1,600 bits are one number: plane `y` is bits [320y + 319..320y], and lane (x, y) is bits [64x + 63..64x] of it, so
that the bytes of a block and of an output stand in the number as they stand in the message. -/

/-- Plane `y`. -/
def planeOf (a y : Nat) : Nat := a / 2 ^ (320 * y) % 2 ^ 320

/-- The state with given planes. -/
def ofPlanes (f : Nat → Nat) : Nat := (List.range 5).foldr (fun y s => f y + 2 ^ 320 * s) 0

/-- Lane (x, y), coordinates modulo 5. -/
def laneAt (a x y : Nat) : Nat := a / 2 ^ (320 * (y % 5) + 64 * (x % 5)) % 2 ^ 64

/-- A lane turned by `k` bits towards the high end. -/
def turnLane (v k : Nat) : Nat := v * 2 ^ k % 2 ^ 64 + v / 2 ^ (64 - k)

/-- A plane with every lane moved `k` places towards x = 0. -/
def turnPlane (p k : Nat) : Nat := p / 2 ^ (64 * k) + p % 2 ^ (64 * k) * 2 ^ (320 - 64 * k)

/-- The plane whose lane x is `f x`. -/
def planeFrom (f : Nat → Nat) : Nat := (List.range 5).foldr (fun x s => f x + 2 ^ 64 * s) 0

/-- Theta: each bit takes the parities of the column before it and of the column behind it, one bit lower. -/
def keccakTheta (a : Nat) : Nat :=
  let parity := (List.range 5).foldl (fun p y => Nat.xor p (planeOf a y)) 0
  let ahead := planeFrom fun x => turnLane (laneAt parity (x + 1) 0) 1
  let mask := Nat.xor (turnPlane parity 4) ahead
  ofPlanes fun y => Nat.xor (planeOf a y) mask

/-- The walk of rho from (1, 0): the offset of each lane that it meets, by 5y + x; lane (0, 0) is not met. -/
def rhoWalk : Nat → Nat → Nat → FMap Nat
  | 0, _, _ => []
  | n + 1, x, y => (5 * y + x, (24 - n) * (25 - n) / 2 % 64) :: rhoWalk n y ((2 * x + 3 * y) % 5)

/-- Rho and pi: the lane (x + 3y, x), turned by its offset, stands at (x, y). -/
def keccakRhoPi (a : Nat) : Nat :=
  let turns := rhoWalk 24 1 0
  ofPlanes fun y => planeFrom fun x =>
    turnLane (laneAt a (x + 3 * y) x) (mapGet 0 turns (5 * x + (x + 3 * y) % 5))

/-- Chi: within each plane. -/
def keccakChi (a : Nat) : Nat :=
  ofPlanes fun y =>
    let p := planeOf a y
    Nat.xor p (Nat.land (2 ^ 320 - 1 - turnPlane p 1) (turnPlane p 2))

/-- The register that feeds iota, one step on. -/
def iotaStep (r : Nat) : Nat := if r < 128 then 2 * r else Nat.xor (2 * r) 0x171

/-- The register after `n` steps from 1. -/
def iotaReg : Nat → Nat
  | 0 => 1
  | n + 1 => iotaStep (iotaReg n)

/-- The constant of round `i`: bit 2^j − 1 is the register's low bit after 7i + j steps. -/
def roundConst (i : Nat) : Nat :=
  (List.range 7).foldl (fun c j => c + iotaReg (7 * i + j) % 2 * 2 ^ (2 ^ j - 1)) 0

/-- The permutation: 24 rounds, the constant added to lane (0, 0). -/
def keccak (a : Nat) : Nat :=
  (List.range 24).foldl (fun a i => Nat.xor (keccakChi (keccakRhoPi (keccakTheta a))) (roundConst i)) a

/-- The message as blocks of the 136-byte rate: its bytes, the suffix bits at once behind them, zeros, and the last
bit of the last block. -/
def rateBlocks (suffix : Nat) (m : List Byte) : List Nat :=
  let k := m.length / 136 + 1
  let x := leNat m + suffix * 2 ^ (8 * m.length) + 2 ^ (1088 * k - 1)
  (List.range k).map fun i => x / 2 ^ (1088 * i) % 2 ^ 1088

/-- Output of `n` blocks from a state. -/
def spongeOut : Nat → Nat → List Byte
  | 0, _ => []
  | n + 1, a => toBytes a 136 ++ spongeOut n (keccak a)

/-- The first `n` bytes of the sponge of a message with a domain suffix. -/
def sponge (suffix : Nat) (m : List Byte) (n : Nat) : List Byte :=
  (spongeOut (n / 136 + 1) ((rateBlocks suffix m).foldl (fun a b => keccak (Nat.xor a b)) 0)).take n

/-- The first `n` bytes of SHAKE256. -/
def shake256 (m : List Byte) (n : Nat) : List Byte := sponge 0x1F m n

/-- The bytes of an ASCII string. -/
def ascii (t : String) : List Byte := t.toList.map fun c => BitVec.ofNat 8 c.toNat

/-! ### KMAC256 (NIST SP 800-185) -/

/-- Big-endian bytes of a number below 2^24, without leading zeros. -/
def beShort (x : Nat) : List Byte :=
  if x < 256 then [BitVec.ofNat 8 x]
  else if x < 65536 then [BitVec.ofNat 8 (x / 256), BitVec.ofNat 8 x]
  else [BitVec.ofNat 8 (x / 65536), BitVec.ofNat 8 (x / 256), BitVec.ofNat 8 x]

def leftEncode (x : Nat) : List Byte := let b := beShort x; BitVec.ofNat 8 b.length :: b
def rightEncode (x : Nat) : List Byte := let b := beShort x; b ++ [BitVec.ofNat 8 b.length]
def encodeString (m : List Byte) : List Byte := leftEncode (8 * m.length) ++ m
def bytepad (m : List Byte) : List Byte :=
  let x := leftEncode 136 ++ m
  x ++ List.replicate ((136 - x.length % 136) % 136) 0

/-- KMAC256 with `n` output bytes and customisation `c`. -/
def kmac256 (key m : List Byte) (n : Nat) (c : String) : List Byte :=
  sponge 0x04 (bytepad (encodeString (ascii "KMAC") ++ encodeString (ascii c)) ++ bytepad (encodeString key) ++ m ++
    rightEncode (8 * n)) n

/-! ### CRC-32C -/

def crcBits (c : Nat) : Nat → Nat
  | 0 => c
  | k + 1 => crcBits (if c % 2 = 1 then Nat.xor (c / 2) 0x82F63B78 else c / 2) k

/-- CRC-32C (Castagnoli, reflected) of bytes. -/
def crc32c (m : List Byte) : Nat :=
  Nat.xor (m.foldl (fun c b => crcBits (Nat.xor c b.toNat) 8) 0xFFFFFFFF) 0xFFFFFFFF

/-! ### Ed448 (RFC 8032, no context) -/

def edP : Nat := 2 ^ 448 - 2 ^ 224 - 1
def edL : Nat := 2 ^ 446 - 13818066809895115352007386748515426880336692474882178609894547503885
def edD : Nat := edP - 39081
def edBx : Nat :=
  0x4F1970C66BED0DED221D15A622BF36DA9E146570470F1767EA6DE324A3D3A46412AE1AF72AB66511433B80E18B00938E2626A82BC70CC05E
def edBy : Nat :=
  0x693F46716EB6BC248876203756C9C7624BEA73736CA3984087789C1E05A0C2D73AD3FF1CE67C39C4FDBD132C4ED7C8AD9808795BF230FA14

/-- b^e mod p by `k` bits of the exponent. -/
def powMod (b e : Nat) : Nat → Nat
  | 0 => 1
  | k + 1 =>
    let h := powMod (b * b % edP) (e / 2) k
    if e % 2 = 1 then b * h % edP else h

def edInv (x : Nat) : Nat := powMod x (edP - 2) 448

/-- A projective point (X : Y : Z). -/
structure EdPt where
  x : Nat
  y : Nat
  z : Nat
  deriving DecidableEq, Repr

def edZero : EdPt := ⟨0, 1, 1⟩
def edBase : EdPt := ⟨edBx, edBy, 1⟩

/-- Point addition (complete, RFC 8032 section 5.2.4). -/
def edAdd (p q : EdPt) : EdPt :=
  let a := p.z * q.z % edP
  let b := a * a % edP
  let c := p.x * q.x % edP
  let d := p.y * q.y % edP
  let e := edD * c % edP * d % edP
  let f := (b + edP - e) % edP
  let g := (b + e) % edP
  let h := (p.x + p.y) * (q.x + q.y) % edP
  ⟨a * f % edP * ((h + 2 * edP - c - d) % edP) % edP, a * g % edP * ((d + edP - c) % edP) % edP, f * g % edP⟩

/-- Scalar multiple by `k` bits. -/
def edMul (p : EdPt) (n : Nat) : Nat → EdPt
  | 0 => edZero
  | k + 1 =>
    let h := edMul (edAdd p p) (n / 2) k
    if n % 2 = 1 then edAdd p h else h

def edEq (p q : EdPt) : Bool := p.x * q.z % edP == q.x * p.z % edP && p.y * q.z % edP == q.y * p.z % edP

def edEncode (p : EdPt) : List Byte :=
  let zi := edInv p.z
  let x := p.x * zi % edP
  let y := p.y * zi % edP
  toBytes y 56 ++ [BitVec.ofNat 8 (x % 2 * 128)]

/-- Decodes 57 bytes, none off the curve. -/
def edDecode (b : List Byte) : Option EdPt :=
  if b.length ≠ 57 then none
  else
    let n := leNat b
    let sign := n / 2 ^ 455 % 2
    let y := n % 2 ^ 455
    if edP ≤ y then none
    else
      let u := (y * y + edP - 1) % edP
      let v := (edD * (y * y % edP) + edP - 1) % edP
      -- x = u^3 v (u^5 v^3)^((p-3)/4)
      let u3 := u * u % edP * u % edP
      let v3 := v * v % edP * v % edP
      let x := u3 * v % edP * powMod (u3 * u % edP * u % edP * v3 % edP) ((edP - 3) / 4) 448 % edP
      if v * (x * x % edP) % edP ≠ u then none
      else if x = 0 ∧ sign = 1 then none
      else some ⟨if x % 2 = sign then x else edP - x, y, 1⟩

def edDom : List Byte := ascii "SigEd448" ++ [0, 0]

/-- The clamped scalar and prefix of a 57-byte secret. -/
def edSecret (sk : List Byte) : Nat × List Byte :=
  let h := shake256 sk 114
  let a := leNat (h.take 57)
  let a := a % 2 ^ 447 / 4 * 4 + 2 ^ 447
  (a, h.drop 57)

/-- The public key of a secret. -/
def edPublic (sk : List Byte) : List Byte := edEncode (edMul edBase (edSecret sk).1 448)

/-- The 114-byte signature of a message. -/
def edSign (sk m : List Byte) : List Byte :=
  let s := edSecret sk
  let pub := edPublic sk
  let r := leNat (shake256 (edDom ++ s.2 ++ m) 114) % edL
  let rb := edEncode (edMul edBase r 448)
  let k := leNat (shake256 (edDom ++ rb ++ pub ++ m) 114) % edL
  rb ++ toBytes ((r + k * s.1) % edL) 57

/-- Verifies a 114-byte signature. -/
def edVerify (pub m sig : List Byte) : Bool :=
  if sig.length ≠ 114 then false
  else
    let sv := leNat (sig.drop 57)
    match edDecode pub, edDecode (sig.take 57) with
    | some a, some r =>
      if edL ≤ sv then false
      else
        let k := leNat (shake256 (edDom ++ sig.take 57 ++ pub ++ m) 114) % edL
        edEq (edMul (edMul edBase sv 448) 4 3) (edMul (edAdd r (edMul a k 448)) 4 3)
    | _, _ => false

end Sys2Proof.Machine
end

