-- ==== Sys2Proof/Machine/Mailbox.lean ====
section
/-! DEFINITION. Mailbox channels and command packets (chapter 18): queues, acknowledgements, replies and sessions
(R446-R466), the opcode table and the checks of a packet (R454, R471), TC7 frames (R467, R487, R488) and the one
reply of a command (R18-R23). -/

namespace Sys2Proof.Machine

/-! ### Packets of the fabric (R319) -/

/-- The header words of a packet; `still` zeroes HOPS, DETOUR and VIA_PLACE as R487 signs them. -/
def packetHead (p : Packet) (still : Bool) : List Word :=
  let hops := if still then 0 else p.hops
  let det := if still then 0 else bit1 p.detour
  let via := if still then 0 else p.via
  [ BitVec.ofNat 32 (p.tc * 2 ^ 29 + hops * 2 ^ 25 + det * 2 ^ 24 + bit1 p.member * 2 ^ 23 + p.kind * 2 ^ 15 + p.length),
    BitVec.ofNat 32 (p.dst * 2 ^ 17 + p.src * 4),
    BitVec.ofNat 32 (via * 2 ^ 17 + p.epoch * 2 ^ 9),
    BitVec.ofNat 32 (p.seq * 2 ^ 16 + p.srcDie * 2 ^ 12 + p.srcUnit * 4),
    p.job,
    BitVec.ofNat 32 (p.space * 2 ^ 28 + p.addr / 2 ^ 32 % 8192),
    BitVec.ofNat 32 p.addr,
    p.word7 ]

/-- The SEQ of the next packet to a destination (R343). -/
def State.takeSeq (s : State) (dst : Nat) : Nat × State :=
  let n := mapGet 0 s.fabric.seqNext dst
  (n, { s with fabric := { s.fabric with seqNext := mapPut s.fabric.seqNext dst ((n + 1) % 65536) } })

/-- Hands a packet to the router (R321). -/
def State.inject (s : State) (p : Packet) : State := { s with fabric := { s.fabric with inject := s.fabric.inject ++ [p] } }

def State.epoch (s : State) : Nat := s.fld glpB GLP_EPOCH.EPOCH

/-! ### TC7 frames (R467, R468, R487, R488) -/

def slotMAC : Nat := 3

/-- The key of the lowest-numbered MAC slot with TX (R487). -/
def State.txKey (s : State) : Option (List Byte) :=
  (s.sec.slots.find? fun e => e.2.ty == slotMAC && e.2.tx).map fun e => e.2.key.take 32

/-- TB_STATUS.STATE: 0 FREE, 1 ACQUIRING, 2 LOCKED, 3 HOLDOVER. -/
def State.tbState (s : State) : Nat := s.fld tbB TB_STATUS.STATE

/-- No try matched: the package runs without an identity (R477). -/
def State.pufFail (s : State) : Bool := s.fld secB SEC_STATUS.PUF == 2

/-- The identity public key; free bytes in a package without an identity (R477). -/
def State.identityKey (s : State) : List Byte :=
  if s.pufFail then (List.range 57).map Config.noIdentity else edPublic s.sec.identitySecret

/-- What stops this package from sending a TC7 frame (R477, R487, R488); OK where nothing does. -/
def State.mgmtStatus (s : State) : Nat :=
  if s.tbState < 2 then stBUSY else if s.txKey.isNone then stDENIED else if s.pufFail then stINTERNAL else stOK

def frameTag (key : List Byte) (p : Packet) (payload : List Byte) : List Byte :=
  kmac256 key (wordBytes (packetHead p true) ++ payload) 16 "TQZ-TC7"

/-- Sends a TC7 frame where R487 and R488 let it. -/
def State.sendMgmt (s : State) (kind dst : Nat) (job : Word) (space addr : Nat) (word7 : Word) (body : List Byte) : State :=
  match s.txKey with
  | none => s
  | some key =>
    if s.tbState < 2 ∨ s.pufFail then s
    else
      let q := s.takeSeq dst
      let payload := toBytes s.now 8 ++ body
      let p : Packet :=
        { tc := 7, hops := 0, detour := false, member := false, kind := kind, length := payload.length + 16, dst := dst,
          src := s.place, via := 0, epoch := s.epoch, seq := q.1, srcDie := 14, srcUnit := 0, job := job, space := space,
          addr := addr, word7 := word7, payload := [], rsv := false }
      q.2.inject { p with payload := payload ++ frameTag key p payload }

/-- R488: a received frame's tag verifies under a MAC slot and its grain lies near the own counter. -/
def State.frameOk (s : State) (p : Packet) : Bool :=
  let n := p.payload.length - 16
  let payload := p.payload.take n
  let grain := leNat (p.payload.take 8)
  decide (24 ≤ p.payload.length) && decide (2 ≤ s.tbState) && !s.pufFail &&
    decide (grain ≤ s.now + 200000) && decide (s.now ≤ grain + 200000) &&
    s.sec.slots.any fun e => e.2.ty == slotMAC && frameTag (e.2.key.take 32) p payload == p.payload.drop n

/-- The body of a frame, between its grain and its tag. -/
def frameBody (p : Packet) : List Byte := (p.payload.take (p.payload.length - 16)).drop 8

/-! ### Headers (R446) -/

def flagINDIRECT : Nat := 0x8000
def flagEARLY : Nat := 0x4000
def flagMEMBER : Nat := 0x2000
def flagREPLY : Nat := 0x0100

/-- A header of R446 with its CRC. -/
def cmdHead (opcode flags : Nat) (seq target : Word) (plen chan grain status : Nat) : List Word :=
  let ws : List Word :=
    [ BitVec.ofNat 32 (opcode * 2 ^ 16 + flags + 1), seq, target, BitVec.ofNat 32 (plen * 2 ^ 16 + chan),
      BitVec.ofNat 32 grain, BitVec.ofNat 32 (grain / 2 ^ 32), BitVec.ofNat 32 (status * 2 ^ 16) ]
  ws ++ [BitVec.ofNat 32 (crc32c (wordBytes ws))]

/-- Pairs of 32-bit words as 64-bit words (R3). -/
def pairWords : List Word → List Word64
  | [] => []
  | [a] => [BitVec.ofNat 64 a.toNat]
  | a :: b :: r => BitVec.ofNat 64 (a.toNat + b.toNat * 2 ^ 32) :: pairWords r

/-- The 32-bit words of 64-bit words. -/
def splitWords (ws : List Word64) : List Word := ws.flatMap fun w => words64 w.toNat

/-- Bytes as 64-bit words, padded with zero. -/
def bytesToWords64 (bs : List Byte) : List Word64 := (chunksOf 8 (bs.length + 1) bs).map fun c => BitVec.ofNat 64 (leNat c)

/-! ### Replies (R456, R457) -/

/-- Queues the words of one reply; words beyond the queue's eight wait with the controller (R456). -/
def State.pushReply (s : State) (n : Nat) (ws : List Word64) (seq : Word) (final : Bool) : State :=
  (s.modChan n fun x => { x with rspQ := x.rspQ ++ ws, replies := x.replies ++ [(ws.length, seq, final)] }).ring n 0

/-- Parameters longer than 60 words spill where the buffer is large enough (R457). -/
def State.spills (s : State) (n : Nat) (ps : List Word64) : Bool :=
  decide (60 < ps.length) && decide (8 * ps.length ≤ s.fld (chB n) CH_SPILL_SIZE.PAGES * 4096)

/-- The packet names the spill buffer's address where the write was done. -/
def spillTo (addr : Nat) (w : State × Reply) : State × Option Word64 :=
  (w.1, if w.2.status = stOK then some (BitVec.ofNat 64 addr) else none)

/-- Parameters that spill go to the buffer, and the packet names its address (R457). -/
def State.spill (s : State) (n : Nat) (ps : List Word64) : State × Option Word64 :=
  match s.spills n ps with
  | true =>
    let addr := s.reg64 (chB n + CH_SPILL_LO.off)
    spillTo addr (s.writeGlobal .pkc 0 addr (word64Bytes ps) false)
  | false => (s, none)

/-- Sends a reply to a command's channel. -/
def State.reply (s : State) (h : CmdHdr) (opcode status : Nat) (ps : List Word64) (completion : Nat) (interim : Bool) :
    State :=
  let sp := s.spill h.chan ps
  let flags := flagREPLY + (if interim then flagEARLY else 0) + (if sp.2.isSome then flagINDIRECT else 0)
  let head := cmdHead opcode flags h.seq h.target ps.length h.chan completion status
  let body := match sp.2 with
    | some a => [a]
    | none => ps
  sp.1.pushReply h.chan (pairWords head ++ body) h.seq (!interim)

/-! ### Running commands and their one reply (R18-R23) -/

/-- An entry of a member list (R21): unit address and status. -/
def memberEntry (e : Nat × Nat) : Word64 := BitVec.ofNat 64 (e.1 * 2 ^ 32 + e.2 * 2 ^ 16)

/-- Lists a command as running with its awaited parts. -/
def State.openCmd (s : State) (r : FwdX) : State := { s with pkc := { s.pkc with forwards := s.pkc.forwards ++ [r] } }

def sameCmd (h : CmdHdr) (opcode : Nat) (r : FwdX) : Bool := decide (r.hdr = h) && r.opcode == opcode

/-- The record of a running command. -/
def State.cmdRec (s : State) (h : CmdHdr) (opcode : Nat) : Option FwdX := s.pkc.forwards.find? (sameCmd h opcode)

/-- Removes the first record that satisfies `p`. -/
def dropFirst {α : Type} (p : α → Bool) : List α → List α
  | [] => []
  | x :: r => if p x then r else x :: dropFirst p r

def State.closeCmd (s : State) (h : CmdHdr) (opcode : Nat) : State :=
  { s with pkc := { s.pkc with forwards := dropFirst (sameCmd h opcode) s.pkc.forwards } }

def State.setCmd (s : State) (h : CmdHdr) (opcode : Nat) (f : FwdX → FwdX) : State :=
  { s with pkc := { s.pkc with forwards := s.pkc.forwards.map fun r => if sameCmd h opcode r then f r else r } }

/-- The status with LATE where the command began late (R410). -/
def lateStatus (late : Bool) (st : Nat) : Nat := if late then max st stLATE else st

/-- The end of a command of this package's own mailboxes: its reply, unless an FLR discarded it (R525). -/
def State.finishTop (s : State) (h : CmdHdr) (opcode st : Nat) (ps : List Word64) (completion : Nat) : State :=
  match s.cmdRec h opcode with
  | none => s.reply h opcode st ps completion false
  | some r =>
    let s := s.closeCmd h opcode
    if r.mute then s else s.reply h opcode (lateStatus r.late st) ps completion false

/-- The highest status among members (R21). -/
def worstStatus (l : List (Nat × Nat)) : Nat := l.foldl (fun m e => max m e.2) stOK

/-- The entries of members that did not answer OK. -/
def badMembers (l : List (Nat × Nat)) : List Word64 := (l.filter fun e => e.2 != stOK).map memberEntry

/-- A member package has answered (R19-R23): the entry package replies once every member has. Its parameters are the list of
R21 where a member did not answer OK; the one member's where it did (R469); the sums of COUNTERS_READ over several (R560); and
after the list those of a RESTORE (R444), which every member finds alike. -/
def State.memberDone (s : State) (chan : Nat) (seq : Word) (opcode unit st : Nat) (ps : List Word64) (completion : Nat) :
    State :=
  match s.pkc.forwards.find? (fun r => r.hdr.chan == chan && decide (r.hdr.seq = seq) && !r.hdr.member && r.opcode == opcode &&
      r.waiting.contains unit) with
  | none => s
  | some r =>
    let many := decide (1 < r.waiting.length + r.statuses.length)
    let waiting := r.waiting.filter (· != unit)
    let statuses := r.statuses ++ [(unit, st)]
    let data := if opcode = 0x0701 ∧ st = stOK then r.data ++ ps else if many ∧ (opcode ≠ 0x0410 ∨ r.data ≠ []) then r.data else ps
    let comp := max r.completion completion
    if waiting = [] then
      let bad := badMembers statuses
      s.finishTop r.hdr opcode (worstStatus statuses)
        (if opcode = 0x0410 then bad ++ data else if bad ≠ [] then bad
          else if many ∧ opcode = 0x0701 then mergedCounters r.sel data else data) comp
    else
      s.setCmd r.hdr opcode fun r => { r with waiting := waiting, statuses := statuses, data := data, completion := comp }

/-- The end of a command at this package with its completion grain: the reply to its channel, or as a member to its entry
package (R467). -/
def State.finishAt (s : State) (h : CmdHdr) (opcode st : Nat) (ps : List Word64) (comp : Nat) : State :=
  if h.member then
    let late := match s.cmdRec h opcode with
      | some r => r.late
      | none => false
    let s := s.closeCmd h opcode
    let st := lateStatus late st
    if h.entry = s.place then s.memberDone h.chan h.seq opcode h.target.toNat st ps comp
    else
      s.sendMgmt 0x79 h.entry h.job 0 0 0
        (wordBytes (cmdHead opcode (flagREPLY + flagMEMBER) h.seq h.target ps.length h.chan comp st) ++ word64Bytes ps)
  else s.finishTop h opcode st ps comp

def State.finish (s : State) (h : CmdHdr) (opcode st : Nat) (ps : List Word64) : State := s.finishAt h opcode st ps s.now

/-- The part number of an access that a command waits for; unit addresses lie below 2^32. -/
def reqPart (id : Nat) : Nat := 2 ^ 32 + id

/-- A part of a command has answered; with the last one the command ends. A command that its package expanded to units lists
those whose status was not OK (R18, R21). -/
def State.partDone (s : State) (h : CmdHdr) (opcode part st : Nat) (ps : List Word64) : State :=
  match s.cmdRec h opcode with
  | none => s
  | some r =>
    let waiting := r.waiting.filter (· != part)
    let statuses := r.statuses ++ [(part, st)]
    let s := s.setCmd h opcode fun r => { r with waiting := waiting, statuses := statuses, data := r.data ++ ps }
    if waiting = [] then
      let worst := worstStatus statuses
      if 2 ≤ unitLevel h.target.toNat ∧ statuses.any (fun e => decide (e.1 < 2 ^ 32)) ∧ (opcode = 0x0701 → worst ≠ stOK) then
        s.finish h opcode worst (badMembers statuses)
      else s.finish h opcode worst (if worst = stOK ∨ opcode = 0x0110 then r.data ++ ps else [])
    else s

/-! ### Sessions (R451, R462-R466, R531) -/

/-- The standing session of a die channel (R451) and of the management port (R531). -/
def standingSession (role now : Nat) : Session := { role := role, slot := 0, job := 0, last := now, standing := true }

/-- The job a channel's session is bound to: the active task's for a die channel (R451), none (0) otherwise. -/
def State.sessionJob (s : State) (n : Nat) : Nat :=
  if 0x20 ≤ n ∧ n ≤ 0x2B then s.jobOf (n - 0x20)
  else match (s.chan n).session with
    | some x => x.job
    | none => 0

/-- A session closes (R465): doorbell and journal entry; the standing session of 0x011 returns (R531). -/
def State.closeSession (s : State) (n : Nat) : State :=
  match (s.chan n).session with
  | none => s
  | some x =>
    let s := s.modChan n fun c =>
      { c with session := if n = 0x11 ∧ !x.standing then some (standingSession 1 s.now) else none }
    (s.ring n 3).log { status := stOK, cls := 0, source := 0, unit := s.pkgUnit, peer := none, job := 0,
                       detail := [BitVec.ofNat 32 n] }

/-- Restarts the idle timer of a session (R465). -/
def State.touchSession (s : State) (n : Nat) : State :=
  s.modChan n fun c =>
    { c with session := match c.session with
        | some x => some { x with last := s.now }
        | none => none }

/-- A reset or an FLR of a channel: both queues empty, the session closed, and the replies of acknowledged commands
discarded (R525, R544). -/
def State.flushChannel (s : State) (n : Nat) : State :=
  let mute := fun (h : CmdHdr) => h.chan == n && !h.member
  let s := { s with pkc := { s.pkc with
    held := (s.pkc.held.filter fun (c : HeldCmd) => c.acked || !mute c.hdr).map fun (c : HeldCmd) =>
      if mute c.hdr then { c with mute := true } else c,
    forwards := s.pkc.forwards.map fun (r : FwdX) => if mute r.hdr then { r with mute := true } else r } }
  let s := s.modChan n fun c =>
    { c with reqQ := [], taken := [], rspQ := [], replies := [], discard := false, acks := [], outstanding := [],
             nonce := none }
  s.closeSession n

/-! ### The opcode table (R471) -/

/-- Least role (5: package controllers only), lowest and highest level, and the range of PLEN of an opcode. -/
def opInfo (op : Nat) : Option (Nat × Nat × Nat × Nat × Nat) :=
  match op with
  | 0x0001 => some (0, 2, 2, 0, 0)
  | 0x0002 => some (0, 2, 2, 16, 16)
  | 0x0003 => some (1, 2, 2, 0, 0)
  | 0x0004 => some (0, 2, 2, 0, 0)
  | 0x0005 => some (1, 2, 5, 0, 0)
  | 0x0101 => some (2, 1, 5, 1, 1)
  | 0x0102 => some (2, 1, 5, 0, 0)
  | 0x0103 => some (3, 1, 5, 0, 0)
  | 0x0104 => some (1, 0, 2, 1, 1)
  | 0x0105 => some (3, 0, 2, 2, 33)
  | 0x0106 => some (2, 1, 5, 2, 2)
  | 0x0110 => some (2, 1, 5, 7, 7)
  | 0x0111 => some (2, 1, 5, 1, 1)
  | 0x0112 => some (2, 1, 5, 1, 1)
  | 0x0120 => some (2, 2, 5, 1, 1)
  | 0x0201 => some (2, 2, 2, 1, 1)
  | 0x0202 => some (2, 2, 2, 2, 33)
  | 0x0203 => some (2, 2, 2, 3, 3)
  | 0x0204 => some (2, 2, 2, 8, 8)
  | 0x0205 => some (3, 2, 5, 2, 65)
  | 0x0206 => some (3, 1, 2, 1, 1)
  | 0x0301 => some (2, 2, 5, 3, 3)
  | 0x0302 => some (2, 2, 5, 1, 1)
  | 0x0303 => some (2, 2, 5, 1, 1)
  | 0x0310 => some (1, 2, 2, 1, 1)
  | 0x0401 => some (2, 2, 5, 1, 1)
  | 0x0402 => some (2, 2, 2, 16, 256)
  | 0x0403 => some (2, 2, 5, 1, 1)
  | 0x0404 => some (3, 2, 5, 0, 0)
  | 0x0405 => some (5, 2, 2, 1, 1)
  | 0x0406 => some (1, 2, 2, 1, 1)
  | 0x0410 => some (3, 2, 5, 2, 2)
  | 0x0501 => some (3, 2, 5, 1, 1)
  | 0x0502 => some (3, 2, 5, 1, 1)
  | 0x0503 => some (1, 2, 2, 0, 0)
  | 0x0504 => some (4, 2, 5, 1, 1)
  | 0x0601 => some (4, 2, 2, 2, 2)
  | 0x0602 => some (4, 2, 2, 0, 0)
  | 0x0603 => some (1, 2, 2, 0, 0)
  | 0x0701 => some (1, 1, 5, 1, 1)
  | 0x0702 => some (1, 2, 2, 1, 1)
  | 0x0703 => some (1, 1, 2, 1, 1)
  | 0x0704 => some (4, 2, 2, 0, 0)
  | 0x0801 => some (4, 2, 5, 16, 16)
  | 0x0802 => some (4, 2, 5, 1, 1)
  | 0x0803 => some (4, 2, 5, 2, 64)
  | 0x0804 => some (4, 2, 5, 2, 2)
  | 0x0805 => some (4, 2, 5, 1, 1)
  | 0x0806 => some (1, 2, 2, 4, 4)
  | 0x0807 => some (0, 2, 2, 0, 0)
  | _ => none

/-- Opcodes that R531 lets channel 0x011 issue. -/
def mgtOpcode (op : Nat) : Bool :=
  (decide (0x0001 ≤ op) && decide (op ≤ 0x0005)) || (decide (0x0501 ≤ op) && decide (op ≤ 0x0504)) || op == 0x0603 ||
    (decide (0x0701 ≤ op) && decide (op ≤ 0x0703)) || op == 0x0806 || op == 0x0807

/-- Every key slot is EMPTY (R481). -/
def State.unclaimed (s : State) : Bool := s.sec.slots.all fun e => e.2.ty == 0

/-- R481: the first KEY_WRITE comes on channel 0x010 without a session. -/
def State.claiming (s : State) (n op : Nat) : Bool :=
  op == 0x0801 && n == 0x10 && (s.chan n).session.isNone && s.unclaimed

/-- The role a channel's session grants, 0 without one. -/
def State.roleOf (s : State) (n : Nat) : Nat :=
  match (s.chan n).session with
  | some x => x.role
  | none => 0

/-- R492 for a unit: the die it names, if it lies on one of this package's dies. -/
def State.ownerCovers (s : State) (n role target : Nat) : Bool :=
  if unitLevel target ≤ 1 ∧ unitPlace target = s.place then s.ownerLets n role (unitDie target) else true

/-- R464, R480: a command that leaves the package needs class 6 (forwarded over TC7) of its session's key slot; a
standing session has no slot. -/
def State.slotForwards (s : State) (n target : Nat) : Bool :=
  if unitLevel target ≤ 2 ∧ unitPlace target = s.place then true
  else match (s.chan n).session with
    | some x => x.standing || (match mapGet? s.sec.slots x.slot with
        | some k => bitOf k.channels 6
        | none => false)
    | none => true

/-- Commands held for a future grain (R410). -/
def State.heldCount (s : State) : Nat := (s.pkc.held.filter fun c => decide (s.now < c.hdr.launch.toNat)).length

/-- Checks 2 to 8 of R454 for a command of channel `n` under `role`; `member` for a forwarded one (R467). -/
def State.checkCmd (s : State) (n role op plen target launch : Nat) (member : Bool) : Nat :=
  match opInfo op with
  | none => stBAD_OPCODE
  | some (least, lo, hi, plo, phi) =>
    if plen < plo ∨ phi < plen then stBAD_LENGTH
    else if !s.unitOk target ∨ unitLevel target < lo ∨ hi < unitLevel target then stBAD_UNIT
    else if least = 5 then (if member then stOK else stDENIED)
    else if least ≠ 0 ∧ role = 0 ∧ !s.claiming n op then stNO_SESSION
    else if role < least ∧ !s.claiming n op then stDENIED
    else if !member ∧ (!s.rightsUnit n target ∨ !s.slotForwards n target) then stDENIED
    else if !s.ownerCovers n role target then stDENIED
    else if !member ∧ n = 0x11 ∧ (!mgtOpcode op ∨ !unitContains s.pkgUnit target) then stDENIED
    else if launch ≠ 0 ∧ s.tbState < 2 then stBUSY
    else if s.now + 2 ^ 42 < launch then stDENIED
    else if s.now < launch ∧ 256 ≤ s.heldCount then stQUEUE_FULL
    else if !member ∧ 64 ≤ (s.chan n).outstanding.length then stQUEUE_FULL
    else stOK

/-- Word `i` of a packet's header. -/
def headWord (ws : List Word64) (i : Nat) : Nat :=
  let w := (nthD 0 ws (i / 2)).toNat
  if i % 2 = 0 then w % 2 ^ 32 else w / 2 ^ 32

/-- Words of a whole packet whose first words are `ws` (R452); none while the header is not complete. -/
def packetLen (ws : List Word64) : Option Nat :=
  if ws.length < 4 then none
  else some (4 + if bitOf (headWord ws 0) 15 then 1 else bitsOf (headWord ws 3) 31 16)

/-- Check 1 of R454. -/
def frameGood (n : Nat) (ws : List Word64) : Bool :=
  let w0 := headWord ws 0
  bitsOf w0 7 0 == 1 && bitsOf w0 13 8 == 0 && headWord ws 6 == 0 && bitsOf (headWord ws 3) 15 0 == n &&
    crc32c (word64Bytes (ws.take 3) ++ toBytes (headWord ws 6) 4) == headWord ws 7

/-- The dies that a command of a channel may not reach now (R492). -/
def State.barredDies (s : State) (n role : Nat) : List Nat := (List.range 14).filter fun d => !s.ownerLets n role d

/-- The header of a packet of channel `n`. -/
def State.hdrOf (s : State) (n : Nat) (ws : List Word64) : CmdHdr :=
  let w0 := headWord ws 0
  { chan := n, seq := BitVec.ofNat 32 (headWord ws 1), target := BitVec.ofNat 32 (headWord ws 2),
    launch := BitVec.ofNat 64 (headWord ws 4 + headWord ws 5 * 2 ^ 32), early := bitOf w0 14, indirect := bitOf w0 15,
    member := false, entry := s.place, role := s.roleOf n, job := BitVec.ofNat 32 (s.sessionJob n),
    barred := s.barredDies n (s.roleOf n), grant := some (s.grantOf n) }

/-- The package controller works: no save runs, no trip or test instruction holds the package (R508, R510, R533). -/
def State.pkcRuns (s : State) : Bool := s.pwr.slump.isNone && !s.pwr.tripped && !s.jtag.heldReset

/-- The firmware has opened the channels (R538). -/
def State.channelsOpen (s : State) : Bool := s.fld fwB FW_STATUS.CODE == 2

/-- The acknowledgement of a packet (R454, R537). -/
def State.ackOf (s : State) (n : Nat) (ws : List Word64) : Nat :=
  let h := s.hdrOf n ws
  if !s.channelsOpen && n != 0x10 && n != 0x11 then stBUSY
  else if !frameGood n ws then stBAD_LENGTH
  else s.checkCmd n h.role (headWord ws 0 / 65536) (bitsOf (headWord ws 3) 31 16) h.target.toNat h.launch.toNat false

/-! ### The request queue (R449-R453, R461) -/

/-- The agent is the sender that owns the channel (R449, R450); a secure core also owns its non-secure one (R221). -/
def State.ownsChan (s : State) (who : Agent) (n : Nat) : Bool :=
  match who with
  | .host fn secure => n == fn || (secure && fn == 0 && n == 0x10)
  | .core c => n == 0x80 + c || (s.coreSecure c && n == 0x100 + c)
  | .tile d _ => n == 0x20 + d
  | .mgt => n == 0x11
  | _ => false

/-- The number that names a sender in the journal: the core number (R221), else its die and unit. -/
def senderNumber : Agent → Nat
  | .core c => c
  | who => agentDie who * 2 ^ 10 + agentUnit who

/-- R450: a write of a channel by another sender is dropped and logged. -/
def State.chanDenied (s : State) (who : Agent) (n : Nat) : State :=
  s.logRefused stDENIED 0 s.pkgUnit (agentPlace s who) 0
    [BitVec.ofNat 32 n, BitVec.ofNat 32 (senderNumber who)]

/-! ### Wakes (R502, R503) -/

def State.setChanging (s : State) (f : FMap (Nat × Option CmdHdr) → FMap (Nat × Option CmdHdr)) : State :=
  { s with pwr := { s.pwr with changing := f s.pwr.changing } }

/-- A domain begins to change its state. -/
def State.beginChange (s : State) (n st : Nat) (cmd : Option CmdHdr) : State :=
  (s.setFld (pwrB + PWR_DOM.stride * n) PWR_DOM.CHANGING 1).setChanging fun m => mapPut m n (st, cmd)

/-- An INFO entry of power: a domain change or a wake (R548). -/
def State.pwrInfo (s : State) (n st : Nat) : State :=
  s.log { status := stOK, cls := 0, source := 13, unit := s.pkgUnit, peer := none, job := 0,
          detail := [BitVec.ofNat 32 n, BitVec.ofNat 32 st] }

/-- Raises a domain that is not ON for a wake; one that is being lowered finishes that first. -/
def State.wakeDomain (s : State) (n : Nat) : State :=
  match mapGet? s.pwr.changing n with
  | some (t, cmd) => if t = 1 ∨ t = 2 then s.setChanging fun m => mapPut m n (t + 4, cmd) else s
  | none => if s.domState n = 0 then s else s.beginChange n 0 none

/-- Records a wake. -/
def State.noteWake (s : State) (host : Bool) (groups : Nat) : State :=
  let s := (s.setFld pwrB PWR_WAKE_SRC.HOST (bit1 host)).setFld pwrB PWR_WAKE_SRC.GROUPS groups
  (s.pwrEvent PWR_EVENTS.WAKE).pwrInfo (if host then domHost else domG 0) groups

/-- Nothing wakes a package that has lost its supply, tripped, or stands in a boundary-scan test (R509, R508, R533). -/
def State.noWake (s : State) : Bool := s.pwr.slump.isSome || s.pwr.tripped || s.jtag.heldReset

/-- A host request finds FC in RETENTION: FC rises, and the wake is recorded once (R503). -/
def State.wakeHost (s : State) : State :=
  if s.domState domFC ≠ 1 ∨ (mapGet? s.pwr.changing domFC).any fun e => e.1 % 4 == 0 || decide (4 ≤ e.1) then s
  else (s.wakeDomain domFC).noteWake true 0

/-! ### Host accesses of a channel (R503, R523) -/

/-- A host access of a channel block waits behind the function's posted writes, behind what already waits, and for an FC
in RETENTION. -/
def State.hostHolds (s : State) (who : Agent) : Bool :=
  match who with
  | .host fn _ =>
    s.domState domFC == 1 || (s.host.posted.any fun r => r.fn == fn && r.write) || s.host.held.any fun e => e.fn == fn
  | _ => false

def State.holdHost (s : State) (who : Agent) (off : Nat) (read wide : Bool) (v : Word64) : State :=
  match who with
  | .host fn _ =>
    let s := if s.noWake then s else s.wakeHost
    { s with host := { s.host with held := s.host.held ++ [⟨fn, off, read, wide, v⟩] } }
  | _ => s

/-- R453: a word beyond the eighth is dropped. -/
def State.overflow (s : State) (n : Nat) : State :=
  let c := s.chan n
  let s := s.ring n 4
  if c.discard then s
  else
    let first := nthD (nthD 0 c.reqQ 0) c.taken 0
    s.modChan n fun c =>
      { c with discard := true, taken := [], acks := c.acks ++ [(BitVec.ofNat 32 (first.toNat / 2 ^ 32), stQUEUE_FULL)] }

/-- A request word is pushed (R452, R453, R530). -/
def State.pushWord (s : State) (who : Agent) (n : Nat) (w : Word64) : State :=
  let full := decide (8 ≤ (s.chan n).reqQ.length)
  if full && decide (who = .mgt) then { s with mgt := { s.mgt with nacks := s.mgt.nacks + 1 } }
  else
    let s := s.touchSession n
    if full then s.overflow n else s.modChan n fun c => { c with reqQ := c.reqQ ++ [w] }

/-- RESYNC (R453). -/
def State.resync (s : State) (n : Nat) : State :=
  let was := (s.chan n).reqQ
  let s := s.modChan n fun c => { c with reqQ := [], taken := [], discard := false }
  if was = [] then s else s.ring n 2

/-- A sender's operation on its channel: dropped and logged for another sender (R450), held behind posted writes of a
host function (R523). -/
def State.asSender (s : State) (who : Agent) (n off : Nat) (wide : Bool) (v : Word64) (f : State → State) : State :=
  if !chanExists n then s
  else if !s.ownsChan who n then s.chanDenied who n
  else if s.hostHolds who then s.holdHost who (chB n + off) false wide v
  else f s

def execChReqPush (who : Agent) (chan : Nat) (w : Word64) (s : State) : Host.Outcome State Fault Refusal :=
  .next (s.asSender who chan CH_REQ_LO.off true w fun s => s.pushWord who chan w)

def execKeepalive (who : Agent) (chan : Nat) (s : State) : Host.Outcome State Fault Refusal :=
  .next (s.asSender who chan CH_DB_REQ.off false 1 fun s => s.touchSession chan)

def execResync (who : Agent) (chan : Nat) (s : State) : Host.Outcome State Fault Refusal :=
  .next (s.asSender who chan CH_DB_REQ.off false 2 fun s => s.resync chan)

/-- The controller takes the words of one packet (R452), discards words after an overflow (R453), and once the packet
is whole checks it and queues its acknowledgement (R454). It takes none while an acknowledgement waits (R455). -/
def State.receivePacket (s : State) (n : Nat) : State :=
  let c := s.chan n
  if c.reqQ = [] then s
  else if c.discard then (s.modChan n fun c => { c with reqQ := [] }).ring n 2
  else if c.acks ≠ [] then s
  else
    let all := c.taken ++ c.reqQ
    match packetLen all with
    | none => (s.modChan n fun c => { c with taken := all, reqQ := [] }).ring n 2
    | some need =>
      if all.length < need then (s.modChan n fun c => { c with taken := all, reqQ := [] }).ring n 2
      else
        let ws := all.take need
        let rest := all.drop need
        let code := s.ackOf n ws
        let h := s.hdrOf n ws
        let s := s.modChan n fun c => { c with taken := [], reqQ := rest, acks := [(h.seq, code)] }
        let s := if rest = [] then s.ring n 2 else s
        if code = stOK then
          { s with pkc := { s.pkc with held := s.pkc.held ++ [
            { hdr := h, opcode := headWord ws 0 / 65536, params := ws.drop 4, plen := bitsOf (headWord ws 3) 31 16,
              acked := false, mute := false }] } }
        else s

def execCommandPacketReceive (chan : Nat) (s : State) : Host.Outcome State Fault Refusal :=
  .next (if chanExists chan && s.pkcRuns then s.receivePacket chan else s)

/-- Marks the first held command of the channel and sequence as acknowledged. -/
def ackHeld (n : Nat) (seq : Word) : List HeldCmd → List HeldCmd × Option HeldCmd
  | [] => ([], none)
  | c :: r =>
    if c.hdr.chan = n ∧ c.hdr.seq = seq ∧ !c.hdr.member ∧ !c.acked then ({ c with acked := true } :: r, some c)
    else
      let x := ackHeld n seq r
      (c :: x.1, x.2)

/-- One acknowledgement is written once bit ACK is clear (R455); an accepted command becomes outstanding (R458) and
EARLY gets its interim reply (R454). -/
def State.acknowledge (s : State) (n : Nat) : State :=
  let b := chB n
  match (s.chan n).acks with
  | [] => s
  | (seq, code) :: rest =>
    if bitOf (s.reg (b + CH_DB_IN.off)).toNat 1 then s
    else
      let s := s.modChan n fun c => { c with acks := rest }
      let s := s.setReg (b + CH_ACK.off) (BitVec.ofNat 32 (seq.toNat % 65536 * 65536 + code))
      let s := if code = stOK then s else s.bump b CH_NAK_COUNT.COUNT
      let s := s.ring n 1
      if code = stOK then
        let a := ackHeld n seq s.pkc.held
        let s := { s with pkc := { s.pkc with held := a.1 } }
        let s := s.modChan n fun c => { c with outstanding := c.outstanding ++ [seq] }
        match a.2 with
        | some c => if c.hdr.early then s.reply c.hdr c.opcode stACCEPTED [] 0 true else s
        | none => s
      else s

def execCommandAcknowledge (chan : Nat) (s : State) : Host.Outcome State Fault Refusal :=
  .next (if chanExists chan then s.acknowledge chan else s)

/-- A read of CH_RSP_LO by the owner: the low half of the oldest word, its high half latched, and the command ended
where it was the last word of its final reply (R458). -/
def State.readReply (s : State) (n : Nat) : State × Word :=
  match (s.chan n).rspQ with
  | [] => (s, 0)
  | w :: ws =>
    let s := s.modChan n fun c =>
      let r := match c.replies with
        | [] => (([] : List (Nat × Word × Bool)), c.outstanding)
        | (k, seq, final) :: more =>
          if k ≤ 1 then (more, if final then dropFirst (· == seq) c.outstanding else c.outstanding)
          else ((k - 1, seq, final) :: more, c.outstanding)
      { c with rspQ := ws, rspHi := BitVec.ofNat 32 (w.toNat / 2 ^ 32), replies := r.1, outstanding := r.2 }
    let s := s.touchSession n
    (if ws = [] then s else s.ring n 0, BitVec.ofNat 32 w.toNat)

def execChRspRead (who : Agent) (chan : Nat) (s : State) : Host.Outcome State Fault Refusal :=
  .next (if !chanExists chan || !s.ownsChan who chan then s
    else if s.hostHolds who then s.holdHost who (chB chan + CH_RSP_LO.off) true true 0
    else (s.readReply chan).1)

/-- R465: 10 s without an outstanding command, a word or a KEEPALIVE; a standing session never idles out. -/
def execSessionIdleTimeout (chan : Nat) (s : State) : Host.Outcome State Fault Refusal :=
  .next (match (s.chan chan).session with
    | some x =>
      if !x.standing ∧ (s.chan chan).outstanding = [] ∧ x.last + 2000000000 ≤ s.now then s.closeSession chan else s
    | none => s)

end Sys2Proof.Machine
end

