-- ==== Sys2Proof/Machine/Die.lean ====
section
/-! DEFINITION. The die sequencer: runnable tasks and their entry (R124-R126, R129), start (R98, R99), the end of a
run and its vote (R116, R190-R194), the step cut (R29-R32, R100, R101), the refire switch (R195, R199) and the tag
wait (R92-R96, R104). -/

namespace Sys2Proof.Machine

/-! ### Images of slots, as the sequencer reads them -/

/-- Word `i` of a byte string. -/
def wordAt (bs : List Byte) (ofs : Nat) : Nat := leNat ((bs.drop ofs).take 4)

/-- SLOTS_USED of the image in a slot (R106). -/
def SlotX.slotsUsed (x : SlotX) : Nat := wordAt x.image 16 % 8192

/-- The section of a type for a tile (0xFFFF for a die-wide type). -/
def SlotX.sec? (x : SlotX) (ty tile : Nat) : Option Section := x.sections.find? fun e => e.ty == ty && e.tile == tile

/-- Entry `i` of `n` bytes of a section. -/
def SlotX.entry (x : SlotX) (e : Section) (n i : Nat) : List Byte := (x.image.drop (e.ofs + n * i)).take n

/-- The active slot's store. -/
def State.active (s : State) (d : Nat) : SlotX := (s.die d).slot (s.slotOf d)

/-! ### Tasks (R124, R129) -/

/-- Two scratch regions share a slot. -/
def regionsMeet (b n c m : Nat) : Bool := decide (0 < n) && decide (0 < m) && decide (b < c + m) && decide (c < b + n)

/-- The region of task `n` leaves the slots, or overlaps that of a valid lower-numbered task of another job (R167). -/
def State.regionBad (s : State) (d n : Nat) : Bool :=
  let base := fun m => s.fld (scrB d + 4 * m) SCR_TASK.BASE
  let bound := fun m => s.fld (scrB d + 4 * m) SCR_TASK.BOUND
  decide (5120 < base n + bound n) ||
    (List.range n).any fun m =>
      s.taskValid d m && s.tsk d m TSK_JOB.JOB != s.tsk d n TSK_JOB.JOB && regionsMeet (base m) (bound m) (base n) (bound n)

/-- R124, R167: the task is VALID, its slot is READY or ACTIVE, its mould fits its bound and its region is sound. -/
def State.runnable (s : State) (d n : Nat) : Bool :=
  let sl := s.tsk d n TSK_CFG.SLOT
  let st := s.slotState d sl
  s.taskValid d n && (st == slREADY || st == slACTIVE) && !s.regionBad d n &&
    decide (((s.die d).slot sl).slotsUsed ≤ s.fld (scrB d + 4 * n) SCR_TASK.BOUND)

/-- Tasks in ascending order after `n`, wrapping, without `n`. -/
def tasksAfter (n : Nat) : List Nat := (List.range 15).map fun i => (n + 1 + i) % 16

/-- The choice of R124 among the tasks after the current one: the first runnable one and the valid ones passed
over. -/
def State.nextRunnable (s : State) (d : Nat) : List Nat → Option Nat × List Nat
  | [] => (none, [])
  | n :: ns =>
    if s.runnable d n then (some n, [])
    else
      let r := s.nextRunnable d ns
      (r.1, if s.taskValid d n then n :: r.2 else r.2)

/-- R124: the task of the next step (none: the die stops) with BUSY logged for each task passed over. A current
task that is no longer runnable yields as one whose quantum is spent. -/
def State.chooseTask (s : State) (d : Nat) : State × Option Nat :=
  let cur := s.taskOf d
  let quantum := max 1 (s.tsk d cur TSK_CFG.QUANTUM)
  if (s.die d).turn < quantum ∧ s.runnable d cur then (s, some cur)
  else
    let r := s.nextRunnable d (tasksAfter cur)
    let s := r.2.foldl (fun s _ => s.dieBusy d) s
    match r.1 with
    | some n => (s, some n)
    | none => (s, if s.runnable d cur then some cur else none)

/-! ### Entering a slot (R125, R126) -/

/-- SCRATCH_LAYOUT entries as (first slot, count, tag, first tile, last tile). -/
def SlotX.layout (x : SlotX) : List (Nat × Nat × Nat × Nat × Nat) :=
  match x.sec? 6 0xFFFF with
  | none => []
  | some e => (List.range e.count).map fun i =>
    let b := x.entry e 16 i
    let w1 := wordAt b 4
    let w2 := wordAt b 8
    (bitsOf w1 31 19, bitsOf w1 18 6, bitsOf w1 5 4, bitsOf w2 31 22, bitsOf w2 21 12)

/-- R126: the tags of the INIT_TAG 0 and 1 regions. -/
def State.applyLayout (s : State) (d : Nat) (x : SlotX) : State :=
  let base := (s.die d).base
  x.layout.foldl (fun s e =>
    if e.2.2.1 = 0 ∨ e.2.2.1 = 1 then
      (List.range' e.2.2.2.1 (e.2.2.2.2 + 1 - e.2.2.2.1)).foldl (fun s t =>
        (List.range' e.1 e.2.1).foldl (fun s p => s.setTag d t (base + p) (if e.2.2.1 = 1 then .full else .empty)) s) s
    else s) s

/-- Route words of a tile in a slot (R108). -/
def SlotX.routesOf (x : SlotX) (t : Nat) : List Word :=
  match x.sec? 2 t with
  | none => []
  | some e => (List.range e.count).map fun i => BitVec.ofNat 32 (leNat (x.entry e 4 i))

/-- Fills the route tables from the slot's copy (R87), and zeroes loop counters, banks and buffers where `wipe`. -/
def State.loadTiles (s : State) (d : Nat) (x : SlotX) (wipe : Bool) : State :=
  let named := (x.sections.filter fun e => e.ty == 2).map fun e => e.tile
  let s := s.mapTiles d fun _ y => { y with routes := [] }
  let s := named.foldl (fun s t => s.modTile d t fun y => { y with routes := x.routesOf t }) s
  if wipe then s.mapTiles d fun _ y => { y with banks := [], loops := [] } else s

/-- Makes slot `sl` the active slot of task `n`: slot states, route tables, zeroing where `wipe` (a switch of slot or task), the
layout tags on a switch and where the slot was not ACTIVE (R125, R126), and the standing session of the die channel opened
again (R451). -/
def State.enterSlot (s : State) (d n sl : Nat) (wipe : Bool) : State :=
  let old := s.slotOf d
  let was := s.slotState d sl
  let s := if old ≠ sl ∧ s.slotState d old == slACTIVE then s.setSlotState d old slREADY else s
  let s := s.setSlotState d sl slACTIVE
  let s := (s.setFld (dsqB d) DSQ_STATUS.TASK n).setFld (dsqB d) DSQ_STATUS.SLOT sl
  let x := (s.die d).slot sl
  let s := if (s.chan (0x20 + d)).session.any fun x => !x.standing then s.closeSession (0x20 + d) else s
  let s := s.modChan (0x20 + d) fun c => { c with session := some (standingSession 2 s.now) }
  let s := s.loadTiles d x wipe
  if was = slACTIVE ∧ !wipe then s else s.applyLayout d x

/-- Loads the scratch base and bound of task `n` (R125, R166). -/
def State.loadRegion (s : State) (d n : Nat) : State :=
  s.modDie d fun x => { x with base := s.fld (scrB d + 4 * n) SCR_TASK.BASE, bound := s.fld (scrB d + 4 * n) SCR_TASK.BOUND }

/-! ### Runs -/

/-- `n` arithmetic cycles of die `d` in whole grains, rounded up (R395). -/
def State.cyclesToGrains (s : State) (d n : Nat) : Nat := (n * s.fld (clkB d) CLK_PERIOD.PERIOD_Q12 + 16383) / 16384

/-- Issue cycle 0 of a run resets the step overflow latch (R190). -/
def State.resetOvf (s : State) (d : Nat) : State :=
  (s.setFld (dsqB d) TNM_STATUS.STEP_OVF 0).modDie d fun x => { x with ovfTile := none }

/-- The first wall cycle that begins at or after the present grain edge: the one in progress began before it (R98, R395). -/
def DieX.nextWall (x : DieX) : Nat := x.wall + bit1 (x.frac != 0)

/-- The die stands at issue cycle 0 of a run, the first cycle that begins at or after this grain (R98, R190), or waits `wait`
cycles of switch time first. -/
def State.beginRun (s : State) (d wait : Nat) : State :=
  let s := s.mapTiles d fun _ y => { y with pc := 0, cycle := 0, hist := [], ended := false, issues := [], locOut := [] }
  let s := (s.setReg64 (dsqB d + DSQ_STEP_CYCLES_LO.off) 0).setFld (dsqB d) DSQ_HOLD_CYCLES.HOLD 0
  let s := if wait = 0 then s.resetOvf d else s
  let s := s.modDie d fun x =>
    { x with refireAt := none, flights := [], wall0 := x.nextWall + wait, holds := [],
             fresh := x.fresh.filter fun e => e.2.any fun v => decide (x.wall < v.1 + 2),
             switching := if wait = 0 then none else some (s.now + s.cyclesToGrains d wait) }
  s.setDieState d dsRUNNING

/-- The first step of an ARMED die begins at `anchor` (R100). -/
def State.firstStep (s : State) (d anchor : Nat) : State :=
  let period := s.fld (dsqB d) DSQ_CUT_PERIOD.PERIOD
  let s := s.setReg64 (dsqB d + DSQ_NEXT_CUT_LO.off) (if period = 0 then 0 else anchor + period)
  (s.modDie d fun x => { x with sched := period, refired := false }).beginRun d 0

/-- A die armed with start grain 0, or with one that has passed, starts at once; the latter is late (R99). -/
def State.armedPast (s : State) (d start : Nat) : State :=
  let s := if start = 0 then s
    else ((s.logLate 1 (s.dieUnit d) (s.jobOf d) start 5).drift d 5).dsqEvent d DSQ_EVENTS.LATE_START
  s.firstStep d s.now

/-- ARM (R98, R99, R129, R403): a STOPPED die takes the lowest runnable task and waits for its start grain, or starts. -/
def State.armDie (s : State) (d : Nat) : State :=
  let start := s.reg64 (dsqB d + DSQ_START_GRAIN_LO.off)
  let tb := s.fld tbB TB_STATUS.STATE
  if s.dieState d ≠ dsSTOPPED ∨ s.dieLoading d ∨ (start ≠ 0 ∧ tb < 2) ∨ !s.domOn (domC d) then s.dieBusy d
  else
    match (List.range 16).find? (s.runnable d) with
    | none => s.dieBusy d
    | some n =>
      let sl := s.tsk d n TSK_CFG.SLOT
      let other := n ≠ s.taskOf d
      let s := (s.loadRegion d n).mapTiles d fun _ y => { y with epoch := y.epoch + 1 }
      let s := s.enterSlot d n sl (decide (other ∨ sl ≠ s.slotOf d))
      let s := s.setFld (dsqB d) DSQ_TAGWAIT_COUNT.WAITS 0
      let s := s.modDie d fun x => { x with turn := 0, stopPending := false, run := x.run + 1, closing := ⟨0, 0, 0, 0⟩ }
      let s := s.setDieState d dsARMED
      if start = 0 ∨ start < s.now then s.armedPast d start else s

/-- A command for the die with this grain as its launch grain has yet to start: a cut or a start at the grain comes after it
(R411). -/
def State.launchesFirst (s : State) (d : Nat) : Bool :=
  let u := s.dieUnit d
  s.pkc.held.any fun e =>
    e.acked && decide (e.hdr.launch ≠ 0 ∧ e.hdr.launch.toNat = s.now) &&
      (unitContains e.hdr.target.toNat u || unitContains u e.hdr.target.toNat)

/-- DIE_START (R98, R100): an ARMED die whose start grain has come begins its first step. -/
def State.startDie (s : State) (d : Nat) : State :=
  let start := s.reg64 (dsqB d + DSQ_START_GRAIN_LO.off)
  if s.dieState d ≠ dsARMED ∨ s.now < start ∨ s.launchesFirst d then s else s.firstStep d start

/-! ### The end of a run -/

/-- The tile has a PROGRAM section in the active slot; one that has none runs a single END (R108). -/
def State.hasProgram (s : State) (d t : Nat) : Bool := ((s.active d).sec? 1 t).isSome

/-- Every tile has issued END and every operation has completed (R116). -/
def State.allEnded (s : State) (d : Nat) : Bool :=
  ((s.active d).sections.filter fun e => e.ty == 1).all (fun e => (s.tile d e.tile).ended) &&
    s.tiles.all fun e => e.1 / 768 != d ||
      (e.2.mma.isNone && e.2.vec.isNone && e.2.snd.isEmpty && e.2.rcv.isEmpty)

def tnmB (d i : Nat) : Nat := dsqB d + TNM_SLOT.stride * i

/-- DSQ_STEP_CYCLES has reached at least `c`: an event within a grain stands at its own issue cycle. -/
def State.stepTo (s : State) (d c : Nat) : State :=
  if s.reg64 (dsqB d + DSQ_STEP_CYCLES_LO.off) < c then s.setReg64 (dsqB d + DSQ_STEP_CYCLES_LO.off) c else s

/-- Issue cycle of the last END (R116): one before the cycle at which its tile stands. -/
def State.endCycle (s : State) (d : Nat) : Nat :=
  ((s.active d).sections.filter fun e => e.ty == 1).foldl (fun m e => max m ((s.tile d e.tile).cycle - 1)) 0

/-- UNABLE of a vote (R191): ENABLE is 0, or the NEXT slot is not READY. -/
def State.voteUnable (s : State) (d : Nat) : Bool :=
  let b := tnmB d (s.slotOf d)
  !s.flag b TNM_SLOT.ENABLE || s.slotState d (s.fld b TNM_SLOT.NEXT) != slREADY

/-- The tile field of a refire entry: 0x3FF where no tile raised OVF. -/
def State.ovfTileNo (s : State) (d : Nat) : Nat := (s.die d).ovfTile.getD 0x3FF

/-- A REFIRED entry (R199): die, task, TSK_STEPS, from slot, to slot, tile; a seventh word 1 marks an exhausted
vote (R192). -/
def State.logRefired (s : State) (d fromS toS : Nat) (exhausted : Bool) : State :=
  s.log { status := stREFIRED, cls := 0, source := 1, unit := s.dieUnit d, peer := none, job := s.jobOf d,
          detail := [BitVec.ofNat 32 d, BitVec.ofNat 32 (s.taskOf d),
            BitVec.ofNat 32 (s.tsk d (s.taskOf d) TSK_STEPS.STEPS), BitVec.ofNat 32 fromS, BitVec.ofNat 32 toS,
            BitVec.ofNat 32 (s.ovfTileNo d)] ++ (if exhausted then [1] else []) }

/-- The later completion governs the cut (R31, R193); from grain `known` on every member has it. -/
def State.closeAt (s : State) (d root cgrain known : Nat) : State :=
  s.modDie d fun x =>
    { x with closing := if x.closing.root < root then { x.closing with root := root, cgrain := cgrain, known := known } else x.closing }

/-- A vote completes at the die (R192-R194). -/
def State.voteDone (s : State) (d status : Nat) (ovf unable : Bool) (root cgrain known : Nat) : State :=
  let s := s.setFld (dsqB d) TNM_STATUS.VOTING 0
  if status = stCOLL_MISMATCH ∨ status = stMEMBER_LOST then
    ((s.tnmEvent d TNM_EVENTS.VOTE_FAIL).log
      { status := status, cls := 4, source := 1, unit := s.dieUnit d, peer := none, job := s.jobOf d, detail := [] }).abortDie d
  else
    let s := s.closeAt d root cgrain known
    if ovf && !unable then s.modDie d fun x => { x with refireAt := some cgrain }
    else if ovf then
      (s.tnmEvent d TNM_EVENTS.EXHAUSTED).logRefired d (s.slotOf d) (s.fld (tnmB d (s.slotOf d)) TNM_SLOT.NEXT) true
    else s

/-- DIE_AT_END (R116, R191): the die enters AT_END and submits its vote; one that votes alone has its result at
once. -/
def State.endDie (s : State) (d : Nat) : State :=
  if s.dieState d ≠ dsRUNNING ∨ (s.die d).switching.isSome ∨ !s.allEnded d then s
  else
    let s := ((s.stepTo d (s.endCycle d)).setDieState d dsAT_END).dsqEvent d DSQ_EVENTS.MOULD_END
    let s := s.modDie d fun x => { x with endAt := s.now + 1 }
    if s.flag (tnmB d (s.slotOf d)) TNM_SLOT.ENABLE || (s.die d).refired then
      let unable := s.voteUnable d
      let s := (s.setFld (dsqB d) TNM_STATUS.UNABLE (bit1 unable)).setFld (dsqB d) TNM_STATUS.VOTING 1
      if s.fld (dsqB d) TNM_VOTE_TEAM.TEAM = 0 then
        s.voteDone d stOK (s.flag (dsqB d) TNM_STATUS.STEP_OVF) unable s.now (s.now + 512) s.now
      else s
    else s

/-! ### The step cut (R29-R32, R100, R101) -/

/-- The grain at which the die in AT_END may take its cut (R31, R100): the planned one where every member has the closing
completion by then, which is CGRAIN, or at once for a die that votes alone; else CGRAIN, one grain for the team
(log entry 13). -/
def State.cutDue (s : State) (d : Nat) : Nat :=
  let x := s.die d
  let planned := s.reg64 (dsqB d + DSQ_NEXT_CUT_LO.off)
  let at_ := if planned = 0 then x.endAt else planned
  if at_ < x.closing.known then max (max at_ x.endAt) x.closing.cgrain
  else max at_ x.endAt

/-- The die may take its cut now. -/
def State.cutReady (s : State) (d : Nat) : Bool :=
  s.dieState d == dsAT_END && (s.die d).closing.calls == 0 && (s.die d).refireAt.isNone &&
    !s.flag (dsqB d) TNM_STATUS.VOTING && decide (s.cutDue d ≤ s.now) && !s.launchesFirst d

/-- Counts a late cut (R31, R100): journal, drift counter and LATE_CUT. -/
def State.noteLateCut (s : State) (d : Nat) : State :=
  let planned := s.reg64 (dsqB d + DSQ_NEXT_CUT_LO.off)
  if planned ≠ 0 ∧ planned < s.now then
    ((s.logLate 1 (s.dieUnit d) (s.jobOf d) planned 6).drift d 6).dsqEvent d DSQ_EVENTS.LATE_CUT
  else s

/-- The next planned cut after a commit: `fresh` says that a PERIOD committed at this cut (R100). -/
def State.replan (s : State) (d : Nat) (fresh : Bool) : State :=
  let a := dsqB d + DSQ_NEXT_CUT_LO.off
  let x := s.die d
  if x.sched = 0 then s.setReg64 a 0
  else if fresh then
    let p := s.fld (dsqB d) DSQ_CUT_PERIOD.PERIOD
    (s.setReg64 a (if p = 0 then 0 else s.now + p)).modDie d fun x => { x with sched := p }
  else s.setReg64 a (s.reg64 a + x.sched)

/-- The task in the die is the one whose cuts advance STR_STEP (R419). -/
def State.strTask (s : State) (d : Nat) : Bool := s.fld (dsqB d) STR_CTRL.TASK == s.taskOf d

/-- Actions 1 and 2 of R29 with what belongs to the cut grain: STR_STEP (R419), TSK_STEPS, the shadows, the
schedule (R100), and the atomic records (R283, R298). -/
def State.cutCommit (s : State) (d : Nat) : State :=
  let s := s.noteLateCut d
  let fresh := s.shadow.any fun e => e.1 == dsqB d + DSQ_CUT_PERIOD.off
  let a := dsqB d + STR_STEP_LO.off
  let s := if s.strTask d then s.setReg64 a (s.reg64 a + 1) else s
  let b := tskB d (s.taskOf d)
  let s := s.setFld b TSK_STEPS.STEPS (s.fld b TSK_STEPS.STEPS + 1)
  let job := s.jobOf d
  let s := s.commitShadows d
  let s := s.replan d fresh
  let s := s.modStack d fun x => { x with lastAtomic := [] }
  { s with far := { s.far with lastAtomic := s.far.lastAtomic.filter fun e => e.2.1 != job } }

/-- The end of a cut: COUNT of the step back to 0, CUT_TAKEN, RUNG 0, one more step in the turn. -/
def State.cutMark (s : State) (d : Nat) (str : Bool) : State :=
  let s := if str then s.closeImages d else s
  let s := (s.setFld (drfB d) DRF_STEP.COUNT 0).dsqEvent d DSQ_EVENTS.CUT_TAKEN
  let s := s.setFld (dsqB d) TNM_STATUS.RUNG 0
  s.modDie d fun x => { x with turn := x.turn + 1, closing := ⟨0, 0, 0, 0⟩, refired := false }

/-- The next task, where one is runnable, with the switch time its choice takes. -/
def State.cutNext (d : Nat) (c : State × Option Nat) : State :=
  match c with
  | (s', none) => s'.enterStopped d
  | (s', some n) =>
    if n ≠ s'.taskOf d then
      ((((s'.loadRegion d n).enterSlot d n (s'.tsk d n TSK_CFG.SLOT) true).modDie d fun x =>
        { x with turn := 0 })).beginRun d 96
    else if s'.tsk d n TSK_CFG.SLOT ≠ s'.slotOf d then (s'.enterSlot d n (s'.tsk d n TSK_CFG.SLOT) true).beginRun d 64
    else s'.beginRun d 0

/-- A cut without a pending stop goes on with the next task; with one the die stops. -/
def State.cutTask (s : State) (d : Nat) : State :=
  if (s.die d).stopPending then s.enterStopped d else State.cutNext d (s.chooseTask d)

/-- Actions 3 to 5 of R29: images, task, next step; `str` says that the cut belongs to the task of STR_CTRL. -/
def State.cutFinish (s : State) (d : Nat) (str : Bool) : State := (s.cutMark d str).cutTask d

/-- The wall cycle in which issue cycle 0 stands begins in this grain, or has begun. -/
def State.zeroDue (s : State) (d : Nat) : Bool :=
  let x := s.die d
  decide ((x.wall0 - x.wall) * s.fld (clkB d) CLK_PERIOD.PERIOD_Q12 < x.frac + 16384)

/-- SWITCH_STEP_START (R125): the switch time, counted in cycles at the present clock, is over in this grain. -/
def State.switchDone (s : State) (d : Nat) : State :=
  match (s.die d).switching with
  | none => s
  | some _ =>
    if s.zeroDue d then
      (s.resetOvf d).modDie d fun x => { x with switching := none, wall0 := max x.wall0 x.wall }
    else s

/-- REFIRE_SWITCH (R195, R199): the die replays the step in the NEXT slot. -/
def State.refireDie (s : State) (d : Nat) : State :=
  match (s.die d).refireAt with
  | none => s
  | some g =>
    if s.dieState d ≠ dsAT_END ∨ s.now < g then s
    else
      let old := s.slotOf d
      let new := s.fld (tnmB d old) TNM_SLOT.NEXT
      let s := (s.logRefired d old new false).bump (dsqB d) TNM_REFIRE_COUNT.COUNT
      let s := s.setReg (dsqB d + TNM_LAST_REFIRE.off)
        (BitVec.ofNat 32 (s.ovfTileNo d % 1024 * 2 ^ 22 + old % 4 * 4 + new % 4))
      let s := s.tnmEvent d TNM_EVENTS.REFIRE
      let s := s.setFld (dsqB d) TNM_STATUS.RUNG (s.fld (dsqB d) TNM_STATUS.RUNG + 1)
      let s := s.modDie d fun x => { x with refired := true }
      (s.enterSlot d (s.taskOf d) new true).beginRun d 64

/-! ### Tag waits (R92-R96, R104) -/

/-- The tag of a wait allows its access: a POISON tag is no wait. -/
def State.waitMet (s : State) (d : Nat) (w : WaitX) : Bool :=
  match s.tag d w.tile w.slot with
  | .empty => w.write
  | .full => !w.write
  | .poison => true

/-- DSQ_WAIT_INFO names the lowest-numbered waiting tile (R104): of several slots that it waits on the first that its
instruction reads, then the first that it writes, as a physical slot (DESIGN CHOICE, log entry 38). -/
def State.setWaitInfo (s : State) (d : Nat) (ws : List WaitX) : State :=
  match ws with
  | [] => s
  | w :: ws =>
    let m := ws.foldl (fun m x => if x.tile < m.tile then x else m) w
    s.setReg (dsqB d + DSQ_WAIT_INFO.off)
      (BitVec.ofNat 32 (m.tile % 1024 * 2 ^ 22 + m.slot % 8192 * 2 ^ 9 + bit1 m.write))

/-- A tile meets disallowed tags: the die is held from the cycle of that issue, or the waits join the hold of the same
cycle (R92, R94). -/
def State.holdDie (s : State) (d : Nat) (ws : List WaitX) : State :=
  match (s.die d).hold with
  | none =>
    let c := ws.foldl (fun m w => max m (s.tile d w.tile).cycle) 0
    (((s.stepTo d c).modDie d fun x => { x with hold := some ⟨ws, s.now, c, x.wallOf c⟩ }).setWaitInfo d ws).setDieState d dsHELD
  | some h =>
    let all := h.waits ++ ws.filter fun w => !h.waits.contains w
    (s.modDie d fun x => { x with hold := some { h with waits := all } }).setWaitInfo d all

/-- The first examination of a hold that finds every tag allowing its access: from the cycle before the issue on, when
the latest of the changes is visible (R92, R94, R164). -/
def State.foundAt (s : State) (d : Nat) (h : HoldX) : Nat :=
  h.waits.foldl (fun m w =>
    match mapGet [] (s.die d).fresh (slotNo d w.tile w.slot) with
    | [] => m
    | e :: _ => max m e.1) (h.wall - 1)

/-- TAG_WAIT_RELEASE (R92, R94, R95): an examination of this grain or an earlier one finds that every tag allows its
access; issue goes on two wall cycles after it. -/
def State.releaseHold (s : State) (d : Nat) : State :=
  match (s.die d).hold with
  | none => s
  | some h =>
    let s := h.waits.foldl (fun s w => s.touchTag d w.tile w.slot) s
    let f := s.foundAt d h
    if h.waits.all (s.waitMet d) && decide (f < (s.die d).wall + s.grainCycles d) then
      (s.countHold d (f + 2 - h.wall)).setDieState d dsRUNNING
    else s

/-- TAG_WAIT_TIMEOUT (R104): a hold longer than the limit aborts the die. -/
def State.holdTimeout (s : State) (d : Nat) : State :=
  let limit := s.fld (dsqB d) DSQ_TAGWAIT_LIMIT.LIMIT
  match (s.die d).hold with
  | none => s
  | some h =>
    if limit = 0 ∨ s.now ≤ h.since + limit then s
    else
      let info := s.reg (dsqB d + DSQ_WAIT_INFO.off)
      ((s.dsqEvent d DSQ_EVENTS.WAIT_TIMEOUT).log
        { status := stLATE, cls := 4, source := 1, unit := s.dieUnit d, peer := none, job := s.jobOf d,
          detail := [info &&& 0xFFFFFE00] }).abortDie d

end Sys2Proof.Machine
end

