-- ==== Sys2Proof/Machine/Operands.lean ====
section
/-! DEFINITION. Operand forms of the tile: formats by code (R109), matrix-operation descriptors and the bytes they
read (R75, R108, R578), and elements of vector buffers, banks and streams (R36, R133, R134, R145). -/

namespace Sys2Proof.Machine

/-- Format codes of R109. -/
def fmtOfCode : Nat → Option Fmt
  | 0 => some .b64
  | 1 => some .b32
  | 2 => some .bf16
  | 3 => some .b16
  | 4 => some .e5m2
  | 5 => some .e4m3
  | 6 => some .i8
  | 7 => some .e2m1
  | 8 => some .i4
  | 9 => some .q64
  | 10 => some .e8m0
  | _ => none

/-! ### Matrix operations -/

/-- A descriptor of the MATRIX_OPS section. -/
structure MmaDesc where
  fmt : Fmt
  scaled : Bool
  step : Bool
  round : Rnd
  aSrc : Nat
  wSrc : Nat
  m : Nat
  kStart : Nat
  k : Nat
  n : Nat
  aSlot : Nat
  aScaleSlot : Nat
  wSlot : Nat
  wScaleSlot : Nat
  aStride : Nat
  wStride : Nat
  deriving DecidableEq, Repr

/-- Reads the fields of a descriptor. Its STEP bit alone chooses STEP accumulation: the job's default in TSK_CFG.STEP changes no
operation, since the spec leaves open how the two combine (DESIGN CHOICE, log entry 36). -/
def mmaDesc (ws : List Word) : MmaDesc :=
  let w := fun i => (nthD (0 : Word) ws i).toNat
  { fmt := (fmtOfCode (bitsOf (w 0) 31 28)).getD .b32, scaled := bitOf (w 0) 23, step := bitOf (w 0) 21,
    round := (Rnd.ofCode (bitsOf (w 0) 20 18)).getD .rne, aSrc := bitsOf (w 0) 17 15, wSrc := bitsOf (w 0) 14 12,
    m := bitsOf (w 1) 31 20, kStart := bitsOf (w 1) 19 0, k := bitsOf (w 2) 31 15 + 1, n := bitsOf (w 2) 14 0,
    aSlot := bitsOf (w 3) 31 19, aScaleSlot := bitsOf (w 3) 18 6, wSlot := bitsOf (w 4) 31 19,
    wScaleSlot := bitsOf (w 4) 18 6, aStride := bitsOf (w 5) 31 16, wStride := bitsOf (w 5) 15 0 }

/-- Kc and Nc of R75. -/
def kcOf : Fmt → Nat
  | .e2m1 | .i4 => 128
  | .e4m3 | .e5m2 | .i8 => 64
  | .bf16 | .b16 => 32
  | _ => 16

def ncOf : Fmt → Nat
  | .b32 => 8
  | .b64 => 2
  | _ => 32

/-- Accumulator entries of a bank (R75). -/
def bankEntries (f : Fmt) : Nat := if f = .b64 then 4096 else 8192

/-- Λ of R83. -/
def latencyOf (f : Fmt) (step : Bool) : Nat :=
  (match f with
   | .b64 => 20
   | .b32 => 16
   | _ => 12) + (if step then 8 else 0)

def ceilDiv (a b : Nat) : Nat := (a + b - 1) / b

namespace MmaDesc

/-- Element bytes of one A row and of one W block, scales apart, and the scale bytes of each (R75). -/
def rowElems (x : MmaDesc) : Nat := kcOf x.fmt * x.fmt.width / 8
def blockElems (x : MmaDesc) : Nat := kcOf x.fmt * ncOf x.fmt * x.fmt.width / 8
def rowScales (x : MmaDesc) : Nat := if x.scaled then kcOf x.fmt / 32 else 0
def blockScales (x : MmaDesc) : Nat := if x.scaled then kcOf x.fmt / 32 * ncOf x.fmt else 0
def rowBytes (x : MmaDesc) : Nat := x.rowElems + x.rowScales
def blockBytes (x : MmaDesc) : Nat := x.blockElems + x.blockScales

/-- K blocks, N blocks and passes (R78). -/
def kBlocks (x : MmaDesc) : Nat := ceilDiv x.k (kcOf x.fmt)
def nBlocks (x : MmaDesc) : Nat := ceilDiv x.n (ncOf x.fmt)
def passes (x : MmaDesc) : Nat := x.kBlocks * x.nBlocks

/-- T0, Ts and the pass length of R83; `other` is what the mould gives the vector engine or the switch on the read
port during the operation. -/
def load0 (x : MmaDesc) : Nat := if x.wSrc = 0 then ceilDiv x.blockBytes 256 else ceilDiv x.blockBytes 128
def loadNext (x : MmaDesc) : Nat :=
  if x.wSrc = 0 then ceilDiv x.blockBytes (if x.aSrc = 0 then 256 - x.rowBytes else 256) else ceilDiv x.blockBytes 128
def passLen (x : MmaDesc) : Nat := max (if x.step then 4 * x.m else x.m) x.loadNext
/-- Cycles of the whole operation on a read port of its own (R84). -/
def cycles (x : MmaDesc) : Nat := x.load0 + x.passes * x.passLen + latencyOf x.fmt x.step

/-- Elements per byte (R578). -/
def perByte (x : MmaDesc) : Nat := if x.fmt.width = 4 then 2 else 1
/-- Bytes between the scale runs of rows and of blocks (R578). -/
def aScaleStride (x : MmaDesc) : Nat := x.aStride * x.perByte / 32
def wScaleStride (x : MmaDesc) : Nat := x.wStride * x.perByte / 32

/-- Byte ranges that the operation reads through the read port, as offset from the task's scratch base and length:
rows, row scales, blocks, block scales (R578, R83). -/
def readRanges (x : MmaDesc) : List (Nat × Nat) :=
  (if x.aSrc = 0 then
    (List.range x.m).flatMap fun i =>
      (x.aSlot * 256 + x.aStride * i, x.kBlocks * x.rowElems) ::
        (if x.scaled then [(x.aScaleSlot * 256 + x.aScaleStride * i, x.kBlocks * x.rowScales)] else [])
   else []) ++
  (if x.wSrc = 0 then
    (List.range x.passes).flatMap fun b =>
      (x.wSlot * 256 + x.wStride * b, x.blockElems) ::
        (if x.scaled then [(x.wScaleSlot * 256 + x.wScaleStride * b, x.blockScales)] else [])
   else [])

/-- Logical slots that the operation reads, without repeats. -/
def readSlots (x : MmaDesc) : List Nat :=
  (x.readRanges.flatMap fun r => List.range' (r.1 / 256) ((r.1 + r.2 - 1) / 256 + 1 - r.1 / 256)).eraseDups

end MmaDesc

/-! ### The schedule of an operation (R82-R84) -/

/-- A row of A enters the array in this cycle. -/
def MmaPos.row (x : MmaDesc) (m : MmaPos) : Bool :=
  match m.pass with
  | none => false
  | some p => decide (p < x.passes) && (if x.step then m.q % 4 == 0 && decide (m.q / 4 < x.m) else decide (m.q < x.m))

/-- A W block loads in this cycle. -/
def MmaPos.loads (x : MmaDesc) (m : MmaPos) : Bool :=
  decide (m.loaded < x.blockBytes) &&
    (match m.pass with
     | none => true
     | some p => decide (p + 1 < x.passes))

/-- Every pass is over. -/
def MmaPos.done (x : MmaDesc) (m : MmaPos) : Bool := m.pass == some x.passes

/-- The next cycle, after one in which the vector engine and the switch leave the read port `spare` bytes. -/
def MmaPos.next (x : MmaDesc) (m : MmaPos) (spare : Nat) : MmaPos :=
  let row := if x.aSrc = 0 ∧ m.pass.isSome then x.rowBytes else 0
  let loaded := m.loaded + (if m.loads x then (if x.wSrc = 0 then spare - row else 128) else 0)
  match m.pass with
  | none => if x.blockBytes ≤ loaded then ⟨0, some 0, 0⟩ else ⟨loaded, none, m.q⟩
  | some p =>
    let rows := if x.step then 4 * x.m else x.m
    let least := if p + 1 < x.passes then rows else max rows x.loadNext
    if least ≤ m.q + 1 ∧ (p + 1 = x.passes ∨ x.blockBytes ≤ loaded) then ⟨0, some (p + 1), 0⟩ else ⟨loaded, some p, m.q + 1⟩

/-! ### What a vector program moves in a cycle (R71, R140, R141) -/

/-- Elements that chunk `m` of an instruction holds. -/
def VSched.chunk (v : VSched) (m : Nat) : Nat := min v.rate (v.count - m * v.rate)

/-- Read and write port bytes of a vector program with the given S0 and plan in a cycle. -/
def vecPorts (s0 : Nat) (sched : List VSched) (c : Nat) : Nat × Nat :=
  sched.foldl (fun acc s =>
    let r := if s0 + s.s ≤ c ∧ c < s0 + s.s + s.c then (s.chunk (c - s0 - s.s) * s.rb + 31) / 32 else 0
    let w := if s0 + s.s + s.l ≤ c ∧ c < s0 + s.s + s.c + s.l then (s.chunk (c - s0 - s.s - s.l) * s.wb + 31) / 32 else 0
    (acc.1 + r, acc.2 + w)) (0, 0)

/-- Chunk `m` of the instruction takes a word of the switch local output. -/
def VSched.takes (s : VSched) (m : Nat) : Bool :=
  let words := fun (e : Nat) => (e * s.sbr + 4095) / 4096
  decide (words (m * s.rate) < words (min ((m + 1) * s.rate) s.count))

/-- Writing chunk `n` of the instruction places a word on the switch local input. -/
def VSched.puts (s : VSched) (n : Nat) : Bool :=
  decide (0 < s.sbw) &&
    (decide (n * s.rate * s.sbw / 4096 < min ((n + 1) * s.rate) s.count * s.sbw / 4096) || n + 1 == s.c)

/-- Entry `i` of MATRIX_OPS of tile `t` in the active slot. -/
def State.mmaWords (s : State) (d t i : Nat) : List Word :=
  match (s.active d).sec? 3 t with
  | none => []
  | some e => (leWords 4 ((s.active d).entry e 32 i)).map (BitVec.ofNat 32)

/-- Bytes of the task's scratch of tile `t` at a byte offset from its base (R166). -/
def State.taskBytes (s : State) (d t ofs n : Nat) : List Byte := readBytes s.mem (slotAddr d t (s.phys d 0) + ofs) n

/-! ### Banks and buffers (R130, R145) -/

/-- `n` bytes of a region of a tile (0-3 VB, 4 and 5 AB). -/
def TileX.bytes (x : TileX) (region ofs n : Nat) : List Byte := readBytes x.banks (region * 32768 + ofs) n
def TileX.putBytes (x : TileX) (region ofs : Nat) (bs : List Byte) : TileX :=
  { x with banks := writeBytes x.banks (region * 32768 + ofs) bs }

/-- Entry `e` of a bank whose entries have `w` bytes. -/
def TileX.entryOf (x : TileX) (region w e : Nat) : Nat := leNat (x.bytes region (e * w) w)
def TileX.setEntry (x : TileX) (region w e v : Nat) : TileX := x.putBytes region (e * w) (toBytes v w)

/-- Scalar register v and tracker a lie in VB3 (R130). -/
def TileX.vs (x : TileX) (v : Nat) : Nat := leNat (x.bytes 3 (32640 + 8 * v) 8)
def TileX.setVs (x : TileX) (v val : Nat) : TileX := x.putBytes 3 (32640 + 8 * v) (toBytes val 8)
def TileX.amx (x : TileX) (a : Nat) : Nat := leNat (x.bytes 3 (32704 + 4 * a) 4)
def TileX.setAmx (x : TileX) (a val : Nat) : TileX := x.putBytes 3 (32704 + 4 * a) (toBytes val 4)

/-! ### Packed elements (R36) -/

/-- Element `i` of a packed list of bytes. -/
def elemOf (f : Fmt) (bs : List Byte) (i : Nat) : Nat := elemAt f (nthD 0 bs) i

/-- Bytes that `n` packed elements occupy. -/
def packedLen (f : Fmt) (n : Nat) : Nat := (n * f.width + 7) / 8

/-- Packs codes into bytes; the spare half of a last byte of 4-bit elements comes from `old`. -/
def packElems (f : Fmt) (old : Byte) : List Nat → List Byte
  | [] => []
  | [c] => if f.width = 4 then [BitVec.ofNat 8 (c % 16 + old.toNat / 16 * 16)] else toBytes c (f.width / 8)
  | c :: e :: cs =>
    if f.width = 4 then BitVec.ofNat 8 (c % 16 + e % 16 * 16) :: packElems f old cs
    else toBytes c (f.width / 8) ++ (toBytes e (f.width / 8) ++ packElems f old cs)

end Sys2Proof.Machine
end

