-- ==== Sys2Proof/Machine/Descriptor.lean ====
section
/-! DEFINITION. Request descriptors of tiles and copy engines (R356-R358) and the conditions of R197 on them. -/

namespace Sys2Proof.Machine

/-- A request descriptor (R356). -/
structure ReqDesc where
  op : Nat
  flag : Bool
  fill : Bool
  counter : Bool
  combine : Bool
  aop : Nat
  size64 : Bool
  rsv : Nat
  len : Nat
  target : Nat
  source : Nat
  aux : Nat
  deriving DecidableEq, Repr

def reqDesc (ws : List Word) : ReqDesc :=
  let w := fun i => (nthD (0 : Word) ws i).toNat
  { op := bitsOf (w 0) 31 26, flag := bitOf (w 0) 25, fill := bitOf (w 0) 24, counter := bitOf (w 0) 23,
    combine := bitOf (w 0) 22, aop := bitsOf (w 0) 21 14, size64 := bitOf (w 0) 13, rsv := bitsOf (w 0) 12 0,
    len := w 1, target := w 2 + w 3 * 2 ^ 32, source := w 4 + w 5 * 2 ^ 32, aux := w 6 + w 7 * 2 ^ 32 }

def opREAD : Nat := 1
def opWRITE : Nat := 2
def opATOMIC : Nat := 3
def opCOPY : Nat := 4
def opFENCE : Nat := 5

/-- The home a global address reaches is a memory stack or the far tier; a scratch window. -/
def atMemory (a : Nat) : Bool :=
  match homeOf (gaLocal a) with
  | .stack _ _ => true
  | .far _ => true
  | _ => false

def atScratch (a : Nat) : Bool :=
  match homeOf (gaLocal a) with
  | .scratch _ _ => true
  | _ => false

/-- LENGTH within the range of R357; READ is for tiles alone. -/
def ReqDesc.lengthOk (x : ReqDesc) (tile : Bool) : Bool :=
  match x.op with
  | 1 => tile && decide (1 ≤ x.len) && decide (x.len ≤ 4096)
  | 2 => decide (1 ≤ x.len) && decide (x.len ≤ 256)
  | 3 =>
    if x.aop = 0x1B then decide (8 ≤ x.len) && decide (x.len ≤ 256) && x.len % (if x.size64 then 8 else 4) == 0
    else if x.aop = 0x31 then x.len == 16
    else x.len == 8
  | 4 => decide (1 ≤ x.len) && decide (x.len ≤ 2 ^ 30)
  | 5 => x.len == 0
  | _ => false

/-- R358: the package accepts the descriptor. -/
def ReqDesc.accepted (x : ReqDesc) (tile : Bool) : Bool :=
  x.lengthOk tile && x.rsv == 0 &&
  (!x.fill || (atScratch x.target && gaLocal x.target % 256 == 0 && x.len % 256 == 0)) &&
  (!x.counter || ((x.op == opWRITE || x.op == opCOPY) && x.aux % 8 == 0 && gaSpace x.aux == 0 && atMemory x.aux &&
    gaPlace x.aux == gaPlace x.target)) &&
  (x.op == opATOMIC || (x.aop == 0 && !x.size64 && !x.combine)) &&
  (x.op != opATOMIC || atomicKnown x.aop) &&
  (!x.combine || (!x.flag && x.aop != 0x1B && !(orderSensitive x.aop && x.aop != 0x18))) &&
  (x.op != opATOMIC || x.aop != 0x1B ||
    (x.target % (if x.size64 then 8 else 4) == 0 && decide (x.target % 256 + x.len ≤ 256))) &&
  (x.op != opWRITE || decide (x.target % 256 + x.len ≤ 256))

/-- R197: the request stores, copies and performs atomics only in the scratch window of its own die. -/
def ReqDesc.staysIn (x : ReqDesc) (place d : Nat) : Bool :=
  if x.op = opWRITE ∨ x.op = opATOMIC ∨ x.op = opCOPY then
    (match homeOf (gaLocal x.target) with
     | .scratch k _ => k == d && gaPlace x.target == place
     | _ => false) && !x.counter
  else true

/-- Entry `i` of REQUESTS of tile `t` in a slot. -/
def SlotX.reqWords (x : SlotX) (t i : Nat) : Option (List Word) :=
  match x.sec? 5 t with
  | none => none
  | some e => if i < e.count then some ((leWords 4 (x.entry e 32 i)).map (BitVec.ofNat 32)) else none

/-- A route word of tile `t` drives a link adapter (R88, R197). -/
def routeLeaves (t : Nat) (r : Word) : Bool :=
  (t % 32 == 31 && bitsOf r.toNat 11 9 != 0) || (t % 32 == 0 && bitsOf r.toNat 5 3 != 0) ||
    (decide (736 ≤ t) && bitsOf r.toNat 8 6 != 0)

/-- The first fault of R197 in a slot's image, in ascending tile number: reason, tile, entry. -/
def SlotX.leaves (x : SlotX) (place d : Nat) : Option (Nat × Nat × Nat) :=
  let tiles := (x.sections.filter fun e => e.ty == 2 || e.ty == 5)
  let faults := tiles.filterMap fun e =>
    (List.range e.count).findSome? fun i =>
      if e.ty = 2 then
        if routeLeaves e.tile (BitVec.ofNat 32 (leNat (x.entry e 4 i))) then some (0x9, e.tile, i) else none
      else
        if (reqDesc ((leWords 4 (x.entry e 32 i)).map (BitVec.ofNat 32))).staysIn place d then none
        else some (0xC, e.tile, i)
  faults.foldl (fun best f =>
    match best with
    | none => some f
    | some b => if f.2.1 < b.2.1 ∨ (f.2.1 = b.2.1 ∧ f.1 < b.1) then some f else best) none

/-- A write of TNM_SLOT_s (RWL; R197). -/
def State.writeTnmSlot (s : State) (d sl : Nat) (v : Word) : State :=
  let next := bitsOf v.toNat 1 0
  let bad := fun (i : Nat) => ((s.die d).slot i).leaves s.place d |>.isSome
  if s.dieRuns d then s.dieBusy d
  else if bitOf v.toNat 31 && (next == sl || bad sl || bad next) then
    s.log { status := stDENIED, cls := 2, source := 1, unit := s.dieUnit d, peer := none, job := s.jobOf d, detail := [] }
  else s.setReg (tnmB d sl + TNM_SLOT.off) (v &&& 0xE0000003)

/-- MOULD_LOAD into the slot must meet R197. -/
def State.mustStay (s : State) (d sl : Nat) : Bool :=
  s.flag (tnmB d sl) TNM_SLOT.ENABLE ||
    (List.range 4).any fun i => s.flag (tnmB d i) TNM_SLOT.ENABLE && s.fld (tnmB d i) TNM_SLOT.NEXT == sl

def execTnmSlotWrite (d : Fin 12) (slot : Fin 4) (v : Word) (s : State) : Host.Outcome State Fault Refusal :=
  .next (s.writeTnmSlot d slot v)

end Sys2Proof.Machine
end

