-- ==== Sys2Proof/Machine/Landing.lean ====
section
/-! DEFINITION. How a request completes at its source: what a tile's request lands in its slots (R96, R357), fences
(R353, R354), descriptors of copy engines (R366), core accesses (R210), accesses of commands and of host functions, and
requests of other places (R346-R348). -/

namespace Sys2Proof.Machine

/-! ### Tiles (R96, R162, R168, R357) -/

def TileX.req? (x : TileX) (id : Nat) : Option TileReq := x.reqs.find? fun r => r.id == id
def TileX.setReq (x : TileX) (r : TileReq) : TileX := { x with reqs := x.reqs.map fun q => if q.id = r.id then r else q }
def TileX.dropReq (x : TileX) (id : Nat) : TileX := { x with reqs := x.reqs.filter fun q => q.id != id }

/-- The request counts among the 512 of its tile until its last landing slot is FULL or POISON: for a READ the slot of its last
byte, though earlier slots may still wait for theirs (R96). -/
def TileReq.outstanding (r : TileReq) : Bool := !r.done.contains (r.lands - 1)

/-- A filling arrival in landing slot `i` of a request, dropped beyond the task's region at issue (R168). -/
def State.landSlot (s : State) (d t : Nat) (r : TileReq) (i : Nat) (data : List Byte) (poison : Bool) : State :=
  let p := r.first + i
  if r.limit ≤ p then s.scrDrop d t p s.place d else s.scrLand d t p 0 data true poison d

/-- Bytes that land in slot `i` of a request, and those of them that have come with their poison. -/
def TileReq.slotLen (r : TileReq) (i : Nat) : Nat := min 256 (r.len - 256 * i)
def TileReq.slotGot (r : TileReq) (i : Nat) : List (Nat × List Byte × Bool) := r.got.filter fun g => g.1 / 256 == i
def TileReq.slotFull (r : TileReq) (i : Nat) : Bool :=
  ((r.slotGot i).foldl (fun n g => n + g.2.1.length) 0) == r.slotLen i
def TileReq.slotData (r : TileReq) (i : Nat) : List Byte :=
  readBytes ((r.slotGot i).foldl (fun m g => writeBytes m g.1 g.2.1) []) (256 * i) (r.slotLen i)

/-- The journal class of a status that an access completes with (R548). -/
def failClass (st : Nat) : Nat := if st = stMEMBER_LOST then 4 else if st = stINTERNAL then 6 else 2

/-- A landing slot whose bytes failed: POISON and a journal entry with tile and slot (R357). -/
def State.landPoison (s : State) (d t : Nat) (r : TileReq) (i st : Nat) : State :=
  let p := r.first + i
  let s := s.log { status := st, cls := failClass st, source := 2, unit := s.tileUnit d t, peer := none, job := r.job,
                   detail := [slotDetail t p 0] }
  if r.limit ≤ p ∨ !s.domOn (domS d) then s.scrDrop d t p s.place d else s.setTagAt d t p .poison (s.die d).wall

/-- One part within a landing slot of what an access brings or fails to bring. -/
def landPart (d t : Nat) (rep : Reply) (x : State × TileReq) (part : Nat × Nat × Nat) : State × TileReq :=
  let i := part.1 / 256
  if x.2.done.contains i then x
  else if rep.status ≠ stOK then (x.1.landPoison d t x.2 i rep.status, { x.2 with done := i :: x.2.done })
  else
    let r := { x.2 with got := x.2.got ++ [(part.1, fitBytes part.2.1 (rep.data.drop part.2.2), rep.poison)] }
    if r.slotFull i then
      (x.1.landSlot d t r i (r.slotData i) ((r.slotGot i).any fun g => g.2.2), { r with done := i :: r.done })
    else (x.1, r)

/-- The completion word (R357). -/
def completionWord (status bytes : Nat) : List Byte := toBytes (status * 65536) 4 ++ toBytes bytes 4

/-- Counts an acknowledged write in its fence epoch (R354). -/
def addAck (acks : FMap (Nat × Nat)) (epoch status bytes : Nat) : FMap (Nat × Nat) :=
  let a := mapGet (stOK, 0) acks epoch
  mapPut acks epoch (max a.1 status, a.2 + bytes)

/-- Bytes that an acknowledgement counts: LENGTH of the access; none for a COUNTER atomic (R357, R360), nor for the write of an
old value to AUX (DESIGN CHOICE, log entry 41). -/
def ackBytes (op : Nat) : MemOp → Nat
  | .read _ => 0
  | .atomic _ _ x => if op = opATOMIC then x.length else 0
  | m => if op = opATOMIC then 0 else m.len

/-! ### The bytes of a copy (R294, R357, R359) -/

/-- The packets of a copy, which break at the 4 KiB boundaries of TARGET: address, length and offset (R359). -/
def copyPackets (a n : Nat) : List (Nat × Nat × Nat) := splitAt 4096 a n

/-- Parts of a piece within 64-byte sectors of the target. -/
def sectorParts (a n : Nat) : List (Nat × Nat × Nat) := splitAt 64 a n

/-- What has come of the bytes [ofs, ofs + n) of a source. -/
def SourceFetch.over (f : SourceFetch) (ofs n : Nat) : List (Nat × List Byte × Bool × Nat) :=
  f.got.filter fun g => overlaps g.1 g.2.1.length ofs n

/-- The status of reading some bytes of a source, and whether poison reaches them. -/
def SourceFetch.status (f : SourceFetch) (ofs n : Nat) : Nat := (f.over ofs n).foldl (fun m g => max m g.2.2.2) stOK
def SourceFetch.poisoned (f : SourceFetch) (ofs n : Nat) : Bool := (f.over ofs n).any fun g => g.2.2.1

/-- The bytes of a source that have come, by offset. -/
def SourceFetch.cells (f : SourceFetch) : List Host.Cell := f.got.foldl (fun m g => writeBytes m g.1 g.2.1) []

/-- One access of a copy or an engine's WRITE, with the status of reading its bytes. -/
def SourceFetch.part (f : SourceFetch) (flag : Bool) (p : Nat × Nat × Nat) : Req × Nat :=
  let bytes := readBytes f.cells p.2.2 p.2.1
  let op := match f.base.op with
    | .write _ => MemOp.write bytes
    | _ => MemOp.copyData bytes
  ({ f.base with addr := p.1, op := op, flag := flag, poison := f.poisoned p.2.2 p.2.1 }, f.status p.2.2 p.2.1)

/-- Where poison reaches a piece of the own place it goes sector by sector (R294). -/
def SourceFetch.split (f : SourceFetch) (ps : List (Nat × Nat × Nat)) : List (Nat × Nat × Nat) :=
  ps.flatMap fun p =>
    if f.poisoned p.2.2 p.2.1 then (sectorParts p.1 p.2.1).map fun q => (q.1, q.2.1, p.2.2 + q.2.2) else [p]

/-- The COUNTER atomic of R360. -/
def counterReq (base : Req) (aux : Nat) : Req :=
  { base with addr := gaLocal aux, op := .atomic 0x10 true (toBytes 1 8), flag := true, fill := false, combine := false,
              poison := false }

/-- The accesses of a request whose bytes have all come (R357, R359): a COPY in packets to another place and in pieces within
blocks at the own one, FLAG on its last packet; a WRITE or an ATOMIC in one access; then the COUNTER atomic. -/
def SourceFetch.accesses (f : SourceFetch) : List (Req × Nat) :=
  let b := f.base
  let own := b.dst == b.place
  let data := match b.op with
    | .atomic aop size64 _ =>
      [({ b with op := .atomic aop size64 (readBytes f.cells 0 f.len), flag := f.flag },
        if f.poisoned 0 f.len then stINTERNAL else f.status 0 f.len)]
    | .write _ =>
      ((if own then f.split [(b.addr, f.len, 0)] else [(b.addr, f.len, 0)]).map (f.part f.flag))
    | _ =>
      (copyPackets b.addr f.len).flatMap fun k =>
        (if own then f.split ((pieces k.1 k.2.1).map fun p => (p.1, p.2.1, k.2.2 + p.2.2)) else [k]).map
          (f.part (f.flag && decide (k.2.2 + k.2.1 = f.len)))
  match f.counter with
  | some aux => data ++ [(counterReq b aux, stOK)]
  | none => data

/-- A read of a source has come back. -/
def SourceFetch.take (f : SourceFetch) (ofs n : Nat) (rep : Reply) : SourceFetch :=
  { f with left := f.left - 1, got := f.got ++ [(ofs, fitBytes n rep.data, rep.poison, rep.status)] }

/-- The reads of a source, one for each 4,096 bytes at another place (R342), one for each sector at the own one (R294). -/
def SourceFetch.reads (f : SourceFetch) (src : Nat) (land : Nat → Landing) : List (Req × Nat) :=
  (splitAt (if gaPlace src = f.base.place then 64 else 4096) (gaLocal src) f.len).map fun p =>
    ({ f.base with dst := gaPlace src, addr := p.1, op := .read p.2.1, flag := false, fill := false, combine := false,
                   poison := false, land := land p.2.2 }, stOK)

/-- The bytes of a source are read as the request is issued: at the own place, unless a request of the agent is held there
(R352), and where the address is refused (R315). -/
def State.readsNow (s : State) (f : SourceFetch) (src : Nat) : Bool :=
  gaSpace src != 0 || !s.placeOk (gaPlace src) ||
    (gaPlace src == s.place && !s.fabric.held.any fun q => q.place == s.place && q.srcUnit == f.base.srcUnit)

/-- The bytes of a source at the own place, read now; a block that carries poison is read sector by sector (R294). A source in
no place of the shape answers DENIED (R315). -/
def State.readSource (s : State) (f : SourceFetch) (src : Nat) : State × SourceFetch :=
  let read := fun (x : State × SourceFetch) (p : Nat × Nat × Nat) =>
    let y := x.1.readWith { f.base with addr := 0 } (src + p.2.2) p.2.1
    (y.1, y.2, x.2.take p.2.2 p.2.1 y.2)
  (pieces (gaLocal src) f.len).foldl (fun x p =>
    let y := read x p
    if y.2.1.poison then
      (sectorParts p.1 p.2.1).foldl (fun x q => let z := read x (q.1, q.2.1, p.2.2 + q.2.2)
                                                (z.1, z.2.2)) (y.1, x.2)
    else (y.1, y.2.2)) (s, f)

/-- One access of a tile's request has completed. -/
def State.landTile (s : State) (d t id ofs : Nat) (op : MemOp) (rep : Reply) : State :=
  match (s.tile d t).req? id with
  | none => s
  | some r =>
    let n := if rep.status = stOK then ackBytes r.op op else 0
    let s := if op.writes then s.modTile d t fun x => { x with acks := addAck x.acks r.epoch rep.status n } else s
    let r := { r with left := r.left - 1, status := max r.status rep.status, bytes := r.bytes + n }
    if r.fetch then
      let y := (pieces ofs op.len).foldl (landPart d t rep) (s.modTile d t fun x => x.setReq r, r)
      y.1.modTile d t fun x => if (List.range y.2.lands).all y.2.done.contains then x.dropReq id else x.setReq y.2
    else if r.left = 0 then
      (s.modTile d t fun x => x.dropReq id).landSlot d t r 0 (completionWord r.status r.bytes) false
    else s.modTile d t fun x => x.setReq r

/-- A read of the SOURCE of a tile's copy has come back; after the last one its packets wait to be issued (R357). -/
def State.landTileSource (s : State) (d t id ofs n : Nat) (rep : Reply) : State :=
  match (s.tile d t).req? id with
  | none => s
  | some r =>
    match r.source with
    | none => s
    | some f =>
      let f := f.take ofs n rep
      if f.left = 0 then
        s.modTile d t fun x =>
          { x.setReq { r with source := none, left := f.accesses.length } with waiting := x.waiting ++ f.accesses }
      else s.modTile d t fun x => x.setReq { r with source := some f }

/-- The fence of a tile completes where no write issued before it is outstanding (R353, R354). -/
def State.tileFenceDone (s : State) (d t : Nat) : State :=
  let x := s.tile d t
  match x.reqs.find? fun r => r.op == opFENCE with
  | none => s
  | some r =>
    if x.reqs.any fun q => q.op != opFENCE && q.op != opREAD && decide (q.epoch ≤ r.epoch) then s
    else
      let a := mapGet (stOK, 0) x.acks r.epoch
      let s := s.modTile d t fun x => { x.dropReq r.id with acks := x.acks.filter fun e => decide (r.epoch < e.1) }
      s.landSlot d t r 0 (completionWord a.1 a.2) false

/-! ### Copy engines (R354, R366) -/

def State.setDesc (s : State) (e id : Nat) (f : CopyDesc → CopyDesc) : State :=
  s.modCopy e fun x => { x with running := x.running.map fun c => if c.id = id then f c else c }

/-- The protection of the COPY command that brought a descriptor (R466). -/
def Submit.grant (q : Submit) : Option Grant := q.cmd.bind fun c => c.1.grant

/-- An access of an engine with the rights and security state of its submitter (R256, R366, R466). -/
def State.submitReq (s : State) (e : Agent) (sub : Submit) (addr : Nat) (op : MemOp) : Req :=
  { s.reqOf e sub.job addr op with chan := sub.chan, secure := sub.secure, grant := sub.grant }

/-- Bytes at a global address as an engine reads them for a submitter. -/
def State.engineRead (s : State) (e : Agent) (sub : Submit) (ga n : Nat) : State × Reply :=
  s.readWith (s.submitReq e sub 0 (.read n)) ga n

/-- A write at a global address by an engine of the package for a submitter: at once at the own place, as requests of R344 to
another, of which no answer is awaited. -/
def State.engineWrite (s : State) (e : Agent) (sub : Submit) (ga : Nat) (data : List Byte) : State × Reply :=
  s.writeWith (s.submitReq e sub 0 (.write data)) ga

/-- The job that accesses of an agent run under: the task's on a compute die, else the session's of its channel
(DESIGN CHOICE, log entry 17: the spec names none). -/
def State.agentJob (s : State) (who : Agent) : Nat :=
  match who with
  | .tile d _ => s.jobOf d
  | .dieSeq d => s.jobOf d
  | who =>
    match s.agentChan who with
    | some n => s.sessionJob n
    | none => 0

/-- A submission by an agent. -/
def State.submission (s : State) (who : Agent) (addr : Nat) : Submit :=
  { addr := addr, chan := s.agentChan who, secure := s.agentSecure who, job := s.agentJob who, cmd := none }

/-- R272, R367: an engine's block takes writes from the cores of its die and the package controller. -/
def enginesWriter (die : Nat) : Agent → Bool
  | .core c => 12 + c / 64 == die
  | .pkc => true
  | _ => false

/-- R272: any other write is dropped and logged. -/
def State.writeDenied (s : State) (who : Agent) (source unit off : Nat) : State :=
  s.logRefused stDENIED source unit (agentPlace s who) 0 [BitVec.ofNat 32 off]

/-- The writes of an old value to AUX, which the descriptor waits for as for its other writes (R357, R366). -/
def State.auxWrites (s : State) (e id : Nat) (c : CopyDesc) (op : MemOp) (rep : Reply) : List (Req × Nat) :=
  match c.old, op with
  | some aux, .atomic _ _ _ =>
    if rep.status = stOK then
      [({ s.submitReq (.copy e) c.sub (gaLocal aux) (.write rep.data) with dst := gaPlace aux, poison := rep.poison,
                                                                           land := .copy e id }, stOK)]
    else []
  | _, _ => []

/-- One access of a copy descriptor has completed; an old value goes to AUX (R357). -/
def State.landCopy (s : State) (e id : Nat) (op : MemOp) (rep : Reply) : State :=
  match (s.copy e).running.find? fun c => c.id == id with
  | none => s.modCopy e fun x => { x with out := x.out - 1 }
  | some c =>
    let n := if rep.status = stOK then ackBytes c.op op else 0
    let aux := s.auxWrites e id c op rep
    let s := s.modCopy e fun x =>
      { x with acks := addAck x.acks c.epoch rep.status n, out := x.out - 1, waiting := x.waiting ++ aux }
    s.setDesc e id fun c =>
      { c with left := c.left - 1 + aux.length, status := max c.status rep.status, bytes := c.bytes + n }

/-- A read of the SOURCE of a copy descriptor has come back; after the last one its packets wait to be issued (R357). -/
def State.landCopySource (s : State) (e id ofs n : Nat) (rep : Reply) : State :=
  let s := s.modCopy e fun x => { x with out := x.out - 1 }
  match (s.copy e).running.find? fun c => c.id == id with
  | none => s
  | some c =>
    match c.source with
    | none => s
    | some f =>
      let f := f.take ofs n rep
      if f.left = 0 then
        (s.modCopy e fun x => { x with waiting := x.waiting ++ f.accesses }).setDesc e id fun c =>
          { c with source := none, left := f.accesses.length }
      else s.setDesc e id fun c => { c with source := some f }

/-- An access of a solver engine to another place is answered; a write that is not acknowledged OK ends its batch with DENIED
(R256). -/
def State.landSolver (s : State) (e : Nat) (op : MemOp) (rep : Reply) : State :=
  s.modSolver e fun x => { x with out := x.out - 1, denied := x.denied || (op.writes && rep.status != stOK) }

/-! ### Requests of other places (R346-R348) -/

/-- A packet of a class from this fabric die (R319). -/
def State.packet (s : State) (tc kind dst seq : Nat) (job : Word) (payload : List Byte) : Packet :=
  { tc := tc, hops := 0, detour := false, member := false, kind := kind, length := payload.length, dst := dst,
    src := s.place, via := 0, epoch := s.epoch, seq := seq, srcDie := 14, srcUnit := 0, job := job, space := 0, addr := 0,
    word7 := 0, payload := payload, rsv := false }

def sameIn (key : Nat) (q : InReq) : Bool := q.key == key

/-- The bytes that the pieces of a remote request brought, in order. -/
def InReq.bytes (q : InReq) : List Byte :=
  let n := q.data.foldl (fun n g => n + g.2.length) 0
  readBytes (q.data.foldl (fun m g => writeBytes m g.1 g.2) []) 0 n

/-- Acknowledges a remote write to each source it names; a status other than OK is kept for duplicates (R346, R347). -/
def State.ackSources (s : State) (q : InReq) : State :=
  let note := fun (m : FMap Window) (e : Nat × Nat) =>
    let w := mapGet ⟨0, [], []⟩ m e.1
    mapPut m e.1 { w with bad := mapPut w.bad e.2 q.status }
  let acks := q.sources.map fun e => (e.1, e.2, q.status, s.now)
  let windows := if q.status = stOK then s.fabric.windows else q.sources.foldl note s.fabric.windows
  { s with fabric := { s.fabric with acks := s.fabric.acks ++ acks, windows := windows } }

/-- A remote request has been applied: a READ_RESP (R346), an ATOMIC_RESP whose value stays in the response store (R348),
or acknowledgements (R347). A failed access returns no bytes. -/
def State.inReqDone (s : State) (q : InReq) : State :=
  let r := q.req
  let job := BitVec.ofNat 32 r.job
  match r.op with
  | .read _ => s.inject { s.packet 2 0x02 r.place r.seq job (if q.status = stOK then q.bytes else []) with
                            status := q.status, poison := q.poison }
  | .atomic aop _ _ =>
    if atomicReturns aop then
      let p := { s.packet 2 0x06 r.place r.seq job (if q.status = stOK then q.bytes else []) with
                   status := q.status, poison := q.poison }
      ({ s with fabric := { s.fabric with resp := s.fabric.resp ++ [(r.place, r.seq, p)] } }).inject p
    else s.ackSources q
  | _ => s.ackSources q

/-- A piece of a remote request has been applied at its home. -/
def State.landRemote (s : State) (key ofs : Nat) (rep : Reply) : State :=
  match s.fabric.applying.find? (sameIn key) with
  | none => s
  | some q =>
    let q := { q with left := q.left - 1, status := max q.status rep.status, data := q.data ++ [(ofs, rep.data)],
                      poison := q.poison || rep.poison }
    if q.left = 0 then
      ({ s with fabric := { s.fabric with applying := s.fabric.applying.filter fun p => !sameIn key p } }).inReqDone q
    else
      { s with fabric := { s.fabric with applying := s.fabric.applying.map fun p => if sameIn key p then q else p } }

/-! ### Window requests of host functions (R522-R524) -/

/-- A fault that the host port reports: the journal with the function number, and AER (R524). -/
def State.hostFault (s : State) (fn err status : Nat) : State :=
  let s := s.logRefused status 10 (s.dieUnit 14) s.place 0 [BitVec.ofNat 32 fn]
  { s with host := { s.host with aer := s.host.aer ++ [(fn, err)] } }

/-- Unsupported Request. -/
def State.hostUR (s : State) (fn : Nat) : State := (s.bump hstB HST_UR_COUNT.COUNT).hostFault fn 0 stDENIED

/-- Completer Abort. -/
def State.hostCA (s : State) (fn status : Nat) : State := (s.bump hstB HST_CA_COUNT.COUNT).hostFault fn 1 status

/-- An answer to the host. -/
def State.hostAnswer (s : State) (fn status : Nat) (poison : Bool) (bytes : List Byte) : State :=
  { s with host := { s.host with answers := s.host.answers ++ [(fn, status, poison, bytes)] } }

/-- The bytes that a read brought. -/
def HostReq.bytes (r : HostReq) : List Byte :=
  readBytes (r.data.foldl (fun m g => writeBytes m g.1 g.2) []) 0 r.len

/-- A window request completes. -/
def State.hostEnd (s : State) (r : HostReq) : State :=
  let s := { s with host := { s.host with posted := s.host.posted.filter fun q => q.id != r.id } }
  if r.status ≠ stOK then
    let s := s.hostCA r.fn r.status
    if r.write then s else s.hostAnswer r.fn r.status false []
  else if r.write then s
  else if r.poison then
    ((s.bump hstB HST_POISON_COUNT.COUNT).logRefused stINTERNAL 10 (s.dieUnit 14) s.place 0 [BitVec.ofNat 32 r.fn]).hostAnswer
      r.fn stOK true r.bytes
  else s.hostAnswer r.fn stOK false r.bytes

/-- Completes what a function's requests let: a read only after every earlier posted write of the function (R523). -/
def State.hostSettle (s : State) (fn : Nat) : State :=
  ((s.host.posted.filter fun r => r.fn == fn).foldl (fun (x : State × Bool) r =>
    if r.left ≠ 0 then (x.1, x.2 || r.write)
    else if !r.write && x.2 then x
    else (x.1.hostEnd r, x.2)) (s, false)).1

/-- A piece of a window request has been applied. -/
def State.landHost (s : State) (fn id ofs : Nat) (rep : Reply) : State :=
  let note := fun (r : HostReq) =>
    if r.id = id then
      { r with left := r.left - 1, status := max r.status rep.status, poison := r.poison || rep.poison,
               data := r.data ++ [(ofs, rep.data)] }
    else r
  ({ s with host := { s.host with posted := s.host.posted.map note } }).hostSettle fn

/-! ### Every source -/

/-- Changes what this package keeps of a job's strata. -/
def State.modStrata (s : State) (job : Nat) (f : StrJob → StrJob) : State :=
  { s with strata := mapPut s.strata job (f (mapGet StrJob.init s.strata job)) }

/-- Changes the open stratum of a job. -/
def State.modOpen (s : State) (job : Nat) (f : StrOpen → StrOpen) : State :=
  s.modStrata job fun x => { x with current := x.current.map f }

/-- A write for a job's stratum is acknowledged (R427). -/
def State.landStratum (s : State) (job : Nat) (rep : Reply) : State :=
  if (mapGet? s.strata job).isNone then s
  else s.modOpen job fun o => { o with writes := o.writes - 1, writeStatus := max o.writeStatus rep.status }

/-- A status that is not OK of a write that a core issued is logged with the core's number (R354). -/
def State.landCoreWrite (s : State) (c : Nat) (r : Req) (rep : Reply) : State :=
  let s := s.modCore c fun x =>
    if (mapGet? x.sent r.id).isSome then { x with sent := mapErase x.sent r.id } else { x with atomics := x.atomics - 1 }
  if rep.status = stOK then s
  else s.log { status := rep.status, cls := failClass rep.status, source := 9, unit := s.dieUnit (12 + c / 64), peer := none,
               job := r.job, detail := [BitVec.ofNat 32 c] }

/-- A request completes at its source. -/
def State.landReq (s : State) (r : Req) (rep : Reply) : State :=
  match r.land with
  | .none => s
  | .tile d t id ofs => s.landTile d t id ofs r.op rep
  | .core c id => s.modCore c fun x =>
    if (mapGet? x.loads id).isSome then { x with replies := mapPut x.replies id (rep.status, rep.data, rep.poison) } else x
  | .coreWrite c => s.landCoreWrite c r rep
  | .copy e id => s.landCopy e id r.op rep
  | .pkc h op => s.partDone h op (reqPart r.id) (if rep.poison then stINTERNAL else rep.status) (bytesToWords64 rep.data)
  | .host fn id ofs => s.landHost fn id ofs rep
  | .remote key ofs => s.landRemote key ofs rep
  | .tileSource d t id ofs => s.landTileSource d t id ofs r.op.len rep
  | .copySource e id ofs => s.landCopySource e id ofs r.op.len rep
  | .solver e => s.landSolver e r.op rep
  | .stratum job => s.landStratum job rep

/-- Issues numbered accesses in order (R343, R352): to the own place's homes, where some complete at once, or to the
fabric die, where the rights let it leave (R493). -/
def State.issueReqs (s : State) (rs : List Req) : State :=
  rs.foldl (fun s r =>
    let n := s.number r
    if r.dst = s.place then
      let y := n.1.submit n.2
      match y.2 with
      | some rep => y.1.landReq n.2 rep
      | none => y.1
    else if n.1.leaves n.2 then n.1.enqueueFabric n.2
    else n.1.landReq n.2 Reply.denied) s

/-- Issues accesses in order; one whose bytes could not be read completes with the status of that read. -/
def State.issueAccesses (s : State) (rs : List (Req × Nat)) : State :=
  rs.foldl (fun s r => if r.2 = stOK then s.issueReqs [r.1] else s.landReq r.1 ⟨r.2, [], false⟩) s

/-! ### What an agent's limit holds back (R340, R341) -/

/-- A tile issues what its requests have waiting; answers that come at once may bring more. -/
def State.pumpTile (d t : Nat) : Nat → State → State
  | 0, s => s
  | n + 1, s =>
    match (s.tile d t).waiting with
    | [] => s
    | ws => State.pumpTile d t n ((s.modTile d t fun x => { x with waiting := [] }).issueAccesses ws)

/-- A copy engine issues in order while fewer than 512 of its packets are outstanding. -/
def State.pumpCopy (e : Nat) : Nat → State → State
  | 0, s => s
  | n + 1, s =>
    match (s.copy e).waiting with
    | [] => s
    | w :: ws =>
      if 512 ≤ (s.copy e).out then s
      else State.pumpCopy e n ((s.modCopy e fun x => { x with waiting := ws, out := x.out + 1 }).issueAccesses [w])

/-- A solver engine issues its accesses to other places in order, 512 outstanding at most. -/
def State.pumpSolver (e : Nat) : Nat → State → State
  | 0, s => s
  | n + 1, s =>
    match (s.solver e).waiting with
    | [] => s
    | w :: ws =>
      if 512 ≤ (s.solver e).out then s
      else State.pumpSolver e n ((s.modSolver e fun x => { x with waiting := ws, out := x.out + 1 }).issueAccesses [w])

/-- A copy engine, and a solver engine, issue what they may. -/
def State.runCopy (s : State) (e : Nat) : State := State.pumpCopy e (2 * (s.copy e).waiting.length + 1) s
def State.runSolver (s : State) (e : Nat) : State := State.pumpSolver e (s.solver e).waiting.length s

/-- The agent of a request that has completed issues what waited for it (R341). -/
def State.goesOn (s : State) (land : Landing) : State :=
  match land with
  | .tile d t _ _ => State.pumpTile d t 2 s
  | .tileSource d t _ _ => State.pumpTile d t 2 s
  | .copy e _ => s.runCopy e
  | .copySource e _ _ => s.runCopy e
  | .solver e => s.runSolver e
  | _ => s

/-! ### The stack controllers and the far-tier port at work (R279, R298) -/

/-- The oldest answer that has not left a home, of those that `p` selects. -/
def takeFirst {α : Type} (p : α → Bool) (l : List α) : Option (α × List α) :=
  match l.find? p with
  | none => none
  | some a => some (a, dropFirst p l)

/-- A pseudo-channel applies its oldest operation and answers it; one that waits for a reserve granule stays in front (R288).
Where an operation was applied before, its answer leaves. -/
def State.applyStack (s : State) (k pc : Nat) : State :=
  match takeFirst (fun a => pseudoChannel (a.1.addr - stackAddr k 0) == pc) (s.stack k).answers with
  | some (a, left) => ((s.modStack k fun x => { x with answers := left }).landReq a.1 a.2).goesOn a.1.land
  | none =>
    match mapGet [] (s.stack k).queues pc with
    | [] => s
    | r :: rest =>
      let y := s.stackApply k r rest
      match y.2 with
      | none => y.1
      | some rep => ((y.1.modStack k fun x => { x with queues := mapPut x.queues pc rest }).landReq r rep).goesOn r.land

def execStackOpApply (k : Fin 12) (pc : Fin 64) (s : State) : Host.Outcome State Fault Refusal := .next (s.applyStack k pc)

/-- One sweep of a stack's scrubber (R295). -/
def State.scrubStack (s : State) (k : Nat) (struck : List Upset) : State :=
  let mine := struck.filter fun u => decide (stackAddr k 0 ≤ u.unit * 64) && decide (u.unit * 64 < stackAddr (k + 1) 0)
  let s := s.modStack k fun x => { x with upsets := x.upsets ++ mine }
  if s.flag (memB k) MEM_SCRUB.ENABLE && s.domOn (domM k) then s.meetStackUpsets k fun _ => true else s

def execMemScrub (k : Fin 12) (struck : List Upset) (s : State) : Host.Outcome State Fault Refusal :=
  .next (s.scrubStack k struck)

/-- The far-tier port applies the oldest access of a device and answers it, with poison where the device indicates it (R300).
Where an access was applied before, its answer leaves. -/
def State.applyFar (s : State) (dev : Nat) (poison : Bool) : State :=
  match takeFirst (fun a => a.1 == dev) s.far.answers with
  | some (a, left) => (({ s with far := { s.far with answers := left } }).landReq a.2.1 (a.2.2.cxl poison)).goesOn a.2.1.land
  | none =>
    match mapGet [] s.far.queues dev with
    | [] => s
    | r :: rest =>
      let y := s.farApply dev r rest
      (({ y.1 with far := { y.1.far with queues := mapPut y.1.far.queues dev rest } }).landReq r (y.2.cxl poison)).goesOn r.land

def execFarTierAccess (x : FarAnswer) (s : State) : Host.Outcome State Fault Refusal := .next (s.applyFar x.dev x.poison)

end Sys2Proof.Machine
end

