-- ==== Sys2Proof/Machine/Cores.lean ====
section
/-! DEFINITION. Control cores (chapter 9): registers and levels (R202, R203), loads, stores and atomics through the die's
caches (R204-R208, R212, R216), fences (R209, R210), invalidation (R211-R214), system instructions (R217) and
interrupts (R218-R220). A core's addresses are global addresses (R315); an instruction is executed by a core that
is RUNNING and waits for no FENCE.G. -/

namespace Sys2Proof.Machine

/-! ### Registers and levels -/

def State.coreState (s : State) (c : Nat) : Nat := s.fld (cpcB c) CPC_STATUS.STATE
def csHELD : Nat := 0
def csRUNNING : Nat := 1
def csWAITING : Nat := 2
def csINVALIDATING : Nat := 3
def State.setCoreState (s : State) (c v : Nat) : State := s.setFld (cpcB c) CPC_STATUS.STATE v
def State.corePl (s : State) (c : Nat) : Nat := s.fld (cpcB c) CPC_STATUS.PL
/-- SECURE reads 1 exactly while PL is 2 (R203). -/
def State.setPl (s : State) (c pl : Nat) : State :=
  (s.setFld (cpcB c) CPC_STATUS.PL pl).setFld (cpcB c) CPC_STATUS.SECURE (bit1 (pl == 2))

/-- g0 reads zero (R202). -/
def State.greg (s : State) (c n : Nat) : Word64 := if n = 0 then 0 else mapGet 0 (s.core c).g n
/-- A write of g0 is ignored (R202). -/
def State.setGreg (s : State) (c n : Nat) (v : Word64) : State :=
  if n = 0 then s else s.modCore c fun x => { x with g := mapSet 0 x.g n v }

def State.advance (s : State) (c : Nat) : State := s.modCore c fun x => { x with pc := (x.pc + 4) % 2 ^ 64 }

/-- The core executes its own instructions: a redo of R263 has not borrowed it. -/
def State.coreRuns (s : State) (c : Nat) : Bool :=
  s.coreState c == csRUNNING && !(s.core c).fencing && s.domOn (domK c) && (s.core c).lent.isNone

/-- An instruction other than a load executes once the loads before it have their values, since each may still take POISON at
its place in the program (R216). -/
def State.coreReady (s : State) (c : Nat) : Bool := s.coreRuns c && (s.core c).loads.isEmpty

/-- Where the core stands: at its oldest load without a value, else at its next instruction. -/
def CoreX.at (x : CoreX) : Nat :=
  match x.loads with
  | [] => x.pc
  | l :: _ => l.2.pc

/-- Loads without a value are executed again later; a line that they asked for goes to no one. -/
def CoreX.squash (x : CoreX) : CoreX :=
  let kept := x.loads.filter fun l => l.2.atomic
  { x with loads := kept, replies := x.replies.filter fun r => (mapGet? kept r.1).isSome, noInstall := [], vfill := [] }

def causeILLEGAL : Nat := 0x100
def causeACCESS : Nat := 0x101
def causePOISON : Nat := 0x102
def causeTRANSLATION : Nat := 0x103
def causeGATE : Nat := 0x104
def causeNMI : Nat := 0x105

/-- Enters a level at one of its fixed entries, saving the level and address (R203); loads after that address are squashed. A core
that waits runs again. -/
def State.enterLevel (s : State) (c pl entry pc cause : Nat) : State :=
  let s := s.modCore c fun x =>
    { x.squash with savedPl := s.corePl c, savedPc := pc, pc := (Config.coreEntry entry).toNat, cause := cause }
  let s := s.setPl c pl
  if s.coreState c = csWAITING then s.setCoreState c csRUNNING else s

/-- A synchronous exception: to PL1, or at PL2 to PL2, since only ERET returns to a lower level (R203, R204, R216; log
entry 19). -/
def State.coreException (s : State) (c pc cause : Nat) : State :=
  let pl := max 1 (s.corePl c)
  s.enterLevel c pl pl pc cause

/-! ### System instructions (R209-R217) -/

def sysFn (w : Word) : Nat := bitsOf w.toNat 15 0
def sysA (w : Word) : Nat := bitsOf w.toNat 25 21
def sysB (w : Word) : Nat := bitsOf w.toNat 20 16
def sysKnown (fn : Nat) : Bool := [0x1, 0x2, 0x10, 0x11, 0x12, 0x20, 0x30, 0x31, 0x40].contains fn

/-- A system instruction of function `fn`: ILLEGAL for an unknown function or a nonzero register field that the function
does not use (R217), else `f`, which moves past it. A word of another instruction has no effect here. -/
def State.sysInstr (s : State) (c : Nat) (w : Word) (fn : Nat) (useA useB : Bool) (f : State → State) : State :=
  if !s.coreReady c || bitsOf w.toNat 31 26 != 0x3E then s
  else if !sysKnown (sysFn w) then s.coreException c (s.core c).pc causeILLEGAL
  else if sysFn w != fn then s
  else if (!useA && sysA w != 0) || (!useB && sysB w != 0) then s.coreException c (s.core c).pc causeILLEGAL
  else f s

/-! ### The die's caches and the write buffers (R205-R208, R212) -/

/-- Control space is not cached. -/
def cacheable (a : Nat) : Bool :=
  match homeOf (gaLocal a) with
  | .control _ => false
  | _ => true

/-- The bytes of a cached line that cover an access. -/
def State.lineHit (s : State) (c a n : Nat) : Option (List Byte) :=
  (mapGet? (s.proc (12 + c / 64)).lines (a / 128)).map fun bs => (bs.drop (a % 128)).take n

/-- Fills under way of the lines that `hit` selects, on the cores of die `d`, are not installed (R205, R212). -/
def State.staleFills (s : State) (d : Nat) (hit : Nat → Bool) : State :=
  { s with cores := s.cores.map fun e =>
      if 12 + e.1 / 64 = d then
        (e.1, { e.2 with noInstall := e.2.noInstall ++
          (e.2.loads.filter fun (l : Nat × CoreLoad) => l.2.line && hit (l.2.addr / 128)).map fun l => l.1 })
      else e }

/-- A store updates the copy of its line that the die holds, and what is on its way to the die is older than it (R205, R206). -/
def State.updateLine (s : State) (d a : Nat) (bs : List Byte) : State :=
  let s := s.staleFills d fun k => k == a / 128
  let x := s.proc d
  match mapGet? x.lines (a / 128) with
  | none => s
  | some old =>
    let new := readBytes (writeBytes (writeBytes [] 0 old) (a % 128) bs) 0 128
    s.setProc d { x with lines := mapPut x.lines (a / 128) new }

/-- An access of a core to a global address. -/
def State.coreReq (s : State) (c a : Nat) (op : MemOp) (land : Landing) : Req :=
  { s.reqOf (.core c) (s.agentJob (.core c)) (gaLocal a) op with dst := gaPlace a, land := land }

/-- Issues an access of a core; one to a reserved space or outside the shape completes with DENIED (R315). -/
def State.issueCore (s : State) (a : Nat) (r : Req) : State :=
  if gaSpace a ≠ 0 ∨ !s.placeOk (gaPlace a) then
    let n := s.number r
    n.1.landReq n.2 Reply.denied
  else s.issueReqs [r]

/-- A store of a core leaves for its home, and its acknowledgement is awaited (R206, R210). -/
def State.sendStore (s : State) (c a : Nat) (secure : Bool) (bs : List Byte) : State :=
  let id := s.fabric.nextReq
  let s := s.modCore c fun x => { x with sent := x.sent ++ [(id, a / 128)] }
  s.issueCore a { s.coreReq c a (.write bs) (.coreWrite c) with secure := secure }

/-- The runs of stored bytes from address `a` on. -/
def byteRuns (a : Nat) : List (Option Byte) → List (Nat × List Byte)
  | [] => []
  | none :: r => byteRuns (a + 1) r
  | some b :: r =>
    match byteRuns (a + 1) r with
    | (a', bs) :: more => if a' = a + 1 then (a, b :: bs) :: more else (a, [b]) :: (a', bs) :: more
    | [] => [(a, [b])]

/-- A merged line leaves the write buffer; the copies of the line that the die filled meanwhile take its bytes (R205, R206). -/
def State.sendLine (c : Nat) (s : State) (w : BufLine) : State :=
  (byteRuns (w.line * 128) w.bytes).foldl (fun s r => (s.updateLine (12 + c / 64) r.1 r.2).sendStore c r.1 w.secure r.2) s

/-- The core sends its write buffer. -/
def State.sendStores (s : State) (c : Nat) : State :=
  (s.core c).wbuf.foldl (State.sendLine c) (s.modCore c fun x => { x with wbuf := [] })

/-- Every core sends its write buffer. -/
def State.sendAllStores (s : State) : State :=
  s.cores.foldl (fun s e => if e.2.wbuf = [] then s else s.sendStores e.1) s

/-- Lines that the core stored to and that are not yet acknowledged (R206, R340). -/
def CoreX.storeLines (x : CoreX) : List Nat := ((x.wbuf.map fun w => w.line) ++ x.sent.map fun e => e.2).eraseDups

/-- The write buffer takes a store to the line at once (R206): its lines, and those not yet acknowledged, are 32 at most (R340). -/
def CoreX.takesLine (x : CoreX) (line : Nat) : Bool := x.storeLines.contains line || decide (x.storeLines.length < 32)

/-- Stores merge in a line of the buffer (R206). -/
def CoreX.buffer (x : CoreX) (secure : Bool) (a : Nat) (bs : List Byte) : CoreX :=
  let put := fun (old : List (Option Byte)) =>
    (List.range 128).map fun i => if a % 128 ≤ i ∧ i < a % 128 + bs.length then some (nthD 0 bs (i - a % 128)) else nthD none old i
  if x.wbuf.any fun w => w.line == a / 128 && w.secure == secure then
    { x with wbuf := x.wbuf.map fun w =>
        if w.line = a / 128 ∧ w.secure = secure then { w with bytes := put w.bytes } else w }
  else { x with wbuf := x.wbuf ++ [⟨a / 128, secure, put (List.replicate 128 none)⟩] }

/-- A store within a line: into the write buffer and the die's copy (R206); one to control space leaves at once. -/
def State.coreWrite (s : State) (c a : Nat) (bs : List Byte) : State :=
  if cacheable a then (s.updateLine (12 + c / 64) a bs).modCore c fun x => x.buffer (s.coreSecure c) a bs
  else s.sendStore c a (s.coreSecure c) bs

/-- A load of core `c` may ask for a line: no other core of the die has a store to it on its way to another place, where the
line could be read before that store is applied (R205). -/
def State.lineFree (s : State) (c a : Nat) : Bool :=
  gaPlace a == s.place ||
    !s.cores.any fun e => e.1 != c && e.1 / 64 == c / 64 && e.2.sent.any fun w => w.2 == a / 128

/-- What the core itself still holds of a line leaves before it is read (R208). -/
def State.sendOwn (s : State) (c a : Nat) : State :=
  if (s.core c).wbuf.any fun w => w.line == a / 128 then s.sendStores c else s

/-! ### Fences (R209, R210) -/

/-- FENCE.L (R209): the core's stores go to their homes, where the other cores and the engines of the die see them. -/
def execFenceL (c : Fin 128) (w : Word) (s : State) : Host.Outcome State Fault Refusal :=
  .next (s.sysInstr c w 0x0001 false false fun s => (s.advance c).sendStores c)

/-- Every earlier store and atomic of the core has been acknowledged (R210). -/
def CoreX.drained (x : CoreX) : Bool :=
  x.wbuf.isEmpty && x.sent.isEmpty && x.atomics == 0 && !(x.loads.any fun e => e.2.atomic)

/-- FENCE.G (R210): complete at once, or the core waits. -/
def execFenceG (c : Fin 128) (w : Word) (s : State) : Host.Outcome State Fault Refusal :=
  .next (s.sysInstr c w 0x0002 false false fun s =>
    ((s.advance c).sendStores c).modCore c fun x => { x with fencing := !x.drained })

def execFenceGComplete (c : Fin 128) (s : State) : Host.Outcome State Fault Refusal :=
  .next (if (s.core c).drained then s.modCore c fun x => { x with fencing := false } else s)

/-! ### Invalidation (R211-R214) -/

/-- The lines of `n` bytes from `a` on, as first and last; none for no bytes. -/
def lineSpan (a n : Nat) : Option (Nat × Nat) := if n = 0 then none else some (a / 128, (a + n - 1) / 128)

/-- Invalidation of the lines that `hit` selects in the caches of die `d`: they are gone, and fills under way are not
installed (R212). -/
def State.invalidate (s : State) (d : Nat) (hit : Nat → Bool) : State :=
  let x := s.proc d
  (s.setProc d { x with lines := x.lines.filter fun e => !hit e.1 }).staleFills d hit

/-- Core cycles of an invalidation (R213): of one line, of a range by its lines, of everything. -/
def invlCycles : Nat := 4
def invrCycles (lines : Nat) : Nat := min 1024 ((lines + 15) / 16)
def invaCycles : Nat := 1024

/-- Starts an invalidation by core `c`, which executes nothing until it completes after so many core cycles, eight a grain at
the nominal period (R213, R395). -/
def State.startInval (s : State) (c cycles : Nat) (range : Option (Nat × Nat)) (hit : Nat → Bool) : State :=
  let s := ((s.advance c).invalidate (12 + c / 64) hit).modCore c fun x =>
    { x with inval := some (range.getD (0, 0)), invalEnd := s.now + cycles * s.fld (clkB (12 + c / 64)) CLK_PERIOD.PERIOD_Q12 / 32768 }
  s.setCoreState c csINVALIDATING

def execInvl (c : Fin 128) (w : Word) (s : State) : Host.Outcome State Fault Refusal :=
  .next (s.sysInstr c w 0x0010 true false fun s =>
    let l := (s.greg c (sysA w)).toNat / 128
    s.startInval c invlCycles (some (l * 128, 128)) fun k => k == l)

/-- INVR; more than 1 GiB acts as INVA (R211). -/
def State.invr (s : State) (c a n : Nat) : State :=
  if 2 ^ 30 < n then s.startInval c invaCycles none fun _ => true
  else
    match lineSpan a n with
    | none => s.startInval c 0 (some (a, 0)) fun _ => false
    | some (f, l) => s.startInval c (invrCycles (l + 1 - f)) (some (a, n)) fun k => decide (f ≤ k) && decide (k ≤ l)

def execInvr (c : Fin 128) (w : Word) (s : State) : Host.Outcome State Fault Refusal :=
  .next (s.sysInstr c w 0x0011 true true fun s =>
    s.invr c (s.greg c (sysA w)).toNat (s.greg c (sysB w)).toNat)

def execInva (c : Fin 128) (w : Word) (s : State) : Host.Outcome State Fault Refusal :=
  .next (s.sysInstr c w 0x0012 false false fun s => s.startInval c invaCycles none fun _ => true)

def execInvalidationComplete (c : Fin 128) (s : State) : Host.Outcome State Fault Refusal :=
  .next (if s.coreState c = csINVALIDATING ∧ (s.core c).invalEnd ≤ s.now then
      (s.modCore c fun x => { x with inval := none }).setCoreState c csRUNNING
    else s)

/-! ### Interrupts (R218-R220) -/

/-- Whether source `n` pends on core `c` (R218). -/
def State.irqPends (s : State) (c n : Nat) : Bool :=
  if n < 32 then bitOf (s.reg (chB (0x80 + c) + CH_DB_IN.off)).toNat n
  else if n < 64 then bitOf (s.reg (chB (0x100 + c) + CH_DB_IN.off)).toNat (n - 32)
  else if n = 64 then (s.core c).pendGrain
  else if n = 65 then (s.core c).pendIpi
  else if n = 66 then (s.core c).pendBatch
  else if n = 67 then (s.core c).machineError
  else false

/-- CPC_IRQ_MASK lets source `n` interrupt, and of an inbound doorbell CH_DB_IN_MASK too (R218; 18_commands_and_mailboxes.md,
"Doorbells"). -/
def State.irqUnmasked (s : State) (c n : Nat) : Bool :=
  bitOf (s.fld (cpcB c + 4 * (n / 32)) CPC_IRQ_MASK.MASK) (n % 32) &&
    (if n < 32 then bitOf (s.reg (chB (0x80 + c) + CH_DB_IN_MASK.off)).toNat n
     else if n < 64 then bitOf (s.reg (chB (0x100 + c) + CH_DB_IN_MASK.off)).toNat (n - 32)
     else true)

/-- Sources in the order of R219: by priority, then by number. -/
def irqOrder : List Nat := [67] ++ List.range' 32 32 ++ [64, 65, 66] ++ List.range 32
def irqSecure (n : Nat) : Bool := n == 67 || (decide (32 ≤ n) && decide (n < 64))

/-- The source that the core takes now. -/
def State.irqNow (s : State) (c : Nat) : Option Nat :=
  irqOrder.find? fun n =>
    s.irqPends c n && s.irqUnmasked c n && (irqSecure n || s.corePl c != 2)

/-- The core takes its source of highest priority (R218, R219), at its oldest load without a value, and not while an atomic awaits
its value or a redo holds the core (R263). Sources 66 and 67, which no rule clears, end as they are
taken (log entry 19). -/
def State.takeIrq (s : State) (c : Nat) : State :=
  match s.irqNow c with
  | none => s
  | some n =>
    if s.coreState c = csHELD ∨ (s.core c).lent.isSome ∨ (s.core c).loads.any fun l => l.2.atomic then s
    else
      let pl := if irqSecure n then 2 else 1
      let s := s.modCore c fun x =>
        { x with pendBatch := x.pendBatch && n != 66, machineError := x.machineError && n != 67 }
      s.enterLevel c pl pl (s.core c).at n

/-- INTERRUPT_TAKE; a machine error that firmware has routed to the core pends first (R218). -/
def execInterruptTake (x : IrqTaking) (s : State) : Host.Outcome State Fault Refusal :=
  .next ((s.modCore x.core fun y => { y with machineError := y.machineError || x.machineError }).takeIrq x.core)

/-- The compare value of source 64. -/
def State.grainCmp (s : State) (c : Nat) : Nat := s.reg64 (cpcB c + CPC_GRAIN_CMP_LO.off)

def execGrainCmpMatch (c : Fin 128) (s : State) : Host.Outcome State Fault Refusal :=
  .next (if (s.core c).cmpArmed ∧ s.grainCmp c ≤ s.now then s.modCore c fun x => { x with pendGrain := true } else s)

/-- A write of CPC_GRAIN_CMP_LO or _HI: with the high word the full comparison takes effect, and a later value clears
source 64 (R220). -/
def State.writeGrainCmp (s : State) (c : Nat) (high : Bool) (v : Word) : State :=
  let s := s.setReg (cpcB c + (if high then CPC_GRAIN_CMP_HI.off else CPC_GRAIN_CMP_LO.off)) v
  if high then
    s.modCore c fun x => { x with cmpArmed := true, pendGrain := x.pendGrain && decide (s.grainCmp c ≤ s.now) }
  else s.modCore c fun x => { x with cmpArmed := false }

/-- A write of CPC_IRQ_MASK_w: a non-secure write leaves the bits of sources 32-63 and 67. -/
def State.writeIrqMask (s : State) (c w : Nat) (secure : Bool) (v : Word) : State :=
  let a := cpcB c + CPC_IRQ_MASK.off + 4 * w
  let keep : Word := if secure then 0 else if w = 1 then 0xFFFFFFFF else if w = 2 then 8 else 0
  s.setReg a ((s.reg a &&& keep) ||| (v &&& ~~~keep))

/-- Releases a held core (R203). -/
def State.releaseCore (s : State) (c : Nat) : State :=
  if s.coreState c = csHELD then
    ((s.modCore c fun x => { x with pc := s.reg64 (cpcB c + CPC_ENTRY_LO.off) }).setPl c 2).setCoreState c csRUNNING
  else s

def execCoreRelease (c : Fin 128) (s : State) : Host.Outcome State Fault Refusal :=
  .next (if s.domOn (domK c) then s.releaseCore c else s)

/-- An NMI, whatever the core does: the level it saves is the core's own, which a redo only borrows (R263). -/
def State.takeNmi (s : State) (c : Nat) : State :=
  if s.coreState c = csHELD then s
  else
    match (s.core c).lent with
    | none => s.enterLevel c 2 3 (s.core c).at causeNMI
    | some (pl, _) =>
      (s.enterLevel c 2 3 (s.core c).at causeNMI).modCore c fun x => { x with savedPl := pl, lent := some (2, csRUNNING) }

def execNmi (c : Fin 128) (s : State) : Host.Outcome State Fault Refusal := .next (s.takeNmi c)

def execIpiSend (c : Fin 128) (target : Fin 128) (s : State) : Host.Outcome State Fault Refusal :=
  .next (if s.domOn (domK c) then s.modCore target fun x => { x with pendIpi := true } else s)

def execIpiClear (c : Fin 128) (s : State) : Host.Outcome State Fault Refusal :=
  .next (s.modCore c fun x => { x with pendIpi := false })

/-! ### WAIT, GATE, ERET, GRAIN -/

def execWait (c : Fin 128) (w : Word) (s : State) : Host.Outcome State Fault Refusal :=
  .next (s.sysInstr c w 0x0020 false false fun s =>
    let s := s.advance c
    if (s.irqNow c).isSome then s else s.setCoreState c csWAITING)

/-- GATE at PL2 is ILLEGAL (R217); the saved address is that of the next instruction. -/
def execGate (c : Fin 128) (w : Word) (s : State) : Host.Outcome State Fault Refusal :=
  .next (s.sysInstr c w 0x0030 false false fun s =>
    if s.corePl c = 2 then s.coreException c (s.core c).pc causeILLEGAL
    else s.enterLevel c 2 2 (((s.core c).pc + 4) % 2 ^ 64) causeGATE)

/-- ERET at PL0 is ILLEGAL (R217). -/
def execEret (c : Fin 128) (w : Word) (s : State) : Host.Outcome State Fault Refusal :=
  .next (s.sysInstr c w 0x0031 false false fun s =>
    if s.corePl c = 0 then s.coreException c (s.core c).pc causeILLEGAL
    else (s.modCore c fun x => { x with pc := x.savedPc }).setPl c (s.core c).savedPl)

def execGrain (c : Fin 128) (w : Word) (s : State) : Host.Outcome State Fault Refusal :=
  .next (s.sysInstr c w 0x0040 true false fun s => (s.setGreg c (sysA w) (BitVec.ofNat 64 s.now)).advance c)

/-! ### Errors in the caches (R215) -/

/-- The cores that use the caches in which an error falls: the core's L1, the L2 of its cluster, the L3 of its die. -/
def cacheUsers (c level : Nat) : List Nat :=
  if level = 0 then [c] else if level = 1 then List.range' (c / 4 * 4) 4 else List.range' (c / 64 * 64) 64

/-- Lines that an error discards in the die's caches, counted for the cores that use them. -/
def State.discardLines (s : State) (c level : Nat) (ls : List Nat) : State :=
  let x := s.proc (12 + c / 64)
  let gone := x.lines.filter fun e => ls.contains e.1
  let s := s.setProc (12 + c / 64) { x with lines := x.lines.filter fun e => !ls.contains e.1 }
  gone.foldl (fun s _ => (cacheUsers c level).foldl (fun s k => s.bump (cpcB k) CPC_CACHE_ERR.COUNT) s) s

/-- What an access of core `c` at `a` meets in the caches (R215). -/
def State.cacheError (s : State) (c a : Nat) : CacheError → State
  | .none => s
  | .line level => s.discardLines c level [a / 128]
  | .directory lines => s.discardLines c 2 lines

/-! ### Loads, stores and atomics (R204-R208, R212, R216) -/

def MemSize.bytes : MemSize → Nat
  | .b1 => 1
  | .b2 => 2
  | .b4 => 4
  | .b8 => 8

/-- An access of a core takes ACCESS: misaligned outside control space (log entry 19; there R4 answers it), to the secure
partition from the non-secure state, or from PL0 to a privileged page (R204). -/
def State.coreFaults (s : State) (c a n : Nat) (privPage : Bool) : Bool :=
  (a % n != 0 && cacheable a) || (s.corePl c == 0 && privPage) ||
    (gaPlace a == s.place && gaSpace a == 0 && !s.partLets (s.corePl c == 2) (gaLocal a) n)

/-- Asks for the line of a load, or in control space for its bytes (R206). -/
def State.askLine (s : State) (c : Nat) (l : CoreLoad) : State :=
  let s := s.sendOwn c l.addr
  let id := s.fabric.nextReq
  let s := s.modCore c fun x => { x with loads := mapPut x.loads id l }
  s.issueCore l.addr (s.coreReq c (if l.line then l.addr / 128 * 128 else l.addr) (.read (if l.line then 128 else l.size))
    (.core c id))

/-- Loads and fetching atomics without a value and atomics without an acknowledgement are 64 at most (R340). -/
def CoreX.loadRoom (x : CoreX) : Bool := decide (x.loads.length + x.atomics < 64)

/-- A load: a hit writes its register at once, a miss asks for its line (R206), control space for its bytes. A hit, and an
exception, wait for the loads before it (R216). -/
def State.coreLoad (s : State) (c rd a n : Nat) (privPage fetch : Bool) : State :=
  if !s.coreRuns c then s
  else if s.coreFaults c a n privPage then
    if (s.core c).loads.isEmpty then s.coreException c (s.core c).pc causeACCESS else s
  else
    match if cacheable a then s.lineHit c a n else none with
    | some bs =>
      if fetch ∨ !(s.core c).loads.isEmpty then s else (s.setGreg c rd (BitVec.ofNat 64 (leNat bs))).advance c
    | none =>
      if !(s.core c).loadRoom || !s.lineFree c a then s
      else
        let l : CoreLoad := { rd := rd, addr := a, size := n, pc := (s.core c).pc, line := cacheable a, fetch := fetch,
                              atomic := false, vec := false }
        (if fetch then s else s.advance c).askLine c l

def execCoreLoad (c : Fin 128) (rd : Fin 32) (addr : Word64) (size : MemSize) (privPage : Bool) (way : LoadWay)
    (s : State) : Host.Outcome State Fault Refusal :=
  .next ((s.cacheError c addr.toNat way.err).coreLoad c rd addr.toNat (MemSize.bytes size) privPage way.fetch)

/-- A store: one that finds the write buffer full waits, and the buffer is sent. -/
def State.coreStore (s : State) (c a n : Nat) (v : Word64) (privPage : Bool) : State :=
  if !s.coreReady c then s
  else if s.coreFaults c a n privPage then s.coreException c (s.core c).pc causeACCESS
  else if !(s.core c).takesLine (a / 128) then s.sendStores c
  else (s.advance c).coreWrite c a (toBytes v.toNat n)

def execCoreStore (c : Fin 128) (rs : Fin 32) (addr : Word64) (size : MemSize) (privPage : Bool) (s : State) :
    Host.Outcome State Fault Refusal :=
  .next (s.coreStore c addr.toNat (MemSize.bytes size) (s.greg c rs) privPage)

/-- The operand bytes of a core's atomic (R342): for CAS the compare value of `rc`, then the new value of `rs`. -/
def atomicOperand (aop : Nat) (vs vc : Word64) : List Byte :=
  if aop = 0x31 then toBytes vc.toNat 8 ++ toBytes vs.toNat 8 else toBytes vs.toNat 8

/-- An atomic of a core: performed at its home; the die's copy of the line is dropped, so that later loads of the die see
it (R205). -/
def State.coreAtomic (s : State) (c rd a aop : Nat) (size64 privPage : Bool) (operand : List Byte) : State :=
  let n := if size64 then 8 else 4
  if !s.coreReady c then s
  else if s.coreFaults c a n privPage then s.coreException c (s.core c).pc causeACCESS
  else if !(s.core c).loadRoom || !s.lineFree c a then s
  else
    let op := MemOp.atomic aop size64 operand
    let s := ((s.advance c).sendOwn c a).invalidate (12 + c / 64) fun k => k == a / 128
    if atomicReturns aop then
      let id := s.fabric.nextReq
      let l : CoreLoad := { rd := rd, addr := a, size := n, pc := (s.core c).pc - 4, line := false, fetch := false,
                            atomic := true, vec := false }
      let s := s.modCore c fun x => { x with loads := mapPut x.loads id l }
      s.issueCore a (s.coreReq c a op (.core c id))
    else
      let s := s.modCore c fun x => { x with atomics := x.atomics + 1 }
      s.issueCore a (s.coreReq c a op (.coreWrite c))

def execCoreAtomic (c : Fin 128) (rd rs rc : Fin 32) (aop : Nat) (size64 : Bool) (addr : Word64) (privPage : Bool) (s : State) :
    Host.Outcome State Fault Refusal :=
  .next (s.coreAtomic c rd addr.toNat aop size64 privPage (atomicOperand aop (s.greg c rs) (s.greg c rc)))

/-- Installs a line that came without poison, unless an invalidation or a store covered it meanwhile (R205, R212, R216). -/
def State.installLine (s : State) (c id : Nat) (l : CoreLoad) (bs : List Byte) : State :=
  if !l.line || (s.core c).noInstall.contains id then s
  else
    let x := s.proc (12 + c / 64)
    s.setProc (12 + c / 64) { x with lines := mapPut x.lines (l.addr / 128) (fitBytes 128 bs) }

/-- The bytes of a load reach what waits for them: a register, or the element of a vector load (R238). -/
def State.giveBytes (s : State) (c : Nat) (l : CoreLoad) (bs : List Byte) : State :=
  if l.fetch then s
  else if l.vec then
    s.modCore c fun x => { x with vfill := x.vfill ++ [(if l.line then l.addr / 128 * 128 else l.addr, bs)] }
  else s.setGreg c l.rd (BitVec.ofNat 64 (leNat ((bs.drop (if l.line then l.addr % 128 else 0)).take l.size)))

/-- The reply of the core's oldest load or atomic reaches it (R212): its register, or POISON at the load, whose successors are
squashed (R216). The value of an access that completes with another status is free (log entry 19); of an atomic the status is
logged (R354). -/
def State.loadReply (s : State) (c id : Nat) : State :=
  match (s.core c).loads.head?, mapGet? (s.core c).replies id with
  | some (k, l), some (st, bs, poison) =>
    if k ≠ id ∨ (s.core c).lent.isSome then s
    else
      let s := if st = stOK ∧ !poison then s.installLine c id l bs else s
      let s := s.modCore c fun x =>
        { x with loads := mapErase x.loads id, replies := mapErase x.replies id, noInstall := x.noInstall.filter (· != id) }
      let s := if l.atomic ∧ st ≠ stOK then
          s.log { status := st, cls := failClass st, source := 9, unit := s.dieUnit (12 + c / 64), peer := none, job := 0,
                  detail := [BitVec.ofNat 32 c] }
        else s
      if poison then (if s.coreState c = csHELD then s else s.coreException c l.pc causePOISON)
      else if st ≠ stOK then
        let y := s.draw
        y.2.giveBytes c l (Config.freeBytes y.1 (if l.line then 128 else l.size))
      else s.giveBytes c l bs
  | _, _ => s

def execCoreLoadReply (c : Fin 128) (id : Nat) (s : State) : Host.Outcome State Fault Refusal := .next (s.loadReply c id)

end Sys2Proof.Machine
end

