-- ==== Sys2Proof/Machine/Links.lean ====
section
/-! DEFINITION. The Gulpor link layer (R306-R311), port states (R333-R336, R504), path epochs and resending
(R329-R332, R355), and the packets of requests to other places (R319, R342). -/

namespace Sys2Proof.Machine

/-! ### Packets of requests (R342, R425) -/

/-- Operand bytes of an ATOMIC packet. -/
def atomicPayload (aop : Nat) (x : List Byte) : List Byte :=
  if aop = 0x1B then x else fitBytes (if aop = 0x31 then 16 else 8) x

/-- Word 7 of a WRITE, COPY_DATA or ATOMIC packet. -/
def writeWord7 (r : Req) (aop : Nat) (size64 : Bool) : Word :=
  BitVec.ofNat 32 (bit1 r.flag * 2 ^ 31 + bit1 r.fill * 2 ^ 30 + bit1 r.combine * 2 ^ 29 + aop * 2 ^ 21 + bit1 size64 * 2 ^ 20)

/-- TC, KIND, payload and word 7 of a request. -/
def reqForm (r : Req) : Nat × Nat × List Byte × Word :=
  match r.op with
  | .read n => (1, 0x01, [], BitVec.ofNat 32 n)
  | .write d => (1, 0x03, d, writeWord7 r 0 false)
  | .copyData d => (0, 0x04, d, writeWord7 r 0 false)
  | .shardData d => (5, 0x60, d, 0)
  | .atomic aop size64 x => (1, 0x05, atomicPayload aop x, writeWord7 r aop size64)

/-- The packet of a request with its SEQ. -/
def State.reqPacket (s : State) (r : Req) (seq : Nat) : Packet :=
  let f := reqForm r
  { s.packet f.1 f.2.1 r.dst seq (BitVec.ofNat 32 r.job) f.2.2.1 with
    srcDie := r.srcUnit / 1024, srcUnit := r.srcUnit % 1024, space := r.space, addr := r.addr, word7 := f.2.2.2,
    poison := r.poison }

/-! ### Resending (R330, R331, R355) -/

/-- Resends the unacknowledged requests to the destinations that `lost` names, with their SEQ and the current epoch. -/
def State.resend (s : State) (lost : Nat → Bool) : State :=
  let renew := fun (x : Sent) => if lost x.dst then { x with epoch := s.epoch, grain := s.now } else x
  s.fabric.sent.foldl (fun (s : State) x =>
    if lost x.dst then (s.bump rmtB RMT_RESENT.COUNT).inject (s.reqPacket x.req x.seq) else s)
    { s with fabric := { s.fabric with sent := s.fabric.sent.map renew } }

/-- The path epoch rises (R330): every path with an unacknowledged packet of an earlier epoch is lost (R331). -/
def State.raiseEpoch (s : State) : State :=
  let s := s.setFld glpB GLP_EPOCH.EPOCH (s.epoch + 1)
  let old := (s.fabric.sent.filter fun x => x.epoch != s.epoch).map fun x => x.dst
  s.resend old.contains

/-- R355: every unacknowledged request to a destination that became unreachable completes with MEMBER_LOST. -/
def State.loseDest (s : State) (dst : Nat) : State :=
  let lost := s.fabric.sent.filter fun x => x.dst == dst
  let s := { s with fabric := { s.fabric with sent := s.fabric.sent.filter fun x => x.dst != dst } }
  lost.foldl (fun s x => (s.landReq x.req ⟨stMEMBER_LOST, [], false⟩).goesOn x.req.land) s

/-! ### Ports (R301-R304, R333-R336) -/

def psOFF : Nat := 0
def psDOWN : Nat := 1
def psTRAINING : Nat := 2
def psUP : Nat := 3
def psQUARANTINED : Nat := 4
def psMISWIRED : Nat := 5

def State.portState (s : State) (p : Nat) : Nat := s.fld (prtB p) PRT_STATUS.STATE
def State.setPortState (s : State) (p v : Nat) : State := s.setFld (prtB p) PRT_STATUS.STATE v
def State.portPeer (s : State) (p : Nat) : Nat := s.fld (prtB p) PRT_STATUS.PEER_PLACE
def State.portLevel (s : State) (p : Nat) : Nat := s.fld (prtB p) PRT_STATUS.LEVEL

/-- An event of a port in the journal, class LINK; the spec gives these events no status code (log entry 22). -/
def State.portLog (s : State) (p status : Nat) : State :=
  s.log { status := status, cls := 5, source := 6, unit := s.dieUnit 14, peer := some (s.portPeer p), job := 0,
          detail := [BitVec.ofNat 32 p] }

/-- The packages whose routes can use a port of a level with a peer (R330). -/
def State.noticePlaces (s : State) (level peer : Nat) : List Nat :=
  let own := s.place
  let from_ := fun base n => List.range' base n
  let all := match level with
    | 0 => from_ (own / 8 * 8) 8
    | 1 => from_ (own / 256 * 256) 256
    | _ => if own / 256 = peer / 256 then from_ (own / 256 * 256) 256
           else from_ (own / 256 * 256) 256 ++ from_ (peer / 256 * 256) 256
  all.filter fun p => p != own && s.placeOk p

/-- Sends a ROUTE_NOTICE to every such package; the spec gives its payload no layout, and it reports no destination
(log entry 22). -/
def State.sendNotices (s : State) (level peer : Nat) : State :=
  (s.noticePlaces level peer).foldl (fun s p => s.sendMgmt 0x80 p 0 0 0 0 []) s

/-! ### Flits and blocks of the transmitter (R306-R310) -/

/-- The 12 bytes that IDENT carries: the first of SHAKE256 over the identity public key (R310). -/
def State.identWords (s : State) : List Word := (leWords 4 (shake256 s.identityKey 12)).map (BitVec.ofNat 32)

/-- The 112 credit entries, two a word (R310). -/
def PortX.creditWords (x : PortX) : List Word :=
  (List.range 56).map fun i => BitVec.ofNat 32 (mapGet 0 x.freed (2 * i) + mapGet 0 x.freed (2 * i + 1) * 65536)

/-- A flit of 63 words with its CRC (R307). -/
def sealFlit (ws : List Word) : List Word := ws ++ [BitVec.ofNat 32 (crc32c (wordBytes ws))]

/-- ACK_SEQ: the latest data SEQ received in order (R307). -/
def PortX.ackSeq (x : PortX) : Nat := (x.rxSeq + 1023) % 1024

/-- A control flit of a port: its type and NAK_SEQ, the estimates, the credits, and the identity in an IDENT (R310, R325). -/
def State.controlFlit (s : State) (p ctype nak : Nat) : List Word :=
  let x := s.port p
  let ident := if ctype = 2 then BitVec.ofNat 32 (s.place * 2 ^ 17 + p * 2 ^ 11) :: s.identWords else List.replicate 4 0
  sealFlit ([BitVec.ofNat 32 (2 ^ 30 + x.ackSeq * 2 ^ 10), BitVec.ofNat 32 (ctype * 2 ^ 24 + nak * 2 ^ 14),
    BitVec.ofNat 32 (s.fld glpB GLP_CONG.SYSTEM * 2 ^ 16 + s.fld glpB GLP_CONG.GROUP * 2 ^ 8 + s.fld glpB GLP_CONG.NODE)] ++
    x.creditWords ++ ident)

/-- The port sends a flit: five of them make a block, which goes out under the next number (R306). -/
def PortX.putFlit (x : PortX) (f : List Word) : PortX :=
  let fs := x.txFlits ++ [f]
  if fs.length < 5 then { x with txFlits := fs }
  else { x with txFlits := [], txBlock := (x.txBlock + 1) % 65536, blocks := x.blocks ++ [(x.txBlock, fs)] }

/-- Control flits fill the idle tail of an open block (R308). -/
def PortX.fillTail (x : PortX) (f : List Word) : PortX :=
  if x.txFlits = [] then x else (List.range (5 - x.txFlits.length)).foldl (fun x _ => x.putFlit f) x

/-- Sends a control flit at an event (R309, R333, R335). -/
def State.sendControl (s : State) (p ctype nak : Nat) : State :=
  let f := s.controlFlit p ctype nak
  let fill := s.controlFlit p 0 0
  s.modPort p fun x => ({ x with control := x.control ++ [(ctype, nak)] }.putFlit f).fillTail fill

/-- The link state of a port as it starts or ends a link: buffers and queues empty (R310). -/
def PortX.relink (x : PortX) (now : Nat) : PortX :=
  { PortX.init with
    malStart := x.malStart, malCount := x.malCount, malNoted := x.malNoted, trainSince := x.trainSince,
    lastKnock := x.lastKnock, knocking := x.knocking, peerDigest := x.peerDigest, control := x.control,
    txBlock := x.txBlock, blocks := x.blocks, lastGood := now }

/-- A port leaves UP (R310, R329, R330): its flits are lost, the epoch rises and notices go out. -/
def State.leaveUp (s : State) (p : Nat) : State :=
  if s.portState p ≠ psUP then s
  else
    let level := s.portLevel p
    let peer := s.portPeer p
    let s := s.modPort p fun x => x.relink s.now
    let s := s.setPortState p psDOWN
    ((((s.prtEvent p PRT_EVENTS.DOWN).portLog p stOK).raiseEpoch).sendNotices level peer)

/-- A port with ENABLE sends the knock pattern (R504). -/
def State.knockPort (s : State) (p : Nat) : State :=
  if s.flag (prtB p) PRT_CTRL.ENABLE then s.modPort p fun x => { x with lastKnock := s.now, knocking := true }
  else s.modPort p fun x => { x with knocking := false }

/-- A port enters DOWN. -/
def State.portToDown (s : State) (p : Nat) : State := ((s.leaveUp p).setPortState p psDOWN).knockPort p

/-- A port enters TRAINING and sends its IDENT (R333). -/
def State.portTrain (s : State) (p : Nat) : State :=
  ((s.setPortState p psTRAINING).modPort p fun x =>
    { (x.relink s.now) with trainSince := s.now, knocking := false }).sendControl p 2 0

/-- PRT_CTRL.RETRAIN (R333): ignored while QUARANTINED; a port whose ENABLE is 0 stays DOWN. -/
def State.portRetrain (s : State) (p : Nat) : State :=
  if s.portState p = psQUARANTINED ∨ s.portState p = psOFF then s
  else
    let s := s.portToDown p
    if s.flag (prtB p) PRT_CTRL.ENABLE then s.portTrain p else s

/-- PRT_CTRL.RELEASE with the role of the session it comes from (R336). -/
def State.portReleased (s : State) (p role : Nat) (who : Nat) : State :=
  if role < 3 then s.logRefused stDENIED 6 (s.dieUnit 14) who 0 [BitVec.ofNat 32 p]
  else if s.portState p = psQUARANTINED then
    let s := (s.setPortState p psDOWN).knockPort p
    if s.flag (prtB p) PRT_CTRL.ENABLE then s.portTrain p else s
  else s

/-- PRT_CTRL.ENABLE: 0 takes the port to DOWN and keeps it there; with 1 a port in DOWN knocks (R504). A QUARANTINED port
stays so (R336). -/
def State.portEnabled (s : State) (p : Nat) (on : Bool) : State :=
  let s := s.setFld (prtB p) PRT_CTRL.ENABLE (bit1 on)
  let st := s.portState p
  if st = psOFF ∨ st = psQUARANTINED then s
  else if on then (if st = psDOWN then s.knockPort p else s)
  else s.portToDown p

/-- The fabric die quarantines a port (R335). -/
def State.quarantine (s : State) (p : Nat) : State :=
  let s := (s.leaveUp p).setPortState p psQUARANTINED
  let s := (s.modPort p fun x => { x with knocking := false }).sendControl p 3 0
  (s.prtEvent p PRT_EVENTS.QUARANTINED).portLog p stPORT_QUARANTINED

/-! ### Flits (R306-R309) -/

/-- A flit's CRC holds (R307). -/
def flitGood (ws : List Word) : Bool :=
  ws.length == 64 && crc32c (wordBytes (ws.take 63)) == (nthD (0 : Word) ws 63).toNat

def flitWord (ws : List Word) (i : Nat) : Nat := (nthD (0 : Word) ws i).toNat

/-- The packet that header and payload words spell (R319). -/
def parsePacket (ws : List Word) : Packet :=
  let w := flitWord ws
  let len := bitsOf (w 0) 12 0
  { tc := bitsOf (w 0) 31 29, hops := bitsOf (w 0) 28 25, detour := bitOf (w 0) 24, member := bitOf (w 0) 23,
    kind := bitsOf (w 0) 22 15, length := len, dst := bitsOf (w 1) 31 17, src := bitsOf (w 1) 16 2,
    via := bitsOf (w 2) 31 17, epoch := bitsOf (w 2) 16 9, seq := bitsOf (w 3) 31 16, srcDie := bitsOf (w 3) 15 12,
    srcUnit := bitsOf (w 3) 11 2, job := nthD 0 ws 4, space := bitsOf (w 5) 31 28,
    addr := bitsOf (w 5) 12 0 * 2 ^ 32 + w 6, word7 := nthD 0 ws 7, payload := (wordBytes (ws.drop 8)).take len,
    rsv := bitsOf (w 0) 14 13 != 0 || bitsOf (w 1) 1 0 != 0 || bitsOf (w 2) 8 0 != 0 || bitsOf (w 3) 1 0 != 0 ||
      bitsOf (w 5) 27 13 != 0 }

/-- Words of a packet by its header (R308). -/
def packetWords (ws : List Word) : Nat := 8 + (bitsOf (flitWord ws 0) 12 0 + 3) / 4

/-- Whole packets at the front of a stream of words, and the words left. -/
def takePackets : Nat → List Word → List Packet × List Word
  | 0, ws => ([], ws)
  | f + 1, ws =>
    if ws.length < 8 ∨ ws.length < packetWords ws then ([], ws)
    else
      let r := takePackets f (ws.drop (packetWords ws))
      (parsePacket (ws.take (packetWords ws)) :: r.1, r.2)

/-- The packets that a flit's body completes, overruns marked (R308, R334), and the words of the packet left open. -/
def assemble (rx : List Word) (start : Nat) (body : List Word) : List (Packet × Bool) × List Word :=
  let cont := if start = 0 then body else body.take (start - 1)
  let all := rx ++ cont
  let whole := decide (8 ≤ all.length) && decide (packetWords all ≤ all.length)
  let first : List (Packet × Bool) × List Word :=
    if rx = [] then ([], [])
    else if whole then ([(parsePacket (all.take (packetWords all)), false)], [])
    else if start = 0 then ([], all)
    else ([(parsePacket all, true)], [])
  if start = 0 then first
  else
    let r := takePackets 62 (body.drop (start - 1))
    (first.1 ++ r.1.map fun p => (p, false), r.2)

/-- Frees the retry entries that an ACK_SEQ covers (R309). -/
def PortX.acked (x : PortX) (ack : Nat) : PortX :=
  if x.retry.any fun e => e.1 == ack then
    { x with retry := (x.retry.dropWhile fun e => e.1 != ack).drop 1, replays := 0, fullSince := none }
  else x

/-! ### Sending (R308, R311) -/

/-- Key of a traffic class and hop class among the credit entries (R310). -/
def creditKey (tc hop : Nat) : Nat := tc * 14 + hop

/-- The receive class of a packet that waits at an output: HOPS has been counted (R323). -/
def hopClass (p : Packet) : Nat := p.hops - 1

/-- 64-byte units of a packet (R310). -/
def packetUnits (p : Packet) : Nat := (32 + (p.length + 3) / 4 * 4 + 63) / 64

/-- The next package has credit for the packet (R311). -/
def PortX.credited (x : PortX) (p : Packet) : Bool :=
  let k := creditKey p.tc (hopClass p)
  decide (packetUnits p ≤ (mapGet 0 x.credits k + 65536 - mapGet 0 x.used k) % 65536)

/-- The first packet of a class that credit lets go; packets of one hop class keep their order. -/
def PortX.ready (x : PortX) (tc : Nat) : Option Packet :=
  x.outQ.find? fun p => p.tc == tc && x.credited p &&
    !(x.outQ.takeWhile fun q => q != p).any fun q => q.tc == tc && hopClass q == hopClass p

/-- The packet that goes next: strict priority TC4, TC7, TC3, TC2, TC1, then TC0 and TC5 by weighted round robin. -/
def PortX.pick (x : PortX) (w0 w5 : Nat) : Option Packet :=
  match [4, 7, 3, 2, 1].filterMap x.ready with
  | p :: _ => some p
  | [] =>
    let turn := if x.wrr % (w0 + w5) < w0 then [0, 5] else [5, 0]
    (turn.filterMap x.ready).head?

/-- A packet's words with its first marked (R308). -/
def packetStream (p : Packet) : List (Word × Bool) :=
  let payload := (leWords 4 (fitBytes ((p.length + 3) / 4 * 4) p.payload)).map (BitVec.ofNat 32)
  match packetHead p false ++ payload with
  | [] => []
  | w :: ws => (w, true) :: ws.map fun x => (x, false)

/-- Cuts whole bodies of 62 words into data flits while the retry buffer has room (R307-R309). -/
def PortX.cutFlits : Nat → PortX → PortX
  | 0, x => x
  | f + 1, x =>
    if x.txWords.length < 62 ∨ 256 ≤ x.retry.length then x
    else
      let body := x.txWords.take 62
      let start := match (List.zip (List.range' 1 62) body).find? fun e => e.2.2 with
        | some e => e.1
        | none => 0
      let flit := sealFlit (BitVec.ofNat 32 (x.txSeq * 2 ^ 20 + x.ackSeq * 2 ^ 10 + start) :: body.map fun e => e.1)
      PortX.cutFlits f
        ({ x with txWords := x.txWords.drop 62, txSeq := (x.txSeq + 1) % 1024, retry := x.retry ++ [(x.txSeq, flit)] }.putFlit flit)

/-- Sends what credits and the retry buffer let go. -/
def PortX.sendAll (w0 w5 : Nat) : Nat → PortX → PortX
  | 0, x => x
  | f + 1, x =>
    let x := x.cutFlits 256
    if 62 ≤ x.txWords.length then x
    else
      match x.pick w0 w5 with
      | none => x
      | some p =>
        let k := creditKey p.tc (hopClass p)
        PortX.sendAll w0 w5 f
          { x with outQ := dropFirst (· == p) x.outQ, txWords := x.txWords ++ packetStream p,
                   used := mapPut x.used k ((mapGet 0 x.used k + packetUnits p) % 65536),
                   wrr := if p.tc = 0 ∨ p.tc = 5 then (x.wrr + 1) % (w0 + w5) else x.wrr }

/-- The output of a port in UP works on its queue. -/
def State.portSend (s : State) (p : Nat) : State :=
  if s.portState p ≠ psUP then s
  else
    let w0 := max 1 (s.fld glpB GLP_ROUTE_CFG.W_TC0)
    let w5 := max 1 (s.fld glpB GLP_ROUTE_CFG.W_TC5)
    let fill := s.controlFlit p 0 0
    s.modPort p fun x =>
      let x := ((PortX.sendAll w0 w5 (x.outQ.length + 1) x).cutFlits 256).fillTail fill
      { x with fullSince := if x.retry.length < 256 then none else some (x.fullSince.getD s.now) }

/-! ### Receiving flits -/

/-- A discarded data flit: the first one is answered by a NAK, and so is a failed replay of the expected flit (R309). -/
def State.discardFlit (s : State) (p : Nat) (again : Bool) : State :=
  if (s.port p).discarding && !again then s
  else (s.modPort p fun x => { x with discarding := true }).sendControl p 1 (s.port p).rxSeq

/-- A data flit arrives at a port in UP, in a block with its number and FEC outcome. A control flit among the words tells
only of its block and its ACK_SEQ (log entry 22). -/
def State.flitIn (s : State) (p : Nat) (fec : Fec) (count : Nat) (ws : List Word) : State :=
  if s.portState p ≠ psUP then s
  else
    let x := s.port p
    let same := decide (x.blockCount = some count)
    let broken := match x.blockCount with
      | none => false
      | some b => b != count && (b + 1) % 65536 != count
    let bad := decide (fec = .uncorrectable) || broken || (same && x.blockBad)
    let s := if !same && decide (fec = .corrected) && !broken then s.bump (prtB p) PRT_FEC_CE.COUNT else s
    let s := if bad && !(same && x.blockBad) then s.bump (prtB p) PRT_FEC_UE.COUNT else s
    let s := s.modPort p fun x => { x with blockCount := some count, blockBad := bad }
    let seq := bitsOf (flitWord ws 0) 29 20
    if bad || !flitGood ws then s.discardFlit p (seq == (s.port p).rxSeq)
    else
      let s := s.modPort p fun x => { (x.acked (bitsOf (flitWord ws 0) 19 10)) with lastGood := s.now }
      if bitsOf (flitWord ws 0) 31 30 ≠ 0 then s.portSend p
      else if seq ≠ (s.port p).rxSeq then s.discardFlit p false
      else
        (s.modPort p fun x =>
          let r := assemble x.rxWords (bitsOf (flitWord ws 0) 5 0) ((ws.drop 1).take 62)
          { x with rxSeq := (x.rxSeq + 1) % 1024, discarding := false, rxPkts := x.rxPkts ++ r.1, rxWords := r.2 }).portSend p

def execFlitReceive (p : Fin 36) (fec : Fec) (blockCount : BitVec 16) (words : List Word) (s : State) :
    Host.Outcome State Fault Refusal := .next (s.flitIn p fec blockCount.toNat words)

/-- A control flit of a type that passes its CRC (R310). -/
def controlGood (ctype : Nat) (ws : List Word) : Bool :=
  flitGood ws && bitsOf (flitWord ws 0) 31 30 == 1 && bitsOf (flitWord ws 1) 31 24 == ctype

/-- What every control flit brings: its ACK_SEQ, credits and the peer's estimates (R309, R310, R325). -/
def State.controlIn (s : State) (p : Nat) (ws : List Word) : State :=
  let c := flitWord ws 2
  let entry := fun i => if i % 2 = 0 then flitWord ws (3 + i / 2) % 65536 else flitWord ws (3 + i / 2) / 65536
  let s := s.modPort p fun x =>
    { (x.acked (bitsOf (flitWord ws 0) 19 10)) with
      lastGood := s.now, credits := ((List.range 112).map fun i => (i, entry i)).filter fun e => e.2 != 0 }
  { s with fabric := { s.fabric with
      adverts := mapPut s.fabric.adverts (s.portPeer p) (bitsOf c 7 0, bitsOf c 15 8, bitsOf c 23 16) } }

/-- A NAK makes the sender replay its retry buffer from the named SEQ (R309, R310). -/
def State.nakIn (s : State) (p : Nat) (ws : List Word) : State :=
  if s.portState p ≠ psUP ∨ !controlGood 1 ws then s
  else
    let s := s.controlIn p ws
    let seq := bitsOf (flitWord ws 1) 23 14
    let x := s.port p
    if !x.retry.any fun e => e.1 == seq then s
    else
      let fill := s.controlFlit p 0 0
      (s.bump (prtB p) PRT_RETRY.COUNT).modPort p fun x =>
        let again := x.retry.dropWhile fun e => e.1 != seq
        ((again.map fun e => e.2).foldl PortX.putFlit
          { x with retry := again, replaySeq := seq, replays := if x.replaySeq = seq then x.replays + 1 else 1 }).fillTail fill

def execNakReceive (p : Fin 36) (words : List Word) (s : State) : Host.Outcome State Fault Refusal :=
  .next (s.nakIn p words)

/-- CREDIT: what credits now let go is sent. -/
def State.creditIn (s : State) (p : Nat) (ws : List Word) : State :=
  if s.portState p ≠ psUP ∨ !controlGood 0 ws then s else (s.controlIn p ws).portSend p

def execCreditReceive (p : Fin 36) (words : List Word) (s : State) : Host.Outcome State Fault Refusal :=
  .next (s.creditIn p words)

/-- Peer index of package `q` at package `own` of a node (R302). -/
def peerIndex (own q : Nat) : Nat := if q < own then q else q - 1

/-- The level of a port by its peer's place and port, none where they break R302 or R303. -/
def wiring (own p place port : Nat) : Option Nat :=
  if p < 28 then
    let i := p / 4
    let q := if i < own % 8 then i else i + 1
    if place / 8 = own / 8 ∧ place % 8 = q ∧ port = 4 * peerIndex q (own % 8) + p % 4 then some 0 else none
  else if place / 8 = own / 8 then none
  else if place / 256 = own / 256 then some 1
  else some 2

/-- The peer's IDENT during training: UP or MISWIRED (R303, R304, R333). -/
def State.identIn (s : State) (p : Nat) (ws : List Word) (rev : Bool) : State :=
  if s.portState p ≠ psTRAINING ∨ !controlGood 2 ws then s
  else
    let place := bitsOf (flitWord ws 59) 31 17
    let port := bitsOf (flitWord ws 59) 16 11
    let b := prtB p
    let s := ((s.setFld b PRT_STATUS.PEER_PLACE place).setFld b PRT_STATUS.PEER_PORT port).setFld b PRT_STATUS.LANE_REV (bit1 rev)
    let s := s.modPort p fun x => { (x.relink s.now) with peerDigest := (ws.drop 60).take 3 }
    match wiring s.place p place port with
    | none =>
      (((s.setFld b PRT_STATUS.LEVEL 3).setPortState p psMISWIRED).prtEvent p PRT_EVENTS.MISWIRED).portLog p stOK
    | some l =>
      ((((s.setFld b PRT_STATUS.LEVEL l).setPortState p psUP).controlIn p ws).prtEvent p PRT_EVENTS.UP).modPort p fun x =>
        { x with knocking := false }

def execIdentReceive (p : Fin 36) (words : List Word) (laneRev : Bool) (s : State) : Host.Outcome State Fault Refusal :=
  .next (s.identIn p words laneRev)

/-- A QUARANTINE flit is treated as the port leaving UP (R335). -/
def State.quarantineIn (s : State) (p : Nat) (ws : List Word) : State :=
  if s.portState p ≠ psUP ∨ !controlGood 3 ws then s else s.portToDown p

def execQuarantineReceive (p : Fin 36) (words : List Word) (s : State) : Host.Outcome State Fault Refusal :=
  .next (s.quarantineIn p words)

/-! ### Port states (R310, R333, R336, R504) -/

/-- The condition of R310 holds. -/
def State.downCause (s : State) (p : Nat) (c : DownCause) : Bool :=
  let x := s.port p
  match c with
  | .failedReplays => decide (16 ≤ x.replays)
  | .noGoodCrc => decide (x.lastGood + 2000 ≤ s.now)
  | .retryFull =>
    match x.fullSince with
    | some g => decide (g + 2000 ≤ s.now)
    | none => false

def execPortDown (p : Fin 36) (cause : DownCause) (s : State) : Host.Outcome State Fault Refusal :=
  .next (if s.portState p = psUP ∧ s.downCause p cause then s.portToDown p else s)

/-- A knock of the peer starts training in DOWN; a port whose ENABLE is 0 stays DOWN. -/
def execPortTrainStart (p : Fin 36) (s : State) : Host.Outcome State Fault Refusal :=
  .next (if s.portState p = psDOWN ∧ s.flag (prtB p) PRT_CTRL.ENABLE then s.portTrain p else s)

/-- 20 ms are 4,000,000 grains. -/
def execTrainingTimeout (p : Fin 36) (s : State) : Host.Outcome State Fault Refusal :=
  .next (if s.portState p = psTRAINING ∧ (s.port p).trainSince + 4000000 ≤ s.now then s.portToDown p else s)

def execPortRelease (p : Fin 36) (role : Nat) (s : State) : Host.Outcome State Fault Refusal :=
  .next (s.portReleased p role s.place)

def execRetrain (p : Fin 36) (s : State) : Host.Outcome State Fault Refusal := .next (s.portRetrain p)

def execPortEnable (p : Fin 36) (on : Bool) (s : State) : Host.Outcome State Fault Refusal := .next (s.portEnabled p on)

/-- The knock repeats every 1 ms until training starts (R504). -/
def execKnock (p : Fin 36) (s : State) : Host.Outcome State Fault Refusal :=
  .next (if s.portState p = psDOWN ∧ (!(s.port p).knocking ∨ (s.port p).lastKnock + 200000 ≤ s.now) then s.knockPort p else s)

end Sys2Proof.Machine
end

