-- ==== Sys2Proof/Machine/VectorProg.lean ====
section
/-! DEFINITION. Entries of VECTOR_PROGS (R132): programs, streams and instructions with their fields (R133-R136, R145),
and the slots that an issue touches (R134, R144). -/

namespace Sys2Proof.Machine

/-! ### Program entries (R132) -/

structure VStream where
  slot : Nat
  scaleSlot : Nat
  code : Nat
  scaled : Bool
  write : Bool
  stride : Nat
  deriving DecidableEq, Repr

structure VInstr where
  len : Nat
  imm : Nat
  vop : Nat
  code : Nat
  dcode : Nat
  round : Nat
  sat : Bool
  dst : Nat
  src1 : Nat
  src2 : Nat
  deriving DecidableEq, Repr

structure VProg where
  wupd : Bool
  tensor : Nat
  indexBase : Nat
  indexStride : Nat
  streams : List VStream
  instrs : List VInstr
  deriving DecidableEq, Repr

def vStream (w0 w1 : Nat) : VStream :=
  { slot := bitsOf w0 31 19, scaleSlot := bitsOf w0 18 6, code := bitsOf w0 5 2, scaled := bitOf w0 1,
    write := bitOf w0 0, stride := bitsOf w1 31 19 }

/-- An instruction word: word 0 in bits [31..0]. -/
def vInstr (w : Nat) : VInstr :=
  { len := bitsOf w 31 17, imm := bitsOf w 15 0, vop := bitsOf w 63 56, code := bitsOf w 55 52,
    dcode := bitsOf w 51 48, round := bitsOf w 47 45, sat := bitOf w 44, dst := bitsOf w 43 40,
    src1 := bitsOf w 39 36, src2 := bitsOf w 35 32 }

/-- Bytes of the entry that starts a byte string. -/
def entryBytes (bs : List Byte) : Nat := wordAt bs 0 / 65536

def vProg (bs : List Byte) : VProg :=
  let w0 := wordAt bs 0
  let ns := bitsOf w0 7 4
  let ni := bitsOf w0 15 8
  { wupd := bitOf w0 3, tensor := wordAt bs 4, indexBase := wordAt bs 8 + wordAt bs 12 / 65536 * 2 ^ 32,
    indexStride := wordAt bs 16,
    streams := (List.range ns).map fun i => vStream (wordAt bs (24 + 8 * i)) (wordAt bs (28 + 8 * i)),
    instrs := (List.range ni).map fun i => vInstr (leNat ((bs.drop (24 + 8 * ns + 8 * i)).take 8)) }

/-- Entry `p` of a VECTOR_PROGS body (entries follow one another by ENTRY_BYTES). -/
def progBytes : Nat → List Byte → List Byte
  | 0, bs => bs.take (entryBytes bs)
  | p + 1, bs => progBytes p (bs.drop (max 1 (entryBytes bs)))

/-- Program `p` of tile `t` in the active slot. -/
def State.vecProg (s : State) (d t p : Nat) : VProg :=
  match (s.active d).sec? 4 t with
  | none => vProg []
  | some e => vProg (progBytes p (((s.active d).image.drop e.ofs).take e.len))

/-! ### Fields of an instruction -/

def VInstr.trk (i : VInstr) : Nat := bitsOf i.imm 14 13
def VInstr.upd (i : VInstr) : Nat := bitsOf i.imm 12 10
def VInstr.vd (i : VInstr) : Nat := bitsOf i.imm 5 3
def VInstr.vsrc (i : VInstr) : Nat := bitsOf i.imm 2 0
def VInstr.top (i : VInstr) : Bool := bitOf i.imm 15

/-- The computing format (R135). -/
def computeFmt (code : Nat) : Fmt :=
  match code with
  | 0 => .b64
  | 2 => .bf16
  | 3 => .b16
  | 6 | 8 => .i32
  | _ => .b32

/-- The accumulator format that an instruction's FMT selects (R145). -/
def bankFmt (f : Fmt) : Fmt := if f = .b64 then .b64 else if f = .i32 then .i32 else .b32

/-- The format of what the instruction stores: DFMT of a CVT (I32 inside the engine), B32 of a BAMAX. -/
def VInstr.storeFmt (i : VInstr) (toStream : Bool) : Fmt :=
  if i.vop = 0x21 then .b32
  else if i.vop = 0x20 then
    let f := (fmtOfCode i.dcode).getD .b32
    if toStream then f else if f.isInt then .i32 else f
  else computeFmt i.code

def VInstr.mode (i : VInstr) : Rnd := (Rnd.ofCode i.round).getD .rne
/-- The mode of a conversion on reading (R136). -/
def VInstr.readMode (i : VInstr) : Rnd := if i.round = 4 then .rne else i.mode

/-- Elements that an instruction reads and writes: LEN, one of a single-element operation, a block each of BAMAX. -/
def VInstr.single (i : VInstr) : Bool := decide (0x30 ≤ i.vop)
def VInstr.writeCount (i : VInstr) : Nat :=
  if i.single then 1 else if i.vop = 0x21 then ceilDiv i.len 32 else i.len
def VInstr.readCount (i : VInstr) : Nat := if i.single then 1 else i.len

/-- Opcodes whose result is a scalar (R133). -/
def scalarResult (vop : Nat) : Bool :=
  (decide (0x28 ≤ vop) && decide (vop ≤ 0x2C)) || vop == 0x30 || vop == 0x31 || vop == 0x32

/-- The operation uses SRC1, SRC2, DST as a source. -/
def usesSrc1 (vop : Nat) : Bool := vop != 0x30 && vop != 0x31
def usesSrc2 (vop : Nat) : Bool := (decide (2 ≤ vop) && decide (vop ≤ 7)) || vop == 0x10
def usesDst (vop : Nat) : Bool := vop == 5

/-- The locations an instruction reads as sources. -/
def VInstr.sources (i : VInstr) : List Nat :=
  (if usesSrc1 i.vop then [i.src1] else []) ++ (if usesSrc2 i.vop then [i.src2] else []) ++
    (if usesDst i.vop then [i.dst] else [])

/-! ### Where a stream lies in issue k (R134) -/

def VStream.at_ (st : VStream) (r : VecRun) : Nat := (st.slot + r.slotOfs + r.k * st.stride) * 256
def VStream.scaleAt (st : VStream) (r : VecRun) : Nat := (st.scaleSlot + r.slotOfs + r.k * st.stride) * 256

def VStream.fmt (st : VStream) : Fmt := (fmtOfCode st.code).getD .b32

def VProg.stream (p : VProg) (code : Nat) : VStream := nthD ⟨0, 0, 0, false, false, 0⟩ p.streams (code - 8)

/-- Elements that the program's instructions take from or put into stream `s`. -/
def VProg.streamLen (p : VProg) (s : Nat) : Nat :=
  p.instrs.foldl (fun m i =>
    let m := if i.sources.contains (8 + s) then max m i.readCount else m
    if !scalarResult i.vop && i.dst == 8 + s then max m i.writeCount else m) 0

/-- Logical slots of `n` bytes from a byte offset. -/
def slotsOfBytes (ofs n : Nat) : List Nat := if n = 0 then [] else List.range' (ofs / 256) ((ofs + n - 1) / 256 + 1 - ofs / 256)

/-- Slots that an issue reads and writes (R144): stream bytes, and the scales of scaled streams as reads. -/
def VProg.slots (p : VProg) (r : VecRun) : List Nat × List Nat :=
  (List.range p.streams.length).foldl (fun acc s =>
    let st := p.stream (8 + s)
    let n := p.streamLen s
    let body := slotsOfBytes (st.at_ r) (packedLen st.fmt n)
    let scales := if st.scaled && decide (0 < n) then slotsOfBytes (st.scaleAt r) (ceilDiv n 32) else []
    if st.write then (acc.1 ++ scales, acc.2 ++ body) else (acc.1 ++ body ++ scales, acc.2)) ([], [])


end Sys2Proof.Machine
end

