-- ==== Sys2Proof/Machine/Tile.lean ====
section
/-! DEFINITION. Tile micro-instructions (R111-R116) except VEC and REQ: routing, loops, matrix operations (R76-R85),
switch streams (R82, R86, R114) and tags. A micro-instruction command has its effect where the die is RUNNING, the
tile has not issued END, and the word is the one at the tile's program position (log entry 12). -/

namespace Sys2Proof.Machine

/-! ### Issue (R91, R92, R112-R114) -/

def microOp (w : BitVec 128) : Nat := bitsOf w.toNat 127 120
def microRoute (w : BitVec 128) : Nat := bitsOf w.toNat 119 116
def microTc (w : BitVec 128) : Bool := bitOf w.toNat 115
def microTagop (w : BitVec 128) : Nat := bitsOf w.toNat 114 113
def microA (w : BitVec 128) : Nat := bitsOf w.toNat 95 64
def microB (w : BitVec 128) : Nat := bitsOf w.toNat 63 32
def microC (w : BitVec 128) : Nat := bitsOf w.toNat 31 0

/-- The word at the tile's program position in the active slot. -/
def State.microWord (s : State) (d t : Nat) : Option (BitVec 128) :=
  match (s.active d).sec? 1 t with
  | none => none
  | some e =>
    if (s.tile d t).pc < e.count then some (BitVec.ofNat 128 (leNat ((s.active d).entry e 16 (s.tile d t).pc)))
    else none

/-- The tile's next micro-instruction is `w` with opcode `op`, and the tile may issue it or meets it in a hold. -/
def State.atMicro (s : State) (d t : Nat) (w : BitVec 128) (op : Nat) : Bool :=
  (s.dieState d == dsRUNNING || s.dieState d == dsHELD) && (s.die d).switching.isNone && !(s.tile d t).ended &&
    s.microWord d t == some w && microOp w == op

/-- The examination of wall cycle `w` finds that the tag allows the access (R92). -/
def State.waitOk (s : State) (d w : Nat) (x : WaitX) : Bool :=
  match s.tagSeen d x.tile x.slot w with
  | .empty => x.write
  | .full => !x.write
  | .poison => true

/-- What an issue examines, two wall cycles before it: waits that a disallowed tag causes (R92, R113). -/
def State.tagWaits (s : State) (d t : Nat) (w : BitVec 128) (reads writes : List Nat) : List WaitX :=
  if microTc w then
    let e := (s.die d).wallOf (s.tile d t).cycle - 2
    ((reads.map fun p => WaitX.mk t p false) ++ writes.map fun p => WaitX.mk t p true).filter fun x => !s.waitOk d e x
  else []

/-- Notes the route entry that an instruction applies from a cycle on (R112). -/
def noteRoute (c r : Nat) (h : List (Nat × Nat)) : List (Nat × Nat) :=
  match h with
  | [] => if r = 0 then [] else [(c, r)]
  | e :: _ => if e.2 = r then h else (c, r) :: h

/-- The route entry in force in a cycle. -/
def routeAt (h : List (Nat × Nat)) (c : Nat) : Nat :=
  match h.find? fun e => decide (e.1 ≤ c) with
  | some e => e.2
  | none => 0

/-- Moves the tile past the instruction, one issue cycle on, with its route entry (R91, R112). Words of the local output
that nobody could still take are gone. -/
def State.issued (s : State) (d t : Nat) (w : BitVec 128) : State :=
  s.modTile d t fun x =>
    { x with pc := x.pc + 1, cycle := x.cycle + 1, hist := noteRoute x.cycle (microRoute w) x.hist,
             locOut := if x.rcv.isEmpty && x.vec.isNone then x.locOut.filter fun e => decide (x.cycle < e.1) else x.locOut }

/-- The tags of slots are examined (R176). -/
def State.touchTags (s : State) (d t : Nat) (ps : List Nat) : State :=
  if (s.die d).upsets.isEmpty then s else ps.foldl (fun s p => s.touchTag d t p) s

/-- The slots of a byte range of the task's scratch, physical, each with the first byte of the range in it and how many. -/
def State.slotParts (s : State) (d ofs n : Nat) : List (Nat × Nat × Nat) :=
  (if n = 0 then [] else List.range' (ofs / 256) ((ofs + n - 1) / 256 + 1 - ofs / 256)).map fun q =>
    let lo := max ofs (256 * q)
    (s.phys d q, lo - 256 * q, min (ofs + n) (256 * q + 256) - lo)

/-- A tile reads byte ranges of the task's scratch: the upsets in them are met (R175). -/
def State.touchRanges (s : State) (d t : Nat) (rs : List (Nat × Nat)) : State :=
  if (s.die d).upsets.isEmpty then s
  else (rs.flatMap fun r => s.slotParts d r.1 r.2).foldl (fun s p => s.touchBytes d t p.1 p.2.1 p.2.2) s

/-- The first slot of a read that is POISON, with the 8-byte word that the read meets first in it (R159, R178). -/
def State.poisonRead (s : State) (d t : Nat) (rs : List (Nat × Nat)) : Option (Nat × Nat) :=
  ((rs.flatMap fun r => s.slotParts d r.1 r.2).find? fun p => s.tag d t p.1 == .poison).map fun p => (p.1, p.2.1 / 8)

/-! ### The switch (R86-R88, R112) -/

/-- Inputs and outputs of a switch: N, E, S, W and local, with the selector codes 1-5. -/
inductive SwPort where
  | n | e | s | w | loc
  deriving DecidableEq, Repr

def SwPort.code : SwPort → Nat
  | .n => 1
  | .e => 2
  | .s => 3
  | .w => 4
  | .loc => 5

/-- The selector of an output in a route word (R108). -/
def routeSel (r : Word) : SwPort → Nat
  | .n => bitsOf r.toNat 14 12
  | .e => bitsOf r.toNat 11 9
  | .s => bitsOf r.toNat 8 6
  | .w => bitsOf r.toNat 5 3
  | .loc => bitsOf r.toNat 2 0

/-- The outputs that the input with a selector code drives in a route word. -/
def routeOuts (r : Word) (inp : Nat) : List SwPort :=
  [SwPort.n, .e, .s, .w, .loc].filter fun o => routeSel r o == inp

/-- The tile beyond an output and the input it enters there; none at the edge of the array (R86, R88). -/
def neighbour (t : Nat) : SwPort → Option (Nat × SwPort)
  | .n => if 32 ≤ t then some (t - 32, .s) else none
  | .s => if t < 736 then some (t + 32, .n) else none
  | .e => if t % 32 < 31 then some (t + 1, .w) else none
  | .w => if 0 < t % 32 then some (t - 1, .e) else none
  | .loc => none

/-- An output at the edge of the array that feeds a link adapter (R88). -/
def feedsAdapter (t : Nat) (o : SwPort) : Bool := (o == .e || o == .s || o == .w) && (neighbour t o).isNone

/-- A word that enters tile `t` follows the route entry of its cycle and leaves one cycle later; an MMA with this source may
take it (R82, R86). What leaves through an edge waits in the link adapter, whose delivery is STATIC_ROUTE_ARRIVAL (R88,
R90). -/
def State.moveWord (s : State) (d : Nat) (f : Flight) : State × List Flight :=
  let x := s.tile d f.tile
  let outs := routeOuts (nthD 0 x.routes (routeAt x.hist f.cycle)) f.inp
  let s := s.modTile d f.tile fun x =>
    { x with locOut := if outs.contains .loc then x.locOut ++ [(f.cycle + 1, f.word)] else x.locOut,
             mma := x.mma.map fun m => if f.inp = 5 then m else { m with inWords := m.inWords ++ [(f.cycle, f.inp, f.word)] } }
  let gone := (outs.filter (feedsAdapter f.tile)).map fun o => (o.code, f.tile, f.word)
  let s := if gone.isEmpty then s else s.modDie d fun x => { x with adapters := x.adapters ++ gone }
  (s, (outs.filterMap (neighbour f.tile)).map fun e => ⟨f.cycle + 1, e.1, e.2.code, f.word⟩)

/-- The route entry of the tile is known for the word's cycle: it has issued beyond it, or has ended (R116); and the die has
come to cycle `lim`. -/
def State.flightReady (s : State) (d lim : Nat) (f : Flight) : Bool :=
  let x := s.tile d f.tile
  (x.ended || !s.hasProgram d f.tile || decide (f.cycle < x.cycle)) && decide (f.cycle < lim)

/-- Words move one hop as far as the route entries are known. -/
def State.moveWords (s : State) (d lim : Nat) : State :=
  let fs := (s.die d).flights
  let wait := fs.filter fun f => !s.flightReady d lim f
  let r := (fs.filter (s.flightReady d lim)).foldl (fun (x : State × List Flight) f =>
    let y := x.1.moveWord d f
    (y.1, x.2 ++ y.2)) (s, [])
  r.1.modDie d fun x => { x with flights := wait ++ r.2 }

/-! ### The read port (R71, R72, R163) -/

/-- Two byte ranges share a byte. -/
def rangesMeet (a n b m : Nat) : Bool := decide (0 < n) && decide (0 < m) && decide (a < b + m) && decide (b < a + n)

/-- Every write that a read of `n` bytes from byte `ofs` of the task's scratch in port cycle `c` returns has been made: the
RECV stream and the vector program have come to cycle c − 7 where they write there. -/
def TileX.portReady (x : TileX) (ofs n c : Nat) : Bool :=
  (x.rcv.all fun st =>
     !(decide (st.start + st.did + 7 ≤ c) && rangesMeet ofs n (256 * st.slot + 128 * st.did) (256 * st.count - 128 * st.did))) &&
  (match x.vec with
   | some r => (r.sched.drop r.next).all fun v =>
     !(decide (r.s0 + v.s + v.l + 7 ≤ c) && rangesMeet ofs n (v.into + 256 * r.slotOfs) v.intoLen)
   | none => true)

/-- `n` bytes from byte `ofs` of the task's scratch as reads deliver them, byte j in port cycle `c j`, cycles rising: the array
as it stood after the writes of wall cycle − 7 (R163). -/
def State.portBytes (s : State) (d t ofs n : Nat) (c : Nat → Nat) : List Byte :=
  let a := slotAddr d t (s.phys d 0) + ofs
  let x := s.die d
  let es := (s.tile d t).late.filter fun e => rangesMeet a n e.addr e.old.length && decide (x.wallOf (c 0) < e.wall + 7)
  es.foldl (fun bs e =>
    (List.zip (List.range n) bs).map fun b =>
      if e.addr ≤ a + b.1 ∧ x.wallOf (c b.1) < e.wall + 7 then (e.old[a + b.1 - e.addr]?).getD b.2 else b.2)
    (readBytes s.mem a n)

/-- Physical slots of a byte range of the task's scratch. -/
def State.slotsIn (s : State) (d ofs n : Nat) : List Nat :=
  if n = 0 then [] else (List.range' (ofs / 256) ((ofs + n - 1) / 256 + 1 - ofs / 256)).map (s.phys d)

/-! ### SEND and RECV streams (R86, R114) -/

/-- The stream that moves words: the oldest that is not over. -/
def liveStream (l : List Stream) : Option Stream := l.find? fun st => decide (st.did < 2 * st.count)

/-- One word more for that stream. -/
def stepStream : List Stream → List Stream
  | [] => []
  | st :: r => if st.did < 2 * st.count then { st with did := st.did + 1 } :: r else st :: stepStream r

/-- A SEND stream reads its words and places them on the local input, those of cycles before `lim`; the second word of a slot
is its last (R113, R164). Returns whether a word went. -/
def State.sendWords (d t lim : Nat) : Nat → State × Bool → State × Bool
  | 0, r => r
  | fuel + 1, r =>
    let s := r.1
    match liveStream (s.tile d t).snd with
    | none => r
    | some st =>
      let p := st.start + st.did
      let ofs := 256 * st.slot + 128 * st.did
      if lim ≤ p ∨ !(s.tile d t).portReady ofs 128 p then r
      else
        let q := s.phys d (ofs / 256)
        let s := s.touchBytes d t q (ofs % 256) 128
        if s.tag d t q = .poison then (s.scrAbort d t q (ofs % 256 / 8) 3, true)
        else
          let word := s.portBytes d t ofs 128 fun _ => p
          let s := s.modTile d t fun x => { x with snd := stepStream x.snd }
          let s := s.modDie d fun x => { x with flights := x.flights ++ [⟨p, t, 5, word⟩] }
          let s := if st.tagop = 1 ∧ st.did % 2 = 1 then s.setTagAt d t q .empty ((s.die d).wallOf p + 1) else s
          State.sendWords d t lim fuel (s, true)

/-- A RECV stream writes the words of the local output that have come, those of cycles before `lim`; the second word of a
slot completes a write of all of it (R113, R160). -/
def State.recvWords (d t lim : Nat) : Nat → State × Bool → State × Bool
  | 0, r => r
  | fuel + 1, r =>
    let s := r.1
    match liveStream (s.tile d t).rcv with
    | none => r
    | some st =>
      let p := st.start + st.did
      if lim ≤ p then r
      else
        match (s.tile d t).locOut.find? fun e => e.1 == p with
        | none => r
        | some e =>
          let q := s.phys d (st.slot + st.did / 2)
          let w := (s.die d).wallOf p
          let s := s.tilePut d t q (st.did % 2 * 128) w e.2
          let s := s.modTile d t fun x =>
            { x with rcv := stepStream x.rcv, locOut := if x.vec.isNone then x.locOut.filter fun e => e.1 != p else x.locOut }
          let s := if st.did % 2 = 1 then s.tileTag d t q w true (st.tagop == 1) else s
          State.recvWords d t lim fuel (s, true)

/-- What the streams and the switches do before issue cycle `lim`, as far as the route entries are known. -/
def State.settle : Nat → State → Nat → Nat → State
  | 0, s, _, _ => s
  | fuel + 1, s, d, lim =>
    let busy := s.tiles.filter fun e => e.1 / 768 == d && (!e.2.snd.isEmpty || !e.2.rcv.isEmpty)
    let fs := (s.die d).flights
    if busy.isEmpty && fs.isEmpty then s
    else
      let r := busy.foldl (fun r e => if !e.2.snd.isEmpty then State.sendWords d (e.1 % 768) lim 16384 r else r) (s, false)
      let go := r.2 || (r.1.die d).flights.any (r.1.flightReady d lim)
      let r := busy.foldl (fun r e => if !e.2.rcv.isEmpty then State.recvWords d (e.1 % 768) lim 16384 r else r)
        (r.1.moveWords d lim, go)
      if r.2 then State.settle fuel r.1 d lim else r.1

/-- Words placed on a tile's local input in their cycles (R86). -/
def State.placeWords (s : State) (d t : Nat) (ws : List (Nat × List Byte)) : State :=
  s.modDie d fun x => { x with flights := x.flights ++ ws.map fun e => ⟨e.1, t, 5, e.2⟩ }

/-- The issue cycle that the die comes to in this grain (R98). -/
def State.reached (s : State) (d : Nat) : Nat := (s.die d).issueAt ((s.die d).wall + s.grainCycles d)

/-- Brings the streams to issue cycle `lim`. -/
def State.stream (s : State) (d lim : Nat) : State := s.settle 20000 d lim

/-- Words of the local output in the given cycles; none while one has not come. -/
def TileX.localAt (x : TileX) (cs : List Nat) : Option (List (List Byte)) :=
  cs.mapM fun c => (x.locOut.find? fun e => e.1 == c).map fun e => e.2

/-- Physical slots of `n` logical slots from `first`. -/
def State.physRange (s : State) (d first n : Nat) : List Nat := List.range' (s.phys d first) n

/-! ### Matrix operations (R76-R85) -/

/-- The operation as it stands at its issue. -/
def State.mmaStart (s : State) (d t : Nat) (w : BitVec 128) : MmaRun :=
  let ws := s.mmaWords d t (bitsOf (microA w) 31 24)
  { desc := ws, bank := bitsOf (microA w) 23 23, init := bitOf (microA w) 22, cycle := (s.tile d t).cycle,
    pos := ⟨0, none, 0⟩, rows := [], entered := 0, upto := 0, wCur := [], wNext := [],
    reads := (mmaDesc ws).readSlots.map fun p => s.phys d p, lastRead := [], tagop := microTagop w, inWords := [] }

/-- The products of row bytes `a` and column `j` of block `w` in pass `p`, ascending in K (R43, R80). -/
def mmaProds (x : MmaDesc) (a w : List Byte × List Byte) (p j : Nat) : List Prod :=
  let kc := kcOf x.fmt
  let n := min kc (x.k - p % x.kBlocks * kc)
  (List.range n).map fun k =>
    prodOf x.fmt (elemOf x.fmt a.1 k) (elemOf x.fmt w.1 (k * ncOf x.fmt + j))
      (if x.scaled then some (nthD 0 a.2 (k / 32)).toNat else none)
      (if x.scaled then some (nthD 0 w.2 (k / 32 * ncOf x.fmt + j)).toNat else none)

/-- One row of one pass lands in the bank (R78-R80, R84). -/
def mmaRowInto (x : MmaDesc) (m : MmaRun) (e : MmaRow) (y : TileX × Flags) : TileX × Flags :=
  let p := e.place / x.m
  let r := e.place % x.m
  let a := (e.a.take x.rowElems, (e.a.drop x.rowElems).take x.rowScales)
  let w := (e.w.take x.blockElems, (e.w.drop x.blockElems).take x.blockScales)
  let nb := p / x.kBlocks
  let width := (accFmt x.fmt).width / 8
  (List.range (min (ncOf x.fmt) (x.n - nb * ncOf x.fmt))).foldl (fun y j =>
    let e := r * ncOf x.fmt + j
    let acc := if m.init && p % x.kBlocks == 0 then 0 else y.1.entryOf (4 + m.bank) width e
    let v := accumulate x.fmt x.step x.round acc (mmaProds x a w p j)
    (y.1.setEntry (4 + m.bank) width e v.1, y.2.or v.2)) y

/-- Byte ranges of the task's scratch that row `r` takes from column block `kb` to `kb + k` (R578). -/
def MmaDesc.rowFrom (x : MmaDesc) (r kb k : Nat) : List (Nat × Nat) :=
  [(x.aSlot * 256 + x.aStride * r + kb * x.rowElems, k * x.rowElems),
   (x.aScaleSlot * 256 + x.aScaleStride * r + kb * x.rowScales, k * x.rowScales)]

/-- Byte ranges of bytes `lo` to `lo + k` of W block `b`, its elements first and then its scales (R578). -/
def MmaDesc.blockFrom (x : MmaDesc) (b lo k : Nat) : List (Nat × Nat) :=
  let e := min (lo + k) x.blockElems - lo
  [(x.wSlot * 256 + x.wStride * b + lo, e),
   (x.wScaleSlot * 256 + x.wScaleStride * b + (lo - x.blockElems), min (k - e) (x.blockScales - (lo - x.blockElems)))]

/-- What the operation takes from scratch in its present cycle while others leave the read port `spare` bytes: the ranges of
a row, and of the part of a W block (R82, R83). -/
def mmaTakes (x : MmaDesc) (m : MmaRun) (spare : Nat) : List (Nat × Nat) × List (Nat × Nat) :=
  let p := m.pos.pass.getD 0
  let row := if m.pos.row x && x.aSrc == 0 then x.rowFrom (m.entered % x.m) (p % x.kBlocks) 1 else []
  let busy := if x.aSrc = 0 ∧ m.pos.pass.isSome then x.rowBytes else 0
  let block := if m.pos.loads x && x.wSrc == 0 then
      x.blockFrom (match m.pos.pass with
        | none => 0
        | some p => p + 1) m.pos.loaded (min (spare - busy) (x.blockBytes - m.pos.loaded))
    else []
  (row, block)

/-- Bytes of the read port that others leave the operation in its present cycle (R83). -/
def mmaSpare (y : TileX) (m : MmaRun) : Nat :=
  let vec := match y.vec with
    | some v => (vecPorts v.s0 v.sched m.cycle).1
    | none => 0
  let send := if y.snd.any fun st => decide (st.start ≤ m.cycle) && decide (m.cycle < st.start + 2 * st.count) then 128 else 0
  256 - vec - send

/-- One cycle of the schedule: a row may enter the array, a W block may load (R82-R84, R163). None where the operation is over
or what it takes in this cycle has not come; with a POISON slot that it reads and the word (R159). -/
def State.mmaCycle (s : State) (d t : Nat) (x : MmaDesc) (y : TileX) (m : MmaRun) : Option (MmaRun × Option (Nat × Nat)) :=
  if m.pos.done x then none
  else
    let spare := mmaSpare y m
    let takes := mmaTakes x m spare
    let word := fun (src : Nat) => (m.inWords.find? fun e => e.1 == m.cycle && e.2.1 == src).map fun e => e.2.2
    let port := fun (rs : List (Nat × Nat)) =>
      if rs.all fun r => y.portReady r.1 r.2 m.cycle then
        some (rs.flatMap fun r => if r.2 = 0 then [] else s.portBytes d t r.1 r.2 fun _ => m.cycle)
      else none
    let enters := m.pos.row x
    let a := if !enters then some [] else if x.aSrc = 0 then port takes.1 else word x.aSrc
    let b := if !m.pos.loads x then some [] else if x.wSrc = 0 then port takes.2 else word x.wSrc
    match a, b with
    | some a, some b =>
      let slots := ((takes.1 ++ takes.2).flatMap fun r => s.slotsIn d r.1 r.2).eraseDups
      let next := m.pos.next x spare
      let w := m.wNext ++ b
      let turn := decide (next.pass ≠ m.pos.pass)
      some ({ m with
        cycle := m.cycle + 1, pos := next,
        rows := if enters then m.rows ++ [⟨m.cycle + latencyOf x.fmt x.step, m.entered, a, m.wCur⟩] else m.rows,
        entered := if enters then m.entered + 1 else m.entered,
        wCur := if turn then w else m.wCur, wNext := if turn then [] else w,
        lastRead := if m.tagop = 1 then slots.foldl (fun l p => mapPut l p m.cycle) m.lastRead else m.lastRead,
        inWords := m.inWords.filter fun e => decide (m.cycle < e.1) }, s.poisonRead d t (takes.1 ++ takes.2))
    | _, _ => none

/-- Goes on to a cycle, that one included, or to a read of a POISON slot; what each cycle reads meets its upsets. -/
def State.mmaTo (d t : Nat) (x : MmaDesc) (y : TileX) (c : Nat) : Nat → State → MmaRun → State × MmaRun × Option (Nat × Nat)
  | 0, s, m => (s, m, none)
  | n + 1, s, m =>
    if c < m.cycle then (s, m, none)
    else
      let takes := mmaTakes x m (mmaSpare y m)
      let s := if m.pos.done x then s else s.touchRanges d t (takes.1 ++ takes.2)
      match s.mmaCycle d t x y m with
      | some (m, none) => State.mmaTo d t x y c n s m
      | some (m, some p) => (s, m, some p)
      | none => (s, m, none)

/-- Rows readable in a cycle land in their order. -/
def mmaLand (x : MmaDesc) (c : Nat) : Nat → MmaRun → TileX × Flags → MmaRun × (TileX × Flags)
  | 0, m, y => (m, y)
  | n + 1, m, y =>
    match m.rows with
    | [] => (m, y)
    | r :: rs =>
      if r.due ≤ c then mmaLand x c n { m with rows := rs, upto := m.upto + 1 } (mmaRowInto x m r y) else (m, y)

/-- Byte ranges that the operation has yet to read. -/
def mmaRest (x : MmaDesc) (m : MmaRun) : List (Nat × Nat) :=
  let p := m.pos.pass.getD 0
  let again := decide (p / x.kBlocks + 1 < x.nBlocks)
  let a := if x.aSrc ≠ 0 ∨ m.pos.done x then []
    else (List.range x.m).flatMap fun r =>
      let kb := if again then 0 else if m.pos.pass.isSome ∧ r < m.entered - p * x.m then p % x.kBlocks + 1 else p % x.kBlocks
      x.rowFrom r kb (x.kBlocks - kb)
  let b := match m.pos.pass with
    | none => 0
    | some p => p + 1
  let w := if x.wSrc ≠ 0 ∨ x.passes ≤ b then []
    else x.blockFrom b m.pos.loaded (x.blockBytes - m.pos.loaded) ++
      (List.range' (b + 1) (x.passes - (b + 1))).flatMap fun i => x.blockFrom i 0 x.blockBytes
  a ++ w

/-- TAGOP 1 empties the slots that the operation has read for the last time (R113, R164). -/
def State.mmaEmpty (s : State) (d t : Nat) (x : MmaDesc) : State :=
  match (s.tile d t).mma with
  | none => s
  | some m =>
    if m.tagop ≠ 1 then s
    else
      let rest := ((mmaRest x m).flatMap fun r => s.slotsIn d r.1 r.2).eraseDups
      let gone := m.reads.filter fun p => !rest.contains p
      let s := gone.foldl (fun s p => s.setTagAt d t p .empty ((s.die d).wallOf (mapGet 0 m.lastRead p) + 1)) s
      s.modTile d t fun y => { y with mma := some { m with reads := m.reads.filter rest.contains } }

/-- Brings the tile's operation to an issue cycle: rows readable then have landed and raised their flags (R84, R85); a read of
a POISON slot aborts (R159). -/
def State.mmaCatchUp (s : State) (d t c : Nat) : State :=
  match (s.tile d t).mma with
  | none => s
  | some m =>
    let x := mmaDesc m.desc
    let y := s.tile d t
    let q := State.mmaTo d t x y c (c + 1 - m.cycle) s m
    let r := mmaLand x c q.2.1.rows.length q.2.1 (y, Flags.none)
    let s := (q.1.setTile d t { r.2.1 with mma := some r.1 }).raise d t true r.2.2
    match q.2.2 with
    | some p => s.scrAbort d t p.1 p.2 3
    | none => s.mmaEmpty d t x

/-- Brings the operation to an issue cycle, but no further than the start of a vector instruction that has yet to read or
write its bank (R85, R143). -/
def State.mmaSync (s : State) (d t c : Nat) : State :=
  match (s.tile d t).mma, (s.tile d t).vec with
  | some m, some r =>
    let p := s.vecProg d t r.prog
    let later := ((List.zip p.instrs r.sched).drop r.next).filter fun e =>
      e.1.sources.contains (4 + m.bank) || e.1.dst == 4 + m.bank
    s.mmaCatchUp d t (later.foldl (fun c e => min c (r.s0 + e.2.s)) c)
  | some _, none => s.mmaCatchUp d t c
  | none, _ => s

/-- Issues an instruction that reads and writes the given physical slots: it holds the die on a tag that does not
allow it (R92, R94), and else has the effect `f`. -/
def State.issueWith (s : State) (d t : Nat) (w : BitVec 128) (op : Nat) (reads writes : List Nat)
    (f : State → State) : State :=
  if !s.atMicro d t w op then s
  else
    let c := (s.tile d t).cycle
    let s := (s.stream d c).mmaSync d t (c - 1)
    let s := if microTc w then s.touchTags d t (reads ++ writes) else s
    let waits := s.tagWaits d t w reads writes
    if !s.dieRuns d then s
    else if !waits.isEmpty then s.holdDie d waits
    else if s.dieState d ≠ dsRUNNING then s
    else (f (s.issued d t w)).stream d c

/-! ### Control (R114) -/

def execNop (d : Fin 12) (t : Fin 768) (w : BitVec 128) (s : State) : Host.Outcome State Fault Refusal :=
  .next (s.issueWith d t w 0x00 [] [] id)

def execEndStep (d : Fin 12) (t : Fin 768) (w : BitVec 128) (s : State) : Host.Outcome State Fault Refusal :=
  .next (s.issueWith d t w 0x01 [] [] fun s =>
    s.modTile d t fun x => { x with ended := true, hist := noteRoute x.cycle 0 x.hist })

def execIdle (d : Fin 12) (t : Fin 768) (w : BitVec 128) (s : State) : Host.Outcome State Fault Refusal :=
  .next (s.issueWith d t w 0x02 [] [] fun s => s.modTile d t fun x => { x with cycle := x.cycle + bitsOf (microA w) 15 0 })

def execLoop (d : Fin 12) (t : Fin 768) (w : BitVec 128) (s : State) : Host.Outcome State Fault Refusal :=
  .next (s.issueWith d t w 0x03 [] [] fun s =>
    s.modTile d t fun x => { x with loops := mapSet 0 x.loops (bitsOf (microA w) 31 29) (microB w) })

/-- BRL at a tile: decrements and branches, or falls through. -/
def brlTile (ctr target : Nat) (x : TileX) : TileX :=
  let v := mapGet 0 x.loops ctr
  if v = 0 then x else { x with loops := mapSet 0 x.loops ctr (v - 1), pc := target }

def execBrl (d : Fin 12) (t : Fin 768) (w : BitVec 128) (s : State) : Host.Outcome State Fault Refusal :=
  .next (s.issueWith d t w 0x04 [] [] fun s =>
    s.modTile d t (brlTile (bitsOf (microA w) 31 29) (bitsOf (microA w) 9 0)))

/-! ### Matrix commands (R78, R84) -/

def execMma (d : Fin 12) (t : Fin 768) (w : BitVec 128) (s : State) : Host.Outcome State Fault Refusal :=
  let x := mmaDesc (s.mmaWords d t (bitsOf (microA w) 31 24))
  .next (s.issueWith d t w 0x10 (x.readSlots.map fun p => s.phys d p) [] fun s =>
    let run := s.mmaStart d t w
    s.modTile d t fun y => { y with mma := some run })

/-- The operation has drained (R84): every row has landed, and Λ cycles have gone by since the last pass; the array is free. -/
def State.mmaFinish (s : State) (d t : Nat) : State :=
  let s := (s.stream d (s.reached d)).mmaCatchUp d t (s.reached d - 1)
  match (s.tile d t).mma with
  | none => s
  | some m =>
    let x := mmaDesc m.desc
    if m.upto < x.passes * x.m ∨ !m.pos.done x ∨ s.reached d < m.cycle + latencyOf x.fmt x.step then s
    else s.modTile d t fun y => { y with mma := none }

def execMmaComplete (d : Fin 12) (t : Fin 768) (s : State) : Host.Outcome State Fault Refusal :=
  .next (if s.dieState d == dsRUNNING then s.mmaFinish d t else s)

/-! ### Streams and tags (R114) -/

def execSend (d : Fin 12) (t : Fin 768) (w : BitVec 128) (s : State) : Host.Outcome State Fault Refusal :=
  let slot := bitsOf (microA w) 31 19
  let count := bitsOf (microA w) 18 6
  .next (s.issueWith d t w 0x30 (s.physRange d slot count) [] fun s =>
    s.modTile d t fun x => { x with snd := x.snd ++ [⟨slot, count, microTagop w, x.cycle, 0⟩] })

/-- The oldest SEND stream ends: its words have passed the switch. -/
def State.sendFinish (s : State) (d t : Nat) : State :=
  let s := s.stream d (s.reached d)
  match (s.tile d t).snd with
  | [] => s
  | st :: _ =>
    if st.did < 2 * st.count then s
    else (s.mmaSync d t (st.start + 2 * st.count - 1)).modTile d t fun x => { x with snd := x.snd.tail }

def execSendComplete (d : Fin 12) (t : Fin 768) (s : State) : Host.Outcome State Fault Refusal :=
  .next (if s.dieState d == dsRUNNING then s.sendFinish d t else s)

def execRecv (d : Fin 12) (t : Fin 768) (w : BitVec 128) (s : State) : Host.Outcome State Fault Refusal :=
  let slot := bitsOf (microA w) 31 19
  let count := bitsOf (microA w) 18 6
  .next (s.issueWith d t w 0x31 [] (s.physRange d slot count) fun s =>
    s.modTile d t fun x => { x with rcv := x.rcv ++ [⟨slot, count, microTagop w, x.cycle, 0⟩] })

/-- The oldest RECV stream ends: every word of the local output in its cycles is written (R114). -/
def State.recvFinish (s : State) (d t : Nat) : State :=
  let s := s.stream d (s.reached d)
  match (s.tile d t).rcv with
  | [] => s
  | st :: _ => if st.did < 2 * st.count then s else s.modTile d t fun x => { x with rcv := x.rcv.tail }

def execRecvComplete (d : Fin 12) (t : Fin 768) (s : State) : Host.Outcome State Fault Refusal :=
  .next (if s.dieState d == dsRUNNING then s.recvFinish d t else s)

def execTags (d : Fin 12) (t : Fin 768) (w : BitVec 128) (s : State) : Host.Outcome State Fault Refusal :=
  let slot := bitsOf (microA w) 31 19
  let count := bitsOf (microA w) 18 6
  let tag : Tag := if bitsOf (microA w) 1 0 = 1 then .full else .empty
  .next (s.issueWith d t w 0x3C [] [] fun s =>
    (s.physRange d slot count).foldl (fun s p => s.setTagAt d t p tag ((s.die d).wallOf ((s.tile d t).cycle - 1) + 1)) s)

/-- A write of SCR_CLEAR (R10, R173): the RW fields take effect, and GO starts a clear of the range they then
hold. -/
def State.writeScrClear (s : State) (d : Nat) (v : Word) : State :=
  let first := bitsOf v.toNat 31 19
  let count := bitsOf v.toNat 18 6
  let s := (s.setFld (scrB d) SCR_CLEAR.FIRST_SLOT first).setFld (scrB d) SCR_CLEAR.SLOT_COUNT count
  if bitOf v.toNat 0 then s.startClear d first count else s

/-! ### Arrivals, clears and the sequencer's own commands (R90, R92, R104, R116, R125, R159, R169, R173, R177) -/

def execDieStart (d : Fin 12) (s : State) : Host.Outcome State Fault Refusal := .next (s.startDie d)

def execSwitchStepStart (d : Fin 12) (s : State) : Host.Outcome State Fault Refusal := .next (s.switchDone d)

def execArm (d : Fin 12) (s : State) : Host.Outcome State Fault Refusal := .next (s.armDie d)

def execStop (d : Fin 12) (s : State) : Host.Outcome State Fault Refusal := .next (s.stopDie d)

def execAbort (d : Fin 12) (s : State) : Host.Outcome State Fault Refusal := .next (s.abortDie d)

def execDieAtEnd (d : Fin 12) (s : State) : Host.Outcome State Fault Refusal := .next (s.endDie d)

def execRefireSwitch (d : Fin 12) (s : State) : Host.Outcome State Fault Refusal := .next (s.refireDie d)

def execTagWaitRelease (d : Fin 12) (s : State) : Host.Outcome State Fault Refusal := .next (s.releaseHold d)

def execTagWaitTimeout (d : Fin 12) (s : State) : Host.Outcome State Fault Refusal := .next (s.holdTimeout d)

def execStaticRouteArrival (src d : Fin 12) (t : Fin 768) (slot : Fin 5120) (data : List Byte) (s : State) :
    Host.Outcome State Fault Refusal :=
  .next (s.routeArrive src d t slot (fitBytes 256 data))

def execScratchArrival (d : Fin 12) (t : Fin 768) (slot : Fin 5120) (ofs : Fin 256) (data : List Byte)
    (fill poison : Bool) (s : State) : Host.Outcome State Fault Refusal :=
  .next (s.scrLand d t slot ofs (data.take (256 - ofs)) fill poison 15)

def execScratchWindowAccess (d : Fin 12) (a : WindowAccess) (s : State) : Host.Outcome State Fault Refusal :=
  .next (s.windowAccess d a 15).1

def execScrClearGo (d : Fin 12) (v : Word) (s : State) : Host.Outcome State Fault Refusal :=
  .next (s.writeScrClear d v)

def execScratchScrub (d : Fin 12) (struck : List Upset) (s : State) : Host.Outcome State Fault Refusal :=
  .next (s.scrubScratch d struck)

end Sys2Proof.Machine
end

