-- ==== Sys2Proof/Machine/Clocks.lean ====
section
/-! DEFINITION. Stretchable clocks and their demands (R394-R398, R506, R582), the timebase (R401-R408), and one grain of
time (log entry 1). -/

namespace Sys2Proof.Machine

/-! ### Demands of a die (R397)

Keys of a demand: its CLK_CAUSE bit for VDIFF 1, TDIE 2 and TPKG 3; 16 + region for TJ; 48 + region for DROOP; 100 for the
stack of R506. The governor's demand is PWR_PERIOD. -/

def State.demandsOf (s : State) (d : Nat) : FMap Nat := if d < 12 then (s.die d).demands else (s.proc d).demands
def State.calmOf (s : State) (d : Nat) : FMap Nat := if d < 12 then (s.die d).calm else (s.proc d).calm
def State.sensorsOf (s : State) (d : Nat) : FMap (Int × Int) := if d < 12 then (s.die d).sensors else (s.proc d).sensors

def State.setDemands (s : State) (d : Nat) (m : FMap Nat) : State :=
  if d < 12 then s.modDie d fun x => { x with demands := m } else s.setProc d { s.proc d with demands := m }
def State.setCalm (s : State) (d : Nat) (m : FMap Nat) : State :=
  if d < 12 then s.modDie d fun x => { x with calm := m } else s.setProc d { s.proc d with calm := m }
def State.setSensors (s : State) (d : Nat) (m : FMap (Int × Int)) : State :=
  if d < 12 then s.modDie d fun x => { x with sensors := m } else s.setProc d { s.proc d with sensors := m }

/-- Regions of a die (R582). -/
def regionsOf (d : Nat) : Nat := if d < 12 then 8 else 16

/-- The CLK_CAUSE bit of a demand. -/
def causeBit (key : Nat) : Nat := if key = 100 then 0 else if 48 ≤ key then 5 else if 16 ≤ key then 4 else key

def State.govPeriod (s : State) : Nat := s.fld pwrB PWR_PERIOD.PERIOD_Q12

/-- The period that the active demands require (R397). -/
def State.clockTarget (s : State) (d : Nat) : Nat :=
  (s.demandsOf d).foldl (fun m e => max m e.2) (max 0x1000 s.govPeriod)

def State.clockNow (s : State) (d : Nat) : Nat := s.fld (clkB d) CLK_PERIOD.PERIOD_Q12

/-- Sets the period in effect; at 0x1000 the edges fall on grain edges again (R396). -/
def State.setClock (s : State) (d p : Nat) : State :=
  let old := s.clockNow d
  let s := s.setFld (clkB d) CLK_PERIOD.PERIOD_Q12 p
  let s := if d < 12 then s.setFld (dsqB d) DSQ_CLOCK.PERIOD_Q12 p else s
  if p = 0x1000 ∧ old ≠ p then
    (if d < 12 then s.modDie d fun x => { x with frac := 0 } else s.setProc d { s.proc d with frac := 0 })
  else s

/-- A longer period applies at once; a shorter one is reached grain by grain (R396). CLK_CAUSE shows the active demands. -/
def State.applyClock (s : State) (d : Nat) : State :=
  let bits := ((s.demandsOf d).map fun e => causeBit e.1) ++ (if 0x1000 < s.govPeriod then [0] else [])
  let s := s.setFld (clkB d) CLK_CAUSE.CAUSE
    ((List.range 6).foldl (fun n b => if bits.contains b then n + 2 ^ b else n) 0)
  if s.clockNow d < s.clockTarget d then s.setClock d (s.clockTarget d) else s

def State.demand (s : State) (d key period : Nat) : State := (s.setDemands d (mapPut (s.demandsOf d) key period)).applyClock d
def State.undemand (s : State) (d key : Nat) : State :=
  ((s.setDemands d (mapErase (s.demandsOf d) key)).setCalm d (mapErase (mapErase (s.calmOf d) key) (200 + key))).applyClock d

/-- Notes since when a condition has been clear. -/
def State.noteCalm (s : State) (d key : Nat) (clear : Bool) : State :=
  if clear then
    (if (mapGet? (s.calmOf d) key).isSome then s else s.setCalm d (mapPut (s.calmOf d) key s.now))
  else s.setCalm d (mapErase (s.calmOf d) key)

/-- A measure with two steps (R397, R582): above `hi` 0x1200, above `hi2` 0x1800; clear at or below `lo`, and at `lo2` for
the upper step. -/
def State.stepDemand (s : State) (d key m hi hi2 lo lo2 : Nat) : State :=
  let cur := mapGet 0 (s.demandsOf d) key
  let s := if hi2 < m then s.demand d key 0x1800 else if hi < m ∧ cur = 0 then s.demand d key 0x1200 else s
  (s.noteCalm d key (decide (m ≤ lo))).noteCalm d (200 + key) (decide (m ≤ lo2))

/-- Largest minus smallest of the temperatures. -/
def spreadOf (ts : List Int) : Nat :=
  match ts with
  | [] => 0
  | t :: r => (r.foldl max t - r.foldl min t).toNat

/-- Temperatures and supply deviations of the regions of a die that have been read. -/
def State.readings (s : State) (d : Nat) : List (Nat × Int × Int) := s.sensorsOf d

/-- Largest difference between adjacent regions: neighbours on a compute die, every pair on a processor die (R397). -/
def vdiffOf (compute : Bool) (rs : List (Nat × Int × Int)) : Nat :=
  if compute then
    rs.foldl (fun m a => rs.foldl (fun m b => if a.1 + 1 = b.1 then max m (a.2.2 - b.2.2).natAbs else m) m) 0
  else spreadOf (rs.map fun r => r.2.2)

/-- A temperature as CLK_SENSE shows it. -/
def senseByte (x : Int) : Nat := min 255 x.toNat

/-- The demands of one die by its sensors (R397). -/
def State.senseDie (s : State) (d : Nat) : State :=
  let rs := s.readings d
  let ts := rs.map fun r => r.2.1
  let vdiff := vdiffOf (decide (d < 12)) rs
  let spread := spreadOf ts
  let b := clkB d
  let s := ((s.setFld b CLK_SENSE.TJ_MAX (senseByte (ts.foldl max 0))).setFld b CLK_SENSE.TSPREAD (min 255 spread)).setFld b
    CLK_SENSE.VDIFF (min 255 vdiff)
  let s := s.stepDemand d 1 vdiff 50 75 45 70
  let s := s.stepDemand d 2 spread 30 40 25 35
  rs.foldl (fun s r =>
    let s := if 95 ≤ r.2.1 then s.demand d (16 + r.1) 0x2000 else s
    let s := s.noteCalm d (16 + r.1) (decide (r.2.1 < 90))
    let s := if r.2.2 < -30 then s.demand d (48 + r.1) 0x1400 else s
    s.noteCalm d (48 + r.1) (decide (-30 ≤ r.2.2))) s

/-- TPKG: every region of the package against every other, on every die (R397, R582). -/
def State.sensePkg (s : State) : State :=
  let spread := spreadOf ((List.range 14).flatMap fun d => (s.readings d).map fun r => r.2.1)
  (List.range 14).foldl (fun s d =>
    (if 40 < spread then s.demand d 3 0x1200 else s).noteCalm d 3 (decide (spread ≤ 35))) s

/-- One reading of a sensor (R398); a stack's reading drives the demand of R506 on its die. -/
def State.sense (s : State) (r : Reading) : State :=
  match r.unit with
  | .die d region =>
    if d < 14 ∧ region < regionsOf d then s.setSensors d (mapPut (s.sensorsOf d) region (r.temp, r.mv)) else s
  | .stack k =>
    if k < 12 then
      let s := { s with pwr := { s.pwr with stackTemp := mapPut s.pwr.stackTemp k r.temp } }
      (if 88 ≤ r.temp then s.demand k 100 0x2000 else s).noteCalm k 100 (decide (r.temp < 85))
    else s

def execSensorSample (rs : List Reading) (s : State) : Host.Outcome State Fault Refusal :=
  .next ((List.range 14).foldl (fun s d => s.senseDie d) (rs.foldl State.sense s)).sensePkg

/-- The condition of a demand has been clear for `n` grains. -/
def State.calmFor (s : State) (d key n : Nat) : Bool :=
  match mapGet? (s.calmOf d) key with
  | some g => decide (g + n ≤ s.now)
  | none => false

/-- Ends the demands of a cause whose condition has been clear long enough, or takes the upper step back (R397, R582). -/
def State.endDemand (s : State) (d cause : Nat) : State :=
  ((s.demandsOf d).filter fun e => causeBit e.1 == cause).foldl (fun s e =>
    if s.calmFor d e.1 (if cause = 5 then 64 else 2000) then s.undemand d e.1
    else if e.2 = 0x1800 ∧ s.calmFor d (200 + e.1) 2000 then s.demand d e.1 0x1200
    else s) s

def execClockDemandEnd (d : Fin 14) (cause : Fin 6) (s : State) : Host.Outcome State Fault Refusal :=
  .next (s.endDemand d cause)

/-- DROOP applies within 4 cycles (R398). -/
def execDroopDetect (d : Fin 14) (region : Nat) (s : State) : Host.Outcome State Fault Refusal :=
  .next (if region < regionsOf d then (s.noteCalm d (48 + region) false).demand d (48 + region) 0x1400 else s)

/-! ### One grain (R395, R396, R401) -/

/-- The clock generators of the compute and processor dies run. -/
def State.clocksRun (s : State) : Bool := s.pwr.slump.isNone && !s.pwr.tripped && !s.jtag.heldReset

/-- A shorter period is reached by at most 16 units a grain, and stretched grains are counted. -/
def State.clockGrain (s : State) (d : Nat) : State :=
  let cur := s.clockNow d
  let s := if s.clockTarget d < cur then s.setClock d (max (s.clockTarget d) (cur - 16)) else s
  if 0x1000 < cur then s.bump (clkB d) CLK_STRETCH_GRAINS.COUNT else s

/-- The matrix units, streams and switches of a die do what belongs to the issue cycles before `c`. -/
def State.runTiles (s : State) (d c : Nat) : State :=
  let s := s.stream d c
  (s.tiles.filter fun e => e.1 / 768 == d && e.2.mma.isSome).foldl (fun s e => s.mmaSync d (e.1 % 768) (c - 1)) s

/-- Wall cycle `w` of a die: the tiles have done what belongs to the cycles before it, and a clear takes its slot (R173). -/
def State.clearCycle (s : State) (d : Nat) (run : Bool) (w : Nat) : State :=
  match (s.die d).clear with
  | none => s
  | some c =>
    if c.did < c.count ∧ w = c.go + 1 + c.did then
      let s := if run then s.runTiles d ((s.die d).issueAt w) else s
      (s.clearSlot d (c.first + c.did) w).modDie d fun x => { x with clear := some { c with did := c.did + 1 } }
    else s

/-- The arithmetic cycles of a compute die in one grain (R395): wall cycles, issue cycles where it runs (R91, R92), and the
slots of a clear, each in its cycle (R173). The cycles of a stretched clock go on over the grain edges also while nothing
runs. -/
def State.cyclesGrain (s : State) (d : Nat) : State :=
  let run := s.dieState d == dsRUNNING && (s.die d).switching.isNone
  let x := s.die d
  let p := s.clockNow d
  if s.dieRuns d || x.clear.isSome || decide (x.wall < x.wallTo) || p != 0x1000 then
    let f := x.frac + 16384
    let n := if p = 0 then 0 else f / p
    let s := s.modDie d fun x => { x with frac := if p = 0 then 0 else f % p, wall := x.wall + n }
    let s := if x.clear.isSome then (List.range n).foldl (fun s j => s.clearCycle d run (x.wall + j)) s else s
    if run then
      let c := (s.die d).issueAt (s.die d).wall
      (s.stepTo d c).runTiles d c
    else s
  else s

/-- One grain passes: the counter advances by one, a correction slews by at most 1/1,024 grain (R405), the dies run, and the cores
send what their write buffers merged (DESIGN CHOICE, log entry 19: R206 does not say when). -/
def State.tick (s : State) : State :=
  let step := if s.tb.slew < 0 then max s.tb.slew (-64) else min s.tb.slew 64
  let s := { s with tb := { s.tb with now := s.tb.now + 1, slew := s.tb.slew - step } }
  if s.clocksRun then
    ((List.range 12).foldl (fun s d => s.cyclesGrain d) ((List.range 14).foldl (fun s d => s.clockGrain d) s)).sendAllStores
  else s

/-! ### The timebase (R401-R408) -/

def tbFREE : Nat := 0
def tbACQUIRING : Nat := 1
def tbLOCKED : Nat := 2
def tbHOLDOVER : Nat := 3

def State.setTb (s : State) (f : TbX → TbX) : State := { s with tb := f s.tb }
def State.tbGM (s : State) : Bool := s.flag tbB TB_CTRL.GM

/-- The packet of a timebase message, one hop over a port (R312, R404). -/
def State.tbPacket (s : State) (port kind : Nat) (m : TbMsg) : Packet :=
  let payload := toBytes (m.stamp / 65536) 8 ++
    toBytes (m.stamp % 65536 * 2 ^ 16 + m.distance * 2 ^ 8 + bit1 m.ppsLocked * 2 ^ 7) 4 ++ toBytes (m.gmPlace * 2 ^ 17) 4
  { s.packet 4 kind (s.portPeer port) 0 0 payload with hops := 1 }

/-- A timebase packet on a port, which takes its turn there (R311, R404). -/
def State.sendTb (s : State) (port kind : Nat) (stamp : Nat) : State :=
  let m : TbMsg :=
    { stamp := stamp, distance := s.fld tbB TB_STATUS.DISTANCE, ppsLocked := s.flag tbB TB_STATUS.PPS_LOCKED,
      gmPlace := s.fld tbB TB_GM_PLACE.PLACE }
  let s := { s with fabric := { s.fabric with tc4 := s.fabric.tc4 ++ [(port, kind, m)] } }
  (s.modPort port fun x => { x with outQ := x.outQ ++ [s.tbPacket port kind m] }).portSend port

/-- The package announces its time: it is LOCKED, or the grandmaster (R404). -/
def State.announces (s : State) : Bool := s.tbState == tbLOCKED || s.tbGM

/-- TB_SYNC on every port in UP (R404). -/
def State.syncAll (s : State) : State :=
  if s.announces then
    ((List.range 36).filter fun p => s.portState p == psUP).foldl (fun s p => s.sendTb p 0x70 (s.now * 65536)) s
  else s

def execTbSyncSend (s : State) : Host.Outcome State Fault Refusal := .next s.syncAll

/-- The port of the upstream (R404): among the peers of the lowest GM_PLACE heard, the lowest DISTANCE below 15, then the
lowest port. -/
def State.bestUpstream (s : State) : Option Nat :=
  let ps := s.tb.peers.filter fun e => s.portState e.1 == psUP
  match ps with
  | [] => none
  | q :: r =>
    let gm := r.foldl (fun m e => min m e.2.2.1) q.2.2.1
    let ok := ps.filter fun e => e.2.2.1 == gm && decide (e.2.1 < 15)
    match ok with
    | [] => none
    | e :: es => some (es.foldl (fun (m : Nat × Nat) e => if e.2.1 < m.2 then (e.1, e.2.1) else m) (e.1, e.2.1)).1

/-- The upstream in force; only a locked, acquiring or holding follower has one. -/
def State.upstream (s : State) : Option Nat :=
  let p := s.fld tbB TB_STATUS.UPSTREAM
  if s.tbGM ∨ s.tbState = tbFREE ∨ (mapGet? s.tb.peers p).isNone then none else some p

/-- Follows the upstream that R404 names. -/
def State.follow (s : State) : State :=
  if s.tbGM then s
  else
    match s.bestUpstream with
    | none => s
    | some p =>
      let e := mapGet (0, 0, false, 0) s.tb.peers p
      let changed := decide (s.upstream ≠ some p)
      let s := (s.setFld tbB TB_STATUS.UPSTREAM p).setFld tbB TB_GM_PLACE.PLACE e.2.1
      let s := s.setFld tbB TB_STATUS.DISTANCE (e.1 + 1)
      let s := s.setFld tbB TB_STATUS.PPS_LOCKED (bit1 e.2.2.1)
      let s := if s.tbState = tbFREE then s.setFld tbB TB_STATUS.STATE tbACQUIRING else s
      if changed then (s.setTb fun x => { x with offsets := [], sync := none }).tbEvent TB_EVENTS.UPSTREAM_CHANGE else s

/-- Logs INTERNAL of the timebase. -/
def State.tbInternal (s : State) : State :=
  s.log { status := stINTERNAL, cls := 6, source := 14, unit := s.pkgUnit, peer := none, job := 0, detail := [] }

/-- A TB_SYNC arrives at time `rx` (R404, R405, R407). -/
def State.syncIn (s : State) (p : Nat) (m : TbMsg) (rx : Nat) : State :=
  if s.portState p ≠ psUP then s
  else
    let s := s.setTb fun x => { x with peers := mapPut x.peers p (m.distance, m.gmPlace, m.ppsLocked, s.now) }
    let differ := s.tb.peers.any fun e => e.2.2.1 != m.gmPlace
    let s := if differ && !s.tb.gmConflict then (s.setTb fun x => { x with gmConflict := true }).tbInternal else s
    let s := s.follow
    if s.upstream = some p then
      let t3 := s.now * 65536
      (s.setTb fun x => { x with sync := some (p, m.stamp, rx, t3) }).sendTb p 0x71 t3
    else s

def execTbSync (p : Fin 36) (m : TbMsg) (rx : Nat) (s : State) : Host.Outcome State Fault Refusal := .next (s.syncIn p m rx)

/-- The answer carries the time at which the request arrived (R405). -/
def execTbDelayReq (p : Fin 36) (m : TbMsg) (rx : Nat) (s : State) : Host.Outcome State Fault Refusal :=
  .next (if s.portState p = psUP ∧ s.announces then
      (s.setTb fun x => { x with peers := match mapGet? x.peers p with
          | some e => mapPut x.peers p (m.distance, e.2.1, e.2.2.1, e.2.2.2)
          | none => x.peers }).sendTb p 0x72 rx
    else s)

/-- Enters LOCKED. -/
def State.tbLock (s : State) : State :=
  ((s.setFld tbB TB_STATUS.STATE tbLOCKED).setTb fun x => { x with locked := true }).tbEvent TB_EVENTS.LOCK

/-- Eight offsets are averaged (R405): the first lock jumps the counter (R402), a later one only slews, with FAULT above 64
grains (R407). -/
def State.averaged (s : State) (avg : Int) : State :=
  let s := s.setFld tbB TB_OFFSET.OFFSET (unsignedOf (max (-2147483648) (min 2147483647 avg)) 32)
  let s := s.setTb fun x => { x with offsets := [] }
  if s.tbState = tbACQUIRING ∧ !s.tb.locked then
    let grains := (-avg + 32768) / 65536
    (s.setTb fun x => { x with now := ((x.now : Int) + grains).toNat, slew := -avg - grains * 65536 }).tbLock
  else
    let s := s.setTb fun x => { x with slew := -avg }
    let s := if avg.natAbs < 65536 then s.setFld tbB TB_STATUS.FAULT 0 else s
    if s.tbState = tbLOCKED then s
    else
      let s := s.tbLock
      if 64 * 65536 < avg.natAbs then ((s.setFld tbB TB_STATUS.FAULT 1).tbInternal).tbEvent TB_EVENTS.FAULT else s

/-- TB_DELAY_RESP: one offset (R405); eight make an average. -/
def State.delayIn (s : State) (p : Nat) (m : TbMsg) : State :=
  match s.tb.sync with
  | none => s
  | some (q, t1, t2, t3) =>
    if q ≠ p ∨ s.upstream ≠ some p then s
    else
      let off := (((t2 : Int) - t1) - ((m.stamp : Int) - t3)) / 2
      let s := s.setTb fun x => { x with sync := none, offsets := x.offsets ++ [off] }
      if s.tb.offsets.length < 8 then s else s.averaged ((s.tb.offsets.foldl (· + ·) 0) / 8)

def execTbDelayResp (p : Fin 36) (m : TbMsg) (s : State) : Host.Outcome State Fault Refusal := .next (s.delayIn p m)

/-- The upstream is lost: another one, or HOLDOVER (R407). -/
def State.loseUpstream (s : State) : State :=
  match s.upstream with
  | none => s
  | some p =>
    let heard := (mapGet (0, 0, false, 0) s.tb.peers p).2.2.2
    if s.portState p = psUP ∧ s.now < heard + 10000 then s
    else
      let s := s.setTb fun x => { x with peers := mapErase x.peers p, offsets := [], sync := none }
      match s.bestUpstream with
      | some _ => s.follow
      | none =>
        if s.tbState = tbLOCKED then (s.setFld tbB TB_STATUS.STATE tbHOLDOVER).tbEvent TB_EVENTS.HOLDOVER else s

def execUpstreamLoss (s : State) : Host.Outcome State Fault Refusal := .next s.loseUpstream

/-- A grandmaster locks with its counter at TB_START (R408). -/
def State.gmLock (s : State) (pps : Bool) : State :=
  let start := s.reg64 (tbB + TB_START_LO.off)
  let s := s.setTb fun x => { x with now := start, ppsCount := 0, ppsMissed := 0 }
  let s := ((s.setFld tbB TB_STATUS.DISTANCE 0).setFld tbB TB_GM_PLACE.PLACE s.place).setFld tbB TB_STATUS.PPS_LOCKED (bit1 pps)
  s.tbLock

/-- A rising edge of the 1 PPS input (R408): the first one locks, a later one steers the counter. -/
def State.ppsIn (s : State) : State :=
  if !s.tbGM || !s.flag tbB TB_CTRL.PPS_EN then s
  else if s.tbState = tbFREE then (if s.tb.locked then s else s.gmLock true)
  else
    let n := s.tb.ppsCount + 1
    let want := s.reg64 (tbB + TB_START_LO.off) + n * 200000000
    (s.setTb fun x => { x with ppsCount := n, ppsMissed := 0, slew := ((want : Int) - s.now) * 65536 }).setFld tbB
      TB_STATUS.PPS_LOCKED 1

def execPpsEdge (s : State) : Host.Outcome State Fault Refusal := .next s.ppsIn

/-- A missed edge; after two PPS_LOCKED clears and the rate stays (R408). -/
def execPpsMiss (s : State) : Host.Outcome State Fault Refusal :=
  .next (if s.tbGM && s.flag tbB TB_CTRL.PPS_EN && s.tbState != tbFREE then
      let s := s.setTb fun x => { x with ppsCount := x.ppsCount + 1, ppsMissed := x.ppsMissed + 1 }
      if 2 ≤ s.tb.ppsMissed then s.setFld tbB TB_STATUS.PPS_LOCKED 0 else s
    else s)

/-- TB_CTRL.RESELECT repeats the choice of R404. -/
def execTbReselect (s : State) : Host.Outcome State Fault Refusal := .next s.follow

/-- TB_NOW_LO latches the high word (R401). -/
def State.readNow (s : State) : State × Word :=
  (s.setTb fun x => { x with hiLatch := BitVec.ofNat 32 (x.now / 2 ^ 32) }, BitVec.ofNat 32 s.now)

def execTbNowRead (s : State) : Host.Outcome State Fault Refusal := .next s.readNow.1

end Sys2Proof.Machine
end

