-- ==== Sys2Proof/Machine/Requests.lean ====
section
/-! DEFINITION. Requests of tiles: the REQ micro-instruction by the OP of its descriptor (R96, R114, R356-R360), and
fences of tiles and copy engines as they complete (R353, R354). -/

namespace Sys2Proof.Machine

/-! ### The REQ micro-instruction (R96, R114) -/

/-- The operands of a REQ at a tile: descriptor with OFFSET added to TARGET, first slot. -/
def State.reqMicro (s : State) (d t : Nat) (w : BitVec 128) : Option (ReqDesc × Nat) :=
  ((s.active d).reqWords t (bitsOf (microA w) 31 24)).map fun ws =>
    let x := reqDesc ws
    ({ x with target := (x.target + microB w) % 2 ^ 64 }, bitsOf (microA w) 23 11)

/-- Bytes of the task's scratch that the request takes data from (R357). -/
def ReqDesc.reqSource (x : ReqDesc) (slot : Nat) : List (Nat × Nat) :=
  if x.op = opWRITE ∨ x.op = opATOMIC then [(256 * slot, x.len)] else []

/-- The record of a request as it is issued. -/
def State.reqRecord (s : State) (d t id : Nat) (x : ReqDesc) (slot : Nat) : TileReq :=
  let fetch := x.op == opREAD || (x.op == opATOMIC && atomicReturns x.aop)
  let n := if x.op = opREAD then x.len else if x.size64 then 8 else 4
  { id := id, op := x.op, first := s.phys d (if x.op = opWRITE then slot + 1 else slot),
    lands := if x.op = opREAD then (x.len + 255) / 256 else 1, limit := (s.die d).base + (s.die d).bound, len := n,
    fetch := fetch, left := 0, got := [], done := [], status := stOK, bytes := 0, epoch := (s.tile d t).epoch,
    job := s.jobOf d, source := none }

/-- A request that the package refuses at issue (R315, R357, R358). -/
def State.reqRefused (s : State) (d t : Nat) (r : TileReq) : State :=
  if r.fetch then (List.range r.lands).foldl (fun s i => s.landPoison d t r i stDENIED) s
  else s.landSlot d t r 0 (completionWord stDENIED 0) false

/-- The first access of a tile's request, with its landing. -/
def State.tileBase (s : State) (d t : Nat) (x : ReqDesc) (r : TileReq) : Req :=
  { s.reqOf (.tile d t) r.job (gaLocal x.target) (.read x.len) with
    dst := gaPlace x.target, flag := x.flag, fill := x.fill, combine := x.combine, land := .tile d t r.id 0 }

/-- The accesses of a tile's READ, WRITE or ATOMIC. -/
def State.reqAccesses (s : State) (d t : Nat) (x : ReqDesc) (slot : Nat) (r : TileReq) : List (Req × Nat) :=
  let base := s.tileBase d t x r
  let own := s.taskBytes d t (slot * 256) x.len
  let data := if x.op = opREAD then
      (if base.dst = s.place then pieces base.addr x.len else [(base.addr, x.len, 0)]).map fun p =>
        ({ base with addr := p.1, op := .read p.2.1, land := .tile d t r.id p.2.2 }, stOK)
    else [({ base with op := if x.op = opWRITE then .write own else .atomic x.aop x.size64 own }, stOK)]
  if x.counter then data ++ [(counterReq base x.aux, stOK)] else data

/-- What a tile's COPY reads at its SOURCE. -/
def State.tileSource (s : State) (d t : Nat) (x : ReqDesc) (r : TileReq) : SourceFetch :=
  { base := { s.tileBase d t x r with op := .copyData [], flag := false }, len := x.len, flag := x.flag,
    counter := if x.counter then some x.aux else none, left := 0, got := [] }

/-- Issues a request of a tile whose 512 are not all outstanding (R96). -/
def State.issueTileReq (s : State) (d t : Nat) (x : ReqDesc) (slot : Nat) : State :=
  let id := s.fabric.nextReq
  let s := { s with fabric := { s.fabric with nextReq := id + 1 } }
  let r := s.reqRecord d t id x slot
  let put := fun (s : State) (r : TileReq) (ws : List (Req × Nat)) =>
    State.pumpTile d t 2 (s.modTile d t fun z => { z with reqs := z.reqs ++ [r], waiting := z.waiting ++ ws })
  if x.op = opFENCE then
    (s.modTile d t fun y => { y with reqs := y.reqs ++ [r], epoch := y.epoch + 1 }).tileFenceDone d t
  else if gaSpace x.target ≠ 0 ∨ !x.accepted true ∨ !s.placeOk (gaPlace x.target) then s.reqRefused d t r
  else if x.op = opCOPY then
    let f := s.tileSource d t x r
    if s.readsNow f x.source then
      let y := s.readSource f x.source
      put y.1 { r with left := y.2.accesses.length } y.2.accesses
    else
      let ws := f.reads x.source (.tileSource d t id)
      put s { r with source := some { f with left := ws.length } } ws
  else
    let ws := s.reqAccesses d t x slot r
    put s { r with left := ws.length } ws

/-- A REQ micro-instruction whose descriptor has OP `op`: it holds the die while 512 requests of the tile are
outstanding (R96); its network interface reads the tile's own slots, where POISON aborts (R159). -/
def State.tileReq (s : State) (d t : Nat) (w : BitVec 128) (op : Nat) : State :=
  match s.reqMicro d t w with
  | none => s
  | some (x, slot) =>
    if !s.atMicro d t w 0x38 || x.op != op then s
    else
      let live := (s.tile d t).reqs.filter (·.outstanding)
      match live[511]?, live with
      | some _, r :: _ => s.holdDie d [⟨t, r.first + r.lands - 1, false⟩]
      | _, _ =>
        if s.dieState d ≠ dsRUNNING then s
        else
          let src := x.reqSource slot
          let s := s.touchRanges d t src
          match s.poisonRead d t src with
          | some p => (s.issued d t w).scrAbort d t p.1 p.2 3
          | none => (s.issued d t w).issueTileReq d t x slot

def execReqRead (d : Fin 12) (t : Fin 768) (w : BitVec 128) (s : State) : Host.Outcome State Fault Refusal :=
  .next (s.tileReq d t w opREAD)

def execReqWrite (d : Fin 12) (t : Fin 768) (w : BitVec 128) (s : State) : Host.Outcome State Fault Refusal :=
  .next (s.tileReq d t w opWRITE)

def execReqAtomic (d : Fin 12) (t : Fin 768) (w : BitVec 128) (s : State) : Host.Outcome State Fault Refusal :=
  .next (s.tileReq d t w opATOMIC)

def execReqCopy (d : Fin 12) (t : Fin 768) (w : BitVec 128) (s : State) : Host.Outcome State Fault Refusal :=
  .next (s.tileReq d t w opCOPY)

def execReqFence (d : Fin 12) (t : Fin 768) (w : BitVec 128) (s : State) : Host.Outcome State Fault Refusal :=
  .next (s.tileReq d t w opFENCE)

end Sys2Proof.Machine
end

