-- ==== Sys2Proof/Machine/Copy.lean ====
section
/-! DEFINITION. Copy engines (R340, R356-R360, R364-R367): submission, the start of a descriptor, fences, and the
completion words in queue order. -/

namespace Sys2Proof.Machine

/-- CPE_SUBMIT_HI (R367, R272): the descriptor address enters the queue. -/
def State.submitCopy (s : State) (e : Nat) (who : Agent) (hi : Word) : State :=
  let die := agentDie (.copy e)
  if !s.domOn (blkDomain .cpe e) then s.logRefused stDENIED 8 (s.dieUnit die) (agentPlace s who) 0 []
  else if !enginesWriter die who then s.writeDenied who 8 (s.dieUnit die) (cpeB e + CPE_SUBMIT_HI.off)
  else if 256 ≤ (s.copy e).queue.length then
    (s.cpeEvent e CPE_EVENTS.DROPPED).log
      { status := stQUEUE_FULL, cls := 2, source := 8, unit := s.dieUnit die, peer := none, job := 0, detail := [BitVec.ofNat 32 e] }
  else
    let q := s.submission who ((s.copy e).subLo.toNat + hi.toNat * 2 ^ 32)
    s.modCopy e fun x => { x with queue := x.queue ++ [q] }

def execCpeSubmit (e : Fin 20) (who : Agent) (hi : Word) (s : State) : Host.Outcome State Fault Refusal :=
  .next (s.submitCopy e who hi)

/-- The words of a submitted descriptor: those of a COPY command, or read at its address. -/
def State.copyWords (s : State) (e : Nat) (q : Submit) : State × Option (List Word) :=
  match q.cmd with
  | some (_, ps) => (s, some (splitWords ps))
  | none =>
    let y := s.engineRead (.copy e) q q.addr 64
    (y.1, if y.2.status = stOK then some ((leWords 4 (fitBytes 64 y.2.data)).map (BitVec.ofNat 32)) else none)

/-- R366, R493: the submitter's rights let an access, and at the own place the partition. -/
def State.submitLets (s : State) (q : Submit) (ga n : Nat) (write : Bool) : Bool :=
  gaSpace ga == 0 && s.placeOk (gaPlace ga) &&
    (if gaPlace ga = s.place then s.lets q.grant q.chan q.secure (gaLocal ga) n write
      else s.rightsIn q.grant q.chan (gaLocal ga) n write)

/-- The descriptor sends nothing: R358 rejects it, or the submitter's rights refuse an access (R366). -/
def State.copyDenied (s : State) (q : Submit) (x : ReqDesc) : Bool :=
  x.op != opFENCE &&
    (!x.accepted false || !s.submitLets q x.target x.len true ||
      (!s.submitLets q x.source x.len false) ||
      (x.counter && !s.submitLets q x.aux 8 true) ||
      (x.op == opATOMIC && atomicReturns x.aop && !s.submitLets q x.aux (if x.size64 then 8 else 4) true))

/-- Drops the front of the queue as it starts: CPE_CUR (R365). -/
def State.copyTake (s : State) (e : Nat) (q : Submit) : State :=
  (s.modCopy e fun x => { x with queue := x.queue.drop 1, nextId := x.nextId + 1 }).setReg64 (cpeB e + CPE_CUR_LO.off) q.addr

/-- A start more than one grain after a nonzero LAUNCH (R365). -/
def State.copyLate (s : State) (e launch : Nat) : State :=
  let die := agentDie (.copy e)
  if launch ≠ 0 ∧ launch + 1 < s.now then
    ((s.logLate 8 (s.dieUnit die) 0 launch 5).drift die 5).cpeEvent e CPE_EVENTS.LATE
  else s

/-- What a descriptor other than a fence reads at its SOURCE, with the first of the accesses that write it. -/
def State.copySource (s : State) (e id : Nat) (q : Submit) (x : ReqDesc) : SourceFetch :=
  let op := if x.op = opCOPY then MemOp.copyData [] else if x.op = opWRITE then .write [] else .atomic x.aop x.size64 []
  { base := { s.submitReq (.copy e) q (gaLocal x.target) op with
                dst := gaPlace x.target, flag := false, fill := x.fill, combine := x.combine, land := .copy e id },
    len := x.len, flag := x.flag, counter := if x.counter then some x.aux else none, left := 0, got := [] }

/-- A fence descriptor completes once no earlier descriptor has an unacknowledged write (R353, R354). -/
def State.copyFenceDone (s : State) (e : Nat) : State :=
  let x := s.copy e
  let before := x.running.takeWhile fun c => !(c.op == opFENCE && decide (0 < c.left))
  match x.running.drop before.length with
  | [] => s
  | f :: _ =>
    if before.any fun c => decide (0 < c.left) then s
    else
      let a := mapGet (stOK, 0) x.acks f.epoch
      (s.setDesc e f.id fun c => { c with left := 0, status := a.1, bytes := a.2 }).modCopy e fun x =>
        { x with acks := x.acks.filter fun k => decide (f.epoch < k.1) }

/-- The record of a descriptor as it starts. -/
def copyRecord (x : ReqDesc) (q : Submit) (id epoch left status : Nat) : CopyDesc :=
  { sub := q, id := id, op := x.op, left := left, status := status, bytes := 0, epoch := epoch,
    old := if x.op = opATOMIC ∧ atomicReturns x.aop then some x.aux else none, source := none }

/-- Starts the accepted descriptor `x`: a fence, or the reads of its SOURCE and then its writes, 512 packets outstanding at most
(R340, R357). -/
def State.copyRun (s : State) (e : Nat) (q : Submit) (x : ReqDesc) : State :=
  let c := s.copy e
  let id := c.nextId
  let put := fun (s : State) (d : CopyDesc) (ws : List (Req × Nat)) =>
    (s.modCopy e fun z => { z with running := z.running ++ [d], waiting := z.waiting ++ ws }).runCopy e
  let s := s.copyTake e q
  if x.op = opFENCE then
    (s.modCopy e fun y =>
      { y with running := y.running ++ [copyRecord x q id c.epoch 1 stOK], epoch := c.epoch + 1 }).copyFenceDone e
  else
    let f := s.copySource e id q x
    if s.readsNow f x.source then
      let y := s.readSource f x.source
      put y.1 (copyRecord x q id c.epoch y.2.accesses.length stOK) y.2.accesses
    else
      let ws := f.reads x.source (.copySource e id)
      put s { copyRecord x q id c.epoch 1 stOK with source := some { f with left := ws.length } } ws

/-- The last packet of the descriptor before is not yet issued (R365). -/
def CopyX.issuing (x : CopyX) : Bool := !x.waiting.isEmpty || x.running.any fun c => c.source.isSome

/-- The engine starts the descriptor in front of its queue at its LAUNCH grain, where its OP is `op`; one of no known OP
is rejected by whichever start meets it. A descriptor that cannot be read is dropped and logged (DESIGN CHOICE, log
entry 18). -/
def State.copyStart (s : State) (e op : Nat) : State :=
  match (s.copy e).queue with
  | [] => s
  | q :: _ =>
    let y := s.copyWords e q
    match y.2 with
    | none =>
      ((y.1.copyTake e q).cpeEvent e CPE_EVENTS.DENIED).log
        { status := stDENIED, cls := 2, source := 8, unit := s.dieUnit (agentDie (.copy e)), peer := none, job := q.job,
          detail := words64 q.addr }
    | some ws =>
      let x := reqDesc (ws.take 8)
      let w := fun i => (nthD (0 : Word) ws i).toNat
      let launch := w 8 + w 9 * 2 ^ 32
      let known := decide (2 ≤ x.op) && decide (x.op ≤ 5)
      if (known && x.op != op) || decide (s.now < launch) || !s.domOn (blkDomain .cpe e) || (s.copy e).issuing then s
      else
        let s := y.1.copyLate e launch
        if !known || w 10 != 0 || w 11 != 0 || (x.op == opFENCE && !x.accepted false) || s.copyDenied q x then
          (s.copyTake e q).modCopy e fun z =>
            { z with running := z.running ++ [copyRecord { x with op := opREAD } q (s.copy e).nextId z.epoch 0 stDENIED] }
        else s.copyRun e q x

def execCpeWrite (e : Fin 20) (s : State) : Host.Outcome State Fault Refusal := .next (s.copyStart e opWRITE)

def execCpeAtomic (e : Fin 20) (s : State) : Host.Outcome State Fault Refusal := .next (s.copyStart e opATOMIC)

def execCpeCopy (e : Fin 20) (s : State) : Host.Outcome State Fault Refusal := .next (s.copyStart e opCOPY)

def execCpeFence (e : Fin 20) (s : State) : Host.Outcome State Fault Refusal := .next (s.copyStart e opFENCE)

/-- The engine writes words 12 to 15 of the oldest descriptor whose writes are all acknowledged (R366), or the reply of a
COPY command. -/
def State.copyDone (s : State) (e : Nat) : State :=
  match (s.copy e).running with
  | [] => s
  | c :: rest =>
    if 0 < c.left then s
    else
      let words := completionWord c.status c.bytes ++ toBytes s.now 8
      let s := s.modCopy e fun x => { x with running := rest }
      let s := s.bump (cpeB e) CPE_DONE.COUNT
      let s := if c.status = stDENIED then s.cpeEvent e CPE_EVENTS.DENIED else s
      match c.sub.cmd with
      | some (h, _) => s.finish h 0x0204 c.status (bytesToWords64 words)
      | none => (s.engineWrite (.copy e) c.sub (c.sub.addr + 48) words).1

def execCpeDescriptorComplete (e : Fin 20) (s : State) : Host.Outcome State Fault Refusal := .next (s.copyDone e)

/-- FENCE_COMPLETE: the oldest fence of a tile or copy engine. -/
def State.fenceDone (s : State) : Agent → State
  | .tile d t => s.tileFenceDone d t
  | .copy e => s.copyFenceDone e
  | _ => s

def execFenceComplete (a : Agent) (s : State) : Host.Outcome State Fault Refusal := .next (s.fenceDone a)

end Sys2Proof.Machine
end

