-- ==== Sys2Proof/Machine/Expand.lean ====
section
/-! DEFINITION. A command from its start to its parts: late starts (R409, R410), expansion to dies (R18, R472) and to
member packages (R19, R20, R467, R469). -/

namespace Sys2Proof.Machine

/-! ### Start (R409, R410) -/

/-- The die that executes a command, 14 (F) at package level and above (R409). -/
def launchDie (target : Nat) : Nat := if unitLevel target < 2 then unitDie target else 14

/-- Lists a command as running; one that begins later than its launch grain and the next is LATE. -/
def State.beginCmd (s : State) (h : CmdHdr) (opcode : Nat) (mute : Bool) : State :=
  let late := decide (h.launch.toNat ≠ 0 ∧ h.launch.toNat + 1 < s.now)
  let s := if late then
      (s.logLate 0 h.target.toNat h.job.toNat h.launch.toNat 5).drift (min 14 (launchDie h.target.toNat)) 5
    else s
  s.openCmd { hdr := h, opcode := opcode, waiting := [], statuses := [], data := [], completion := 0, sentAt := s.now,
              late := late, mute := mute, sel := 0 }

/-! ### Expansion to dies (R18, R472) -/

/-- The compute dies that a command of this package reaches. -/
def targetDies (target : Nat) : List Nat := if unitLevel target < 2 then [unitDie target] else List.range 12

/-- R472: a member command at package level leaves out dies whose task belongs to another job than the session's; R492:
a die that another channel owned at the acknowledgement (R466). -/
def State.excluded (s : State) (h : CmdHdr) (d : Nat) : Bool :=
  (h.member && decide (2 ≤ unitLevel h.target.toNat) && decide (h.job.toNat ≠ 0 ∧ s.jobOf d ≠ 0 ∧ s.jobOf d ≠ h.job.toNat)) ||
    h.barred.contains d

/-- The domain of a compute die, or K00 of a processor die, is ON; the fabric die has no domain of its own. -/
def State.dieOn (s : State) (d : Nat) : Bool :=
  if d < 12 then s.domOn (domC d) else if d < 14 then s.domOn (domK00 d) else true

/-- One die's part: refused, answered now, or still to answer. A die that is not ON refuses it, with a log entry (R497). -/
def State.diePart (h : CmdHdr) (opcode : Nat) (f : State → Nat → State × Option (Nat × List Word64)) (s : State) (d : Nat) :
    State :=
  let u := s.dieUnit d
  if s.excluded h d then s.partDone h opcode u stDENIED []
  else if !s.dieOn d then (s.logRefused stDENIED 0 u h.entry h.job.toNat []).partDone h opcode u stDENIED []
  else
    let r := f s d
    match r.2 with
    | some (st, ps) => r.1.partDone h opcode u st ps
    | none => r.1

/-- Runs a die operation on every compute die of the target. A die without a die sequencer is no target of such an
opcode: BAD_UNIT. -/
def State.onDies (s : State) (h : CmdHdr) (opcode : Nat) (f : State → Nat → State × Option (Nat × List Word64)) : State :=
  let ds := targetDies h.target.toNat
  if ds.any fun d => decide (12 ≤ d) then s.finish h opcode stBAD_UNIT []
  else
    let s := s.setCmd h opcode fun r => { r with waiting := ds.map s.dieUnit }
    ds.foldl (State.diePart h opcode f) s

/-! ### Expansion to packages (R19, R20, R469) -/

/-- The places that a unit above package level contains, within the shape. -/
def State.placesOf (s : State) (unit : Nat) : List Nat :=
  let p := unitPlace unit
  let nodes := s.fld glpB GLP_SHAPE.NODES_M1 + 1
  let groups := s.fld glpB GLP_SHAPE.GROUPS_M1 + 1
  match unitLevel unit with
  | 3 => List.range' p 8
  | 4 => List.range' p (8 * nodes)
  | 5 => (List.range groups).flatMap fun g => List.range' (g * 256) (8 * nodes)
  | _ => [p]

/-- The member units of a command that this package forwards. -/
def State.memberUnits (s : State) (target : Nat) : List Nat :=
  if unitLevel target ≤ 2 then [target] else (s.placesOf target).map fun p => unitAddr p 2 0 0

/-- The command reaches another package, or units above package level (R19, R469). -/
def State.forwards (s : State) (h : CmdHdr) : Bool :=
  !h.member && (decide (2 < unitLevel h.target.toNat) || unitPlace h.target.toNat != s.place)

/-- The frame of a member command (R467): header, origin words, parameters. -/
def memberFrame (h : CmdHdr) (opcode : Nat) (ps : List Word64) : List Byte :=
  wordBytes (cmdHead opcode flagMEMBER h.seq h.target ps.length h.chan h.launch.toNat 0 ++
    [BitVec.ofNat 32 h.entry, BitVec.ofNat 32 h.role, h.job, 0]) ++ word64Bytes ps

/-- Sends a command to its members: each gets its own member command with the launch grain unchanged (R20); what R487, R488
or R332 lets not leave completes for that member. The own package holds its member command until the launch grain. -/
def State.sendMembers (s : State) (h : CmdHdr) (opcode : Nat) (ps : List Word64)
    (run : State → CmdHdr → List Word64 → State) (units : List Nat) : State :=
  units.foldl (fun s u =>
    let m : CmdHdr := { h with target := BitVec.ofNat 32 u, member := true, entry := s.place, indirect := false }
    if unitPlace u = s.place then
      if s.now < h.launch.toNat then
        { s with pkc := { s.pkc with held := s.pkc.held ++ [
          { hdr := m, opcode := opcode, params := ps, plen := ps.length, acked := true, mute := false }] } }
      else run (s.beginCmd m opcode false) m ps
    else if s.mgmtStatus ≠ stOK then s.memberDone h.chan h.seq opcode u s.mgmtStatus [] s.now
    else if s.fabric.unreachable.contains (unitPlace u) then s.memberDone h.chan h.seq opcode u stMEMBER_LOST [] s.now
    else s.sendMgmt 0x78 (unitPlace u) h.job 0 0 0 (memberFrame m opcode ps)) s

/-- Forwards a command to the member packages of its target (R19, R469). -/
def State.forwardCmd (s : State) (h : CmdHdr) (opcode : Nat) (mute : Bool) (ps : List Word64)
    (run : State → CmdHdr → List Word64 → State) : State :=
  let units := s.memberUnits h.target.toNat
  (s.openCmd { hdr := h, opcode := opcode, waiting := units, statuses := [], data := [], completion := 0,
               sentAt := s.now, late := false, mute := mute,
               sel := (nthD (0 : Word64) ps 0).toNat % 16 }).sendMembers h opcode ps run units

/-- A running command goes on as member commands of the packages at `places`, which start at once (R371). -/
def State.spreadCmd (s : State) (h : CmdHdr) (opcode : Nat) (ps : List Word64)
    (run : State → CmdHdr → List Word64 → State) (places : List Nat) : State :=
  let units := places.map fun p => unitAddr p 2 0 0
  (s.setCmd h opcode fun r => { r with waiting := units, sentAt := s.now }).sendMembers { h with launch := 0 } opcode ps run units

/-- A command's start: forwarded, or run here. -/
def State.start (s : State) (h : CmdHdr) (opcode : Nat) (mute : Bool) (ps : List Word64)
    (run : State → CmdHdr → List Word64 → State) : State :=
  if s.forwards h then s.forwardCmd h opcode mute ps run else run (s.beginCmd h opcode mute) h ps

/-- A command packet's effect. -/
def State.command (s : State) (h : CmdHdr) (opcode : Nat) (ps : List Word64)
    (run : State → CmdHdr → List Word64 → State) : State := s.start h opcode false ps run

end Sys2Proof.Machine
end

