-- ==== Sys2Proof/Machine/SolverNum.lean ====
section
/-! DEFINITION. The arithmetic of a batched solver engine (R245-R250): block exponents, Q64 values, reciprocals, the
factorisations and solves of one matrix in Q64, and the redo of a matrix in B64 (R263). -/

namespace Sys2Proof.Machine

/-! ### Rounding -/

/-- A quotient rounded to nearest, ties to even. -/
def rneDiv (z : Int) (d : Nat) : Int :=
  let q := z / (d : Int)
  let r := z % (d : Int)
  if 2 * r < d then q else if (d : Int) < 2 * r then q + 1 else if q % 2 = 0 then q else q + 1

/-- z × 2^k rounded to an integer by RNE. -/
def rneScale (z k : Int) : Int := if 0 ≤ k then z * 2 ^ k.toNat else rneDiv z (2 ^ (-k).toNat)

/-- Saturates to the Q64 limits; the truth value marks it (R246, R247). -/
def satQ (z : Int) : Int × Bool :=
  if (2 : Int) ^ 63 ≤ z then (2 ^ 63 - 1, true) else if z < -(2 : Int) ^ 63 then (-(2 : Int) ^ 63, true) else (z, false)

/-- A term m × 2^e in units of 2^(ed − 110), clipped at ±2^(ed + 11) and truncated toward zero (R247 steps 2, 3). -/
def qTerm (ed : Int) (t : Int × Int) : Int × Bool :=
  let sh := t.2 - (ed - 110)
  let big := if 0 ≤ sh then decide (2 ^ 121 ≤ t.1.natAbs * 2 ^ sh.toNat) else decide (2 ^ (121 + (-sh).toNat) ≤ t.1.natAbs)
  if big then (if t.1 < 0 then -(2 : Int) ^ 121 else 2 ^ 121, true)
  else if 0 ≤ sh then (t.1 * 2 ^ sh.toNat, false)
  else (t.1.tdiv (2 ^ (-sh).toNat), false)

/-- A reciprocal: signed 64-bit significand and exponent (R248). -/
structure Rcp where
  sig : Int
  exp : Int
  deriving DecidableEq, Repr

/-- The reciprocal of the nonzero Q64 value p at exponent e (R248). -/
def rcpOf (p e : Int) : Rcp :=
  let m := p.natAbs
  let l := Nat.log2 m
  let s := rneDiv (2 ^ (64 + l)) m
  ⟨if p < 0 then -s else s, -((64 + l : Nat) : Int) + (62 - e)⟩

/-- A value formed under R247 at exponent ed from terms, with the reciprocal of a pivot where the operation divides. -/
def qForm (ed : Int) (ts : List (Int × Int)) (r : Option Rcp) : Int × Bool :=
  let us := ts.map (qTerm ed)
  let sum := us.foldl (fun a u => a + u.1) 0
  let clip := us.any fun u => u.2
  let z := match r with
    | none => rneScale sum (-48)
    | some r => rneScale (sum * r.sig) (r.exp - 48)
  let y := satQ z
  (y.1, clip || y.2)

/-- √ of a Q64 value at exponent ea, rounded to Q64 at el (R248). -/
def qSqrt (a ea el : Int) : Int :=
  let n := a.natAbs * 2 ^ (ea + 62 - 2 * el).toNat
  let r := isqrt n
  if r < n - r * r then r + 1 else r

/-! ### Inputs and exponents (R245, R246) -/

def clampExp (e : Int) : Int := max (-960) (min 1022 e)

/-- floor(log2) of the largest finite magnitude among inputs; none when every one is zero. -/
def maxExp (xs : List Num) : Option Int :=
  xs.foldl (fun m x =>
    match x with
    | .fin _ (n + 1) e => let k := expOf (n + 1) e
                          match m with
                          | none => some k
                          | some j => some (max j k)
    | _ => m) none

def blockExp (xs : List Num) (head : Nat) : Int :=
  match maxExp xs with
  | none => -960
  | some e => clampExp (e + 1 + head)

/-- An input as Q64 at exponent e; saturated, and not finite (R246). -/
def toQ (e : Int) : Num → Int × Bool × Bool
  | .nan => (0, true, true)
  | .inf neg => (if neg then -(2 : Int) ^ 63 else 2 ^ 63 - 1, true, true)
  | .fin neg m k =>
    let y := satQ (rneScale (if neg then -(m : Int) else m) (k + 62 - e))
    (y.1, y.2, false)

/-- A Q64 output in OUT_FMT; B32 clamps to its largest finite magnitude (R246). -/
def fromQ (f : Fmt) (q e : Int) : Nat × Bool :=
  let y := convert f .rne true 0 (ofInt q (e - 62))
  (y.1, y.2.ovf)

/-! ### One matrix in a context -/

inductive SFam where
  | lu | chol | ldlt | trsl | trsu
  deriving DecidableEq, Repr

/-- A context: the array with the right-hand sides in columns n and on, exponents, pivot rows, reciprocals, and the
faults so far (R257, R261, R262). -/
structure SCtx where
  n : Nat
  ea : Int
  el : Int
  ex : Int
  rows : List (List Int)
  piv : List Nat
  rcps : List Rcp
  step : Nat
  sat : Bool
  nonfin : Bool
  neg : Bool
  zero : Bool
  /-- exponents of nonzero pivots, the least -/
  pivExp : Option Int
  deriving DecidableEq, Repr

namespace SCtx

def get (x : SCtx) (i j : Nat) : Int := nthD 0 (nthD [] x.rows i) j
def set (x : SCtx) (i j : Nat) (v : Int) : SCtx := { x with rows := setNth x.rows i (setNth (nthD [] x.rows i) j v) }

/-- Marks a saturation; the first one sets STEP (R262). -/
def mark (x : SCtx) (step : Nat) (sat : Bool) : SCtx :=
  if sat then { x with sat := true, step := if x.step = 0xFF then step else x.step } else x

/-- Stores a value formed under R247. -/
def store (x : SCtx) (step i j : Nat) (v : Int × Bool) : SCtx := (x.set i j v.1).mark step v.2

/-- Notes a pivot and its reciprocal. -/
def pivot (x : SCtx) (v e : Int) (r : Rcp) : SCtx :=
  let k : Int := Nat.log2 v.natAbs + e - 62
  { x with rcps := x.rcps ++ [r], pivExp := some (match x.pivExp with
                                                  | none => k
                                                  | some j => min j k) }

/-- A zero pivot, or for Cholesky one not above zero (R261). -/
def fail (x : SCtx) (k : Nat) (neg : Bool) : SCtx :=
  { x with zero := true, neg := neg, step := if x.step = 0xFF then k else x.step }

/-- Exponent of a column: the matrix, or the right-hand sides. -/
def colExp (x : SCtx) (j : Nat) : Int := if j < x.n then x.ea else x.ex

/-- Entry (i, j) less l × u at their exponents. -/
def update (x : SCtx) (k i j : Nat) (l u le ue : Int) : SCtx :=
  let e := x.colExp j
  x.store k i j (qForm e [(x.get i j, e - 62), (-(l * u), le + ue - 124)] none)

def width (x : SCtx) : Nat := (nthD [] x.rows 0).length

/-- The pivot row of LU at step k: the largest magnitude, the lowest row on a tie (R250). -/
def luRow (x : SCtx) (k : Nat) : Nat :=
  (List.range' (k + 1) (x.n - 1 - k)).foldl (fun r i => if (x.get r k).natAbs < (x.get i k).natAbs then i else r) k

/-- Step k of LU (R250). -/
def luStep (x : SCtx) (k : Nat) : SCtx :=
  if x.zero then x
  else
    let r := x.luRow k
    let rk := nthD [] x.rows k
    let x := { x with rows := setNth (setNth x.rows k (nthD [] x.rows r)) r rk, piv := x.piv ++ [r] }
    let p := x.get k k
    if p = 0 then x.fail k false
    else
      let rcp := rcpOf p x.ea
      let x := x.pivot p x.ea rcp
      (List.range' (k + 1) (x.n - 1 - k)).foldl (fun x i =>
        let l := qForm x.el [(x.get i k, x.ea - 62)] (some rcp)
        let x := x.store k i k l
        (List.range' (k + 1) (x.width - 1 - k)).foldl (fun x j =>
          x.update k i j l.1 (x.get k j) x.el (x.colExp j)) x) x

/-- Step k of Cholesky (R248, R250); the forward substitution scales y_k. -/
def cholStep (x : SCtx) (k : Nat) : SCtx :=
  if x.zero then x
  else
    let a := x.get k k
    if a ≤ 0 then x.fail k (decide (a < 0))
    else
      let d := qSqrt a x.ea x.el
      let rcp := rcpOf d x.el
      let x := ((x.pivot a x.ea rcp).set k k d)
      let x := { x with piv := x.piv ++ [k] }
      let x := (List.range' x.n (x.width - x.n)).foldl (fun x j =>
        x.store k k j (qForm x.ex [(x.get k j, x.ex - 62)] (some rcp))) x
      let x := (List.range' (k + 1) (x.n - 1 - k)).foldl (fun x i =>
        x.store k i k (qForm x.el [(x.get i k, x.ea - 62)] (some rcp))) x
      (List.range' (k + 1) (x.n - 1 - k)).foldl (fun x i =>
        let x := (List.range' (k + 1) (i - k)).foldl (fun x j =>
          x.update k i j (x.get i k) (x.get j k) x.el x.el) x
        (List.range' x.n (x.width - x.n)).foldl (fun x j =>
          x.update k i j (x.get i k) (x.get k j) x.el x.ex) x) x

/-- Step k of LDLᵀ (R250): row k keeps the unscaled column as u above the diagonal (log entry 21). -/
def ldltStep (x : SCtx) (k : Nat) : SCtx :=
  if x.zero then x
  else
    let d := x.get k k
    if d = 0 then x.fail k false
    else
      let rcp := rcpOf d x.ea
      let x := x.pivot d x.ea rcp
      let x := { x with piv := x.piv ++ [k] }
      let x := (List.range' (k + 1) (x.n - 1 - k)).foldl (fun x j => x.set k j (x.get j k)) x
      let x := (List.range' (k + 1) (x.n - 1 - k)).foldl (fun x i =>
        x.store k i k (qForm x.el [(x.get i k, x.ea - 62)] (some rcp))) x
      (List.range' (k + 1) (x.n - 1 - k)).foldl (fun x i =>
        let x := (List.range' (k + 1) (i - k)).foldl (fun x j =>
          x.update k i j (x.get i k) (x.get k j) x.el x.ea) x
        (List.range' x.n (x.width - x.n)).foldl (fun x j =>
          x.update k i j (x.get i k) (x.get k j) x.el x.ex) x) x

/-- x_i of one column as one dot product with the entries of row i that `js` names (R250). -/
def dotRow (x : SCtx) (u : Nat → Nat → Int) (ue : Int) (i col : Nat) (js : List Nat) : SCtx :=
  let ts := (x.get i col, x.ex - 62) :: js.map fun j => (-(u i j * x.get j col), ue + x.ex - 124)
  x.store (0x40 + i) i col (qForm x.ex ts (x.rcps[i]?))

/-- Back substitution for i = n − 1 down to 0 (R250). -/
def back (x : SCtx) (fam : SFam) : SCtx :=
  let u := fun (x : SCtx) (i j : Nat) => if fam = .chol then x.get j i else x.get i j
  let ue := if fam = .chol then x.el else x.ea
  (List.range x.n).foldl (fun x b =>
    let i := x.n - 1 - b
    (List.range' x.n (x.width - x.n)).foldl (fun x col =>
      x.dotRow (u x) ue i col (List.range' (i + 1) (x.n - 1 - i))) x) x

/-- A triangular solve: reciprocals of the diagonal, then each row as one dot product (log entry 21). -/
def tri (x : SCtx) (lower : Bool) : SCtx :=
  let order := if lower then List.range x.n else (List.range x.n).reverse
  match order.find? fun i => x.get i i == 0 with
  | some i => x.fail i false
  | none =>
    let x := (List.range x.n).foldl (fun x i => x.pivot (x.get i i) x.ea (rcpOf (x.get i i) x.ea)) x
    order.foldl (fun x i =>
      (List.range' x.n (x.width - x.n)).foldl (fun x col =>
        x.dotRow x.get x.ea i col (if lower then List.range i else List.range' (i + 1) (x.n - 1 - i))) x) x

/-- Factorises, and solves where the matrix has right-hand sides. -/
def run (x : SCtx) (fam : SFam) : SCtx :=
  match fam with
  | .trsl => x.tri true
  | .trsu => x.tri false
  | fam =>
    let step := match fam with
      | .lu => luStep
      | .chol => cholStep
      | _ => ldltStep
    let x := (List.range x.n).foldl step x
    if x.zero then x else x.back fam

/-- y_i of one column as one dot product with the rows of L above it, divided by the diagonal for Cholesky (R249, R250). -/
def forwardRow (x : SCtx) (fam : SFam) (i col : Nat) : SCtx :=
  let ts := (x.get i col, x.ex - 62) :: (List.range i).map fun j => (-(x.get i j * x.get j col), x.el + x.ex - 124)
  x.store (0x40 + i) i col (qForm x.ex ts (if fam = .chol then x.rcps[i]? else none))

/-- x_i of one column from a stored LDLᵀ factor as one dot product, the term y_i × rcp_i among its terms: the record holds no
u_ij (DESIGN CHOICE, log entry 21). -/
def ldltRow (x : SCtx) (i col : Nat) : SCtx :=
  let y := match x.rcps[i]? with
    | some r => (x.get i col * r.sig, x.ex - 62 + r.exp)
    | none => (x.get i col, x.ex - 62)
  let ts := y :: (List.range' (i + 1) (x.n - 1 - i)).map fun j => (-(x.get j i * x.get j col), x.el + x.ex - 124)
  x.store (0x40 + i) i col (qForm x.ex ts none)

/-- Every right-hand side column. -/
def cols (x : SCtx) : List Nat := List.range' x.n (x.width - x.n)

/-- Solves from a stored factor (R249, R267): row exchanges, then forward and back substitution by dot products, 2n a column. -/
def reuse (x : SCtx) (fam : SFam) : SCtx :=
  let x := if fam = .lu then
      (List.range x.n).foldl (fun x k =>
        let r := nthD 0 x.piv k
        x.cols.foldl (fun x j =>
          let a := x.get k j
          let b := x.get r j
          (x.set k j b).set r j a) x) x
    else x
  let de := if fam = .chol then x.el else x.ea
  let x := (List.range x.n).foldl (fun x i => x.pivot (x.get i i) de (rcpOf (x.get i i) de)) x
  let x := (List.range x.n).foldl (fun x i => x.cols.foldl (fun x col => x.forwardRow fam i col) x) x
  if fam = .ldlt then (List.range x.n).reverse.foldl (fun x i => x.cols.foldl (fun x col => x.ldltRow i col) x) x
  else x.back fam

end SCtx

/-- The exponents of R245 for a family; TRSL and TRSU take the EA and EX of the others (log entry 21). -/
def famEl (fam : SFam) (ea : Int) (grow : Nat) : Int :=
  match fam with
  | .lu => 0
  | .chol => clampExp ((ea + 1) / 2 + 1)
  | .ldlt => clampExp grow
  | _ => 0

/-- A context loaded with inputs: `as` n rows of the matrix, `bs` n rows of right-hand sides (R245, R246). A value that
saturates as it is loaded marks STEP 0. -/
def loadCtx (fam : SFam) (grow xhead : Nat) (as bs : List (List Num)) : SCtx :=
  let ea := blockExp (as.flatMap id) grow
  let ex := blockExp (bs.flatMap id) xhead
  let qs := (List.zip as bs).map fun r => r.1.map (toQ ea) ++ r.2.map (toQ ex)
  let sat := qs.any fun r => r.any fun q => q.2.1
  { n := as.length, ea := ea, el := famEl fam ea grow, ex := ex, rows := qs.map fun r => r.map fun q => q.1, piv := [],
    rcps := [], step := if sat then 0 else 0xFF, sat := sat, nonfin := qs.any fun r => r.any fun q => q.2.2, neg := false,
    zero := false, pivExp := none }

/-! ### The redo in B64 (R263) -/

/-- A matrix in B64 codes with right-hand sides; `ok` while no pivot is zero and every value is finite. -/
structure BCtx where
  n : Nat
  rows : List (List Nat)
  rcps : List Nat
  ok : Bool
  deriving DecidableEq, Repr

namespace BCtx

def get (x : BCtx) (i j : Nat) : Nat := nthD 0 (nthD [] x.rows i) j

def finite (c : Nat) : Bool :=
  match decode .b64 c with
  | .fin _ _ _ => true
  | _ => false

/-- Stores a value. -/
def put (x : BCtx) (i j v : Nat) : BCtx :=
  { x with rows := setNth x.rows i (setNth (nthD [] x.rows i) j v), ok := x.ok && finite v }

def mul (a b : Nat) : Nat := (fMul .b64 .rne a b).1
def sub (a b : Nat) : Nat := (fSub .b64 .rne a b).1
def inv (a : Nat) : Nat := (finish .b64 .rne ((divNum (.fin false 1 0) (decode .b64 a)).1, false)).1
def root (a : Nat) : Nat := (finish .b64 .rne (sqrtNum (decode .b64 a))).1
def isZero (a : Nat) : Bool := isZeroNum (decode .b64 a)
def width (x : BCtx) : Nat := (nthD [] x.rows 0).length

def luRow (x : BCtx) (k : Nat) : Nat :=
  (List.range' (k + 1) (x.n - 1 - k)).foldl (fun r i =>
    if ltNum (absNum (decode .b64 (x.get r k))) (absNum (decode .b64 (x.get i k))) then i else r) k

/-- One step of a factorisation, in the order of R250. -/
def step (fam : SFam) (x : BCtx) (k : Nat) : BCtx :=
  if !x.ok then x
  else
    let x := if fam = .lu then
        let r := x.luRow k
        { x with rows := setNth (setNth x.rows k (nthD [] x.rows r)) r (nthD [] x.rows k) }
      else x
    let p := x.get k k
    if isZero p then { x with ok := false }
    else
      let d := if fam = .chol then root p else p
      let rcp := inv d
      let x := { x with rcps := x.rcps ++ [rcp], ok := x.ok && finite d && finite rcp }
      let below := List.range' (k + 1) (x.n - 1 - k)
      let rhs := List.range' x.n (x.width - x.n)
      let x := if fam = .chol then rhs.foldl (fun x j => x.put k j (mul (x.get k j) rcp)) (x.put k k d) else x
      let x := if fam = .ldlt then below.foldl (fun x j => x.put k j (x.get j k)) x else x
      let x := below.foldl (fun x i => x.put i k (mul (x.get i k) rcp)) x
      below.foldl (fun x i =>
        let cols := if fam = .lu then below else List.range' (k + 1) (i - k)
        let x := cols.foldl (fun x j =>
          x.put i j (sub (x.get i j) (mul (x.get i k) (if fam = .chol then x.get j k else x.get k j)))) x
        rhs.foldl (fun x j => x.put i j (sub (x.get i j) (mul (x.get i k) (x.get k j)))) x) x

/-- x_i of a column, the terms subtracted in ascending order. -/
def dotRow (x : BCtx) (chol : Bool) (i col : Nat) (js : List Nat) : BCtx :=
  let v := js.foldl (fun v j => sub v (mul (if chol then x.get j i else x.get i j) (x.get j col))) (x.get i col)
  x.put i col (mul v (nthD 0 x.rcps i))

def run (x : BCtx) (fam : SFam) : BCtx :=
  let rhs := fun (x : BCtx) => List.range' x.n (x.width - x.n)
  match fam with
  | .trsl | .trsu =>
    if (List.range x.n).any fun i => isZero (x.get i i) then { x with ok := false }
    else
      let x := { x with rcps := (List.range x.n).map fun i => inv (x.get i i) }
      let order := if fam = .trsl then List.range x.n else (List.range x.n).reverse
      order.foldl (fun x i => (rhs x).foldl (fun x col =>
        x.dotRow false i col (if fam = .trsl then List.range i else List.range' (i + 1) (x.n - 1 - i))) x) x
  | fam =>
    let x := (List.range x.n).foldl (step fam) x
    if !x.ok then x
    else
      (List.range x.n).reverse.foldl (fun x i => (rhs x).foldl (fun x col =>
        x.dotRow (fam == .chol) i col (List.range' (i + 1) (x.n - 1 - i))) x) x

end BCtx

end Sys2Proof.Machine
end

