-- ==== Sys2Proof/Machine/Solver.lean ====
section
/-! DEFINITION. Batched solver engines (chapter 11): submission (R272, R273), the batch descriptor and its checks
(R253-R255), the matrices of a batch (R254, R257, R261-R267), redo (R263), deadlines (R268-R270) and the completion
record (R258, R259). -/

namespace Sys2Proof.Machine

/-! ### Submission -/

def engineDie (e : Nat) : Nat := 12 + e / 4

/-- SLV_SUBMIT_HI (R272, R273). -/
def State.submitSolver (s : State) (e : Nat) (who : Agent) (hi : Word) : State :=
  if !s.domOn (blkDomain .slv e) then s.logRefused stDENIED 7 (s.dieUnit (engineDie e)) (agentPlace s who) 0 []
  else if !enginesWriter (engineDie e) who then s.writeDenied who 7 (s.dieUnit (engineDie e)) (slvB e + SLV_SUBMIT_HI.off)
  else if 16 ≤ (s.solver e).queue.length then
    (s.slvEvent e SLV_EVENTS.DROPPED).log
      { status := stQUEUE_FULL, cls := 2, source := 7, unit := s.dieUnit (engineDie e), peer := none, job := 0,
        detail := [BitVec.ofNat 32 e] }
  else
    let q := s.submission who ((s.solver e).subLo.toNat + hi.toNat * 2 ^ 32)
    s.modSolver e fun x => { x with queue := x.queue ++ [q] }

def execSlvSubmit (e : Fin 8) (who : Agent) (hi : Word) (s : State) : Host.Outcome State Fault Refusal :=
  .next (s.submitSolver e who hi)

/-! ### The descriptor (R253-R255) -/

/-- A batch descriptor. -/
structure Batch where
  op : Nat
  n : Nat
  c : Nat
  inFmt : Nat
  outFmt : Nat
  count : Nat
  reuse : Bool
  factorOut : Bool
  redo : Bool
  stopAt : Bool
  notify : Bool
  core : Nat
  xhead : Nat
  grow : Nat
  launch : Nat
  deadline : Nat
  matAddr : Nat
  matStride : Nat
  rhsAddr : Nat
  rhsStride : Nat
  xAddr : Nat
  xStride : Nat
  structAddr : Nat
  factorAddr : Nat
  statusAddr : Nat
  complAddr : Nat
  reserved : Bool
  deriving DecidableEq, Repr

def batchOf (ws : List Word) : Batch :=
  let w := fun i => (nthD (0 : Word) ws i).toNat
  let a := fun i => w i + w (i + 1) * 2 ^ 32
  { op := bitsOf (w 0) 31 24, n := bitsOf (w 0) 23 16, c := bitsOf (w 0) 15 8, inFmt := bitsOf (w 0) 7 4,
    outFmt := bitsOf (w 0) 3 0, count := w 1, reuse := bitOf (w 2) 31, factorOut := bitOf (w 2) 30, redo := bitOf (w 2) 29,
    stopAt := bitOf (w 2) 28, notify := bitOf (w 2) 27, core := bitsOf (w 2) 26 20, xhead := bitsOf (w 2) 13 8,
    grow := bitsOf (w 2) 5 0, launch := a 4, deadline := a 6, matAddr := a 8, matStride := w 10, rhsStride := w 11,
    rhsAddr := a 12, xAddr := a 14, xStride := w 16, structAddr := a 18, factorAddr := a 20, statusAddr := a 22,
    complAddr := a 24,
    reserved := bitsOf (w 2) 19 14 != 0 || bitsOf (w 2) 7 6 != 0 || w 3 != 0 || w 17 != 0 ||
      (List.range' 26 6).any fun i => w i != 0 }

/-- Family of an OP, and whether it solves. -/
def Batch.fam (b : Batch) : SFam :=
  match b.op with
  | 1 | 2 => .lu
  | 3 | 4 => .chol
  | 5 | 6 => .ldlt
  | 7 => .trsl
  | _ => .trsu
def Batch.tri (b : Batch) : Bool := b.op == 7 || b.op == 8
def Batch.solves (b : Batch) : Bool := b.op % 2 == 0 || b.op == 7
/-- The operation writes factor records (R266). -/
def Batch.factors (b : Batch) : Bool := !b.tri && (!b.solves || b.factorOut)

def fmtBytes (code : Nat) : Nat := if code = 0 then 8 else 4
def fmtOf01 (code : Nat) : Fmt := if code = 0 then .b64 else .b32

/-- The operation reads entry (i, j) of a dense matrix (R254). -/
def Batch.reads (b : Batch) (i j : Nat) : Bool :=
  decide (i < b.n) && decide (j < b.n) &&
  (match b.fam with
   | .lu => true
   | .trsu => decide (i ≤ j)
   | _ => decide (j ≤ i))

/-- The structure map: bit j of word i. -/
def mapBit (m : List Byte) (i j : Nat) : Bool := bitOf (leNat ((m.drop (4 * i)).take 4)) j

/-- The map of the dense layout (R265). -/
def Batch.denseMap (b : Batch) : List Byte :=
  (List.range 32).flatMap fun i =>
    toBytes ((List.range 32).foldl (fun x j => if b.reads i j then x + 2 ^ j else x) 0) 4

/-- Bytes of one matrix as stored. -/
def Batch.matBytes (b : Batch) (m : Option (List Byte)) : Nat :=
  fmtBytes b.inFmt *
  (match m with
   | none => b.n * b.n
   | some m => (List.range 32).foldl (fun k i => k + ((List.range 32).filter (mapBit m i)).length) 0)

/-- Bytes of a factor record (R264). -/
def Batch.recBytes (b : Batch) : Nat := (48 + 8 * b.n * b.n + 63) / 64 * 64

/-- A range of `count` pieces of `size` bytes at a stride, as address and length. -/
def hull (a stride count size : Nat) : Nat × Nat := (a, if size = 0 then 0 else (count - 1) * stride + size)

def Batch.matRange (b : Batch) (m : Option (List Byte)) : Nat × Nat := hull b.matAddr b.matStride b.count (b.matBytes m)
def Batch.rhsRange (b : Batch) : Nat × Nat := hull b.rhsAddr b.rhsStride b.count (b.n * b.c * fmtBytes b.inFmt)
def Batch.xRange (b : Batch) : Nat × Nat := hull b.xAddr b.xStride b.count (b.n * b.c * fmtBytes b.outFmt)
def Batch.facRange (b : Batch) : Nat × Nat := (b.factorAddr, 64 + b.count * b.recBytes)

def meets (r q : Nat × Nat) : Bool := decide (0 < r.2) && decide (0 < q.2) && overlaps r.1 r.2 q.1 q.2

/-- Inputs of a batch other than right-hand sides and factors. -/
def Batch.inputs (b : Batch) (desc : Nat) (m : Option (List Byte)) : List (Nat × Nat) :=
  [(desc, 128), b.matRange m] ++ (if b.structAddr = 0 then [] else [(b.structAddr, 128)])

def Batch.outputs (b : Batch) : List (Nat × Nat) :=
  (if b.solves then [b.xRange] else []) ++ [(b.statusAddr, 8 * b.count), (b.complAddr, 64)] ++
    (if b.factors then [b.facRange] else [])

/-- X stands in the place of RHS with its stride and format (R255). -/
def Batch.inPlace (b : Batch) : Bool := b.xAddr == b.rhsAddr && b.xStride == b.rhsStride && b.inFmt == b.outFmt

/-- Some pair of a list of ranges meets. -/
def pairMeets : List (Nat × Nat) → Bool
  | [] => false
  | r :: rs => rs.any (meets r) || pairMeets rs

/-- An output range overlaps an input range or another output range (R255). -/
def Batch.overlap (b : Batch) (desc : Nat) (m : Option (List Byte)) : Bool :=
  pairMeets b.outputs ||
    b.outputs.any (fun o => (b.inputs desc m).any (meets o)) ||
    (decide (0 < b.c) && b.outputs.any fun o => meets o b.rhsRange && !(o == b.xRange && b.inPlace)) ||
    (b.reuse && !b.factors && b.outputs.any (meets b.facRange))

/-- The structure map marks an entry outside what the operation reads. -/
def Batch.badMap (b : Batch) : Option (List Byte) → Bool
  | none => false
  | some m => (List.range 32).any fun i => (List.range 32).any fun j => mapBit m i j && !b.reads i j

/-- R255, but for the rights. -/
def Batch.rejected (b : Batch) (e desc : Nat) (m : Option (List Byte)) : Bool :=
  b.op == 0 || decide (8 < b.op) || b.n == 0 || decide (32 < b.n) || (if b.solves then b.c == 0 else b.c != 0) ||
    decide (32 < b.n + b.c) || b.count == 0 || decide (65536 < b.count) || decide (1 < b.inFmt) || decide (1 < b.outFmt) ||
    b.deadline == 0 || decide (32 < b.grow) || b.reserved || (b.tri && (b.reuse || b.factorOut)) ||
    (b.redo && 12 + b.core / 64 != engineDie e) || b.badMap m || b.overlap desc m

/-! ### Accesses of an engine (R243, R256) -/

/-- Pieces of a range within the die's 128-byte lines. -/
def linePieces (a n : Nat) : List (Nat × Nat) :=
  if n = 0 then []
  else (List.range' (a / 128) ((a + n - 1) / 128 + 1 - a / 128)).map fun b =>
    let lo := max a (b * 128)
    (lo, min (a + n) (b * 128 + 128) - lo)

/-- Accesses to other places wait for the engine's turn (R340), and their answers for R259. -/
def State.slvAsk (s : State) (e : Nat) (r : Req) (ps : List (Nat × Nat × Nat)) : State :=
  (s.modSolver e fun x => { x with waiting := x.waiting ++ ps.map fun p =>
    ({ r with addr := p.1, op := r.op.piece p.2.2 p.2.1, land := .solver e }, stOK) }).runSolver e

/-- The bytes of a global address at their home: of another place a free reply, for which the engine sends READ_REQs (log entry
41). -/
def State.slvHome (s : State) (e : Nat) (q : Submit) (a n : Nat) : State × Reply :=
  let r := { s.submitReq (.solver e) q (gaLocal a) (.read n) with dst := gaPlace a }
  if gaSpace a = 0 ∧ s.placeOk (gaPlace a) ∧ gaPlace a ≠ s.place ∧ s.leaves r ∧ !s.fabric.unreachable.contains (gaPlace a) then
    let d := s.draw
    let k := d.2.draw
    (k.2.slvAsk e r (splitAt 4096 (gaLocal a) n), freeReply d.1 n)
  else s.engineRead (.solver e) q a n

/-- One piece of a line: a cached copy, or the line from its home, which the die then holds (R206, R243). -/
def State.slvPiece (s : State) (e : Nat) (q : Submit) (p : Nat × Nat) : State × Reply :=
  let die := engineDie e
  match mapGet? (s.proc die).lines (p.1 / 128) with
  | some bs => (s, Reply.ok ((bs.drop (p.1 % 128)).take p.2))
  | none =>
    if !cacheable p.1 then s.slvHome e q p.1 p.2
    else
      let y := s.slvHome e q (p.1 / 128 * 128) 128
      if y.2.status ≠ stOK then y
      else
        let line := fitBytes 128 y.2.data
        let x := y.1.proc die
        (if y.2.poison then y.1 else y.1.setProc die { x with lines := mapPut x.lines (p.1 / 128) line },
          { y.2 with data := (line.drop (p.1 % 128)).take p.2 })

/-- Another agent has written the bytes since the batch started (R260). -/
def State.slvStirred (s : State) (e a n : Nat) : Bool :=
  gaPlace a == s.place && (s.solver e).stirred.any fun r => overlaps r.1 r.2 (gaLocal a) n

/-- Bytes as an engine reads them, line by line (R243); a value that another agent wrote meanwhile is not defined (R260). -/
def State.slvRead (s : State) (e : Nat) (q : Submit) (a n : Nat) : State × Reply :=
  let y := (linePieces a n).foldl (fun (x : State × Reply) p =>
    let y := x.1.slvPiece e q p
    (y.1, x.2.join { y.2 with data := fitBytes p.2 y.2.data })) (s, Reply.ok [])
  if s.slvStirred e a n then
    let d := y.1.draw
    (d.2, { y.2 with data := Config.freeBytes d.1 n })
  else y

/-- A write through the die's caches to its home (R206, R243); to another place it is answered later (R256). -/
def State.slvWrite (s : State) (e : Nat) (q : Submit) (a : Nat) (bs : List Byte) : State × Reply :=
  let r := { s.submitReq (.solver e) q (gaLocal a) (.write bs) with dst := gaPlace a }
  let y := if gaSpace a = 0 ∧ s.placeOk (gaPlace a) ∧ gaPlace a ≠ s.place ∧ s.leaves r ∧
      !s.fabric.unreachable.contains (gaPlace a) then (s.slvAsk e r (pieces (gaLocal a) bs.length), Reply.ok [])
    else s.engineWrite (.solver e) q a bs
  ((linePieces a bs.length).foldl (fun s p => s.updateLine (engineDie e) p.1 ((bs.drop (p.1 - a)).take p.2)) y.1, y.2)

/-- The submitter's rights let a range. -/
def State.slvLets (s : State) (q : Submit) (r : Nat × Nat) (write : Bool) : Bool :=
  r.2 == 0 || (gaSpace r.1 == 0 && s.placeOk (gaPlace r.1) && s.rightsLet q.chan (gaLocal r.1) r.2 write &&
    (gaPlace r.1 != s.place || s.partLets q.secure (gaLocal r.1) r.2))

/-- The rights let each of `count` pieces at a stride, whatever lies between them. -/
def State.slvLetsAll (s : State) (q : Submit) (a stride count size : Nat) (write : Bool) : Bool :=
  (List.range count).all fun i => s.slvLets q (a + i * stride, size) write

/-- The rights refuse an address of the batch (R255). -/
def State.batchDenied (s : State) (b : Batch) (q : Submit) (m : Option (List Byte)) : Bool :=
  let rhs := b.n * b.c * fmtBytes b.inFmt
  !(s.slvLets q (q.addr, 128) false && (b.structAddr == 0 || s.slvLets q (b.structAddr, 128) false) &&
    s.slvLetsAll q b.matAddr b.matStride b.count (b.matBytes m) false &&
    s.slvLetsAll q b.rhsAddr b.rhsStride b.count rhs false &&
    (!b.solves || s.slvLetsAll q b.xAddr b.xStride b.count (b.n * b.c * fmtBytes b.outFmt) true) &&
    s.slvLets q (b.statusAddr, 8 * b.count) true && s.slvLets q (b.complAddr, 64) true &&
    (!b.factors || s.slvLets q b.facRange true) && (!b.reuse || s.slvLets q b.facRange false))

/-! ### Start (R255, R268) -/

/-- The structure map of a batch, none for a dense one, and whether it could be read. -/
def State.batchMap (s : State) (e : Nat) (q : Submit) (b : Batch) : State × Option (List Byte) × Bool :=
  if b.structAddr = 0 then (s, none, true)
  else
    let y := s.slvRead e q b.structAddr 128
    (y.1, some (fitBytes 128 y.2.data), y.2.status == stOK)

/-- The completion record (R258). -/
def complRecord (status : Nat) (counts : List Nat) (start now : Nat) : List Byte :=
  toBytes (status * 65536) 4 ++ counts.flatMap (fun c => toBytes c 4) ++ toBytes start 8 ++ toBytes now 8 ++ List.replicate 16 0

/-- Writes the completion record, counts it and notifies (R259). -/
def State.slvRecord (s : State) (e : Nat) (q : Submit) (b : Batch) (bytes : List Byte) : State :=
  let s := (s.slvWrite e q b.complAddr bytes).1
  let s := (s.bump (slvB e) SLV_BATCHES.COUNT).slvEvent e SLV_EVENTS.DONE
  if b.notify then s.modCore b.core fun x => { x with pendBatch := true } else s

/-- The completion grain lies after a DEADLINE that the descriptor gives (R269; a DEADLINE of 0 is none, R255). -/
def Batch.missed (b : Batch) (now : Nat) : Bool := b.deadline != 0 && decide (b.deadline < now)

/-- The end of a batch with `status` but for the deadline: its record, and what a miss logs and counts (R258, R259, R269). -/
def State.endBatch (s : State) (e : Nat) (q : Submit) (b : Batch) (status : Nat) (counts : List Nat) (start : Nat) : State :=
  let missed := b.missed s.now
  let s := s.slvRecord e q b (complRecord (if missed then stDEADLINE_MISS else status) counts start s.now)
  let s := s.modSolver e fun y => { y with batch := none, stats := [], done := false, rhs := [], limit := none, stirred := [] }
  if missed then
    ((s.bump (slvB e) SLV_MISS_COUNT.COUNT).slvEvent e SLV_EVENTS.MISS).log
      { status := stDEADLINE_MISS, cls := 3, source := 7, unit := s.dieUnit (engineDie e), peer := none, job := q.job,
        detail := BitVec.ofNat 32 e :: words64 q.addr }
  else s

/-- BATCH_START: the descriptor in front of the queue, at its LAUNCH grain. -/
def State.startBatch (s : State) (e : Nat) : State :=
  match (s.solver e).batch, (s.solver e).queue with
  | none, q :: rest =>
    let die := engineDie e
    let y := s.slvRead e q q.addr 128
    let took := fun (s : State) =>
      (s.modSolver e fun x => { x with queue := rest }).setReg64 (slvB e + SLV_CUR_LO.off) q.addr
    if !s.domOn (domK00 die) then s
    else if y.2.status ≠ stOK then
      ((took y.1).slvEvent e SLV_EVENTS.REJECTED).log
        { status := stDENIED, cls := 2, source := 7, unit := s.dieUnit die, peer := none, job := q.job, detail := words64 q.addr }
    else
      let ws := (leWords 4 (fitBytes 128 y.2.data)).map (BitVec.ofNat 32)
      let b := batchOf ws
      if s.now < b.launch then s
      else
        let s := took y.1
        let s := if b.launch ≠ 0 ∧ b.launch + 1 < s.now then
            (s.logLate 7 (s.dieUnit die) q.job b.launch 5).drift die 5
          else s
        let m := s.batchMap e q b
        if !m.2.2 || b.rejected e q.addr m.2.1 || m.1.batchDenied b q m.2.1 then
          (m.1.slvEvent e SLV_EVENTS.REJECTED).endBatch e q b stDENIED [0, 0, 0, 0, 0, 0, 0] s.now
        else
          m.1.modSolver e fun x =>
            { x with batch := some (ws, q, s.now), stats := [], done := false, redo := false, denied := false, rhs := [],
                     limit := if b.stopAt ∧ b.deadline ≤ s.now then some 0 else none, stirred := [] }
  | _, _ => s

def execBatchStart (e : Fin 8) (s : State) : Host.Outcome State Fault Refusal := .next (s.startBatch e)

/-! ### One matrix -/

/-- Status word 1 from its parts (R257). -/
structure SStat where
  w0 : Nat
  code : Nat
  redone : Bool
  redoFailed : Bool
  reused : Bool
  refused : Bool
  nonfin : Bool
  sat : Bool
  neg : Bool
  unproc : Bool
  deriving DecidableEq, Repr

def SStat.word1 (x : SStat) : Nat :=
  x.code * 65536 + bit1 x.redone * 2 ^ 15 + bit1 x.redoFailed * 2 ^ 14 + bit1 x.reused * 2 ^ 13 + bit1 x.refused * 2 ^ 12 +
    bit1 x.nonfin * 2 ^ 11 + bit1 x.sat * 2 ^ 10 + bit1 x.neg * 2 ^ 9 + bit1 x.unproc * 2 ^ 8

/-- The status of a matrix that is not processed. -/
def unprocessed (code : Nat) : Nat × Nat := (0xFF00, code * 65536 + 2 ^ 8)

/-- Elements of a byte string. -/
def elemsOf (f : Fmt) (bs : List Byte) : List Num := (leWords (f.width / 8) bs).map (decode f)

/-- The rows of a matrix from its stored bytes. -/
def Batch.matRows (b : Batch) (m : Option (List Byte)) (bs : List Byte) : List (List Num) :=
  let es := elemsOf (fmtOf01 b.inFmt) bs
  let zero : Num := .fin false 0 0
  match m with
  | none => (List.range b.n).map fun i => (List.range b.n).map fun j => if b.reads i j then nthD zero es (i * b.n + j) else zero
  | some m =>
    let pos := fun (i j : Nat) =>
      (List.range i).foldl (fun k r => k + ((List.range 32).filter (mapBit m r)).length) 0 +
        ((List.range j).filter (mapBit m i)).length
    (List.range b.n).map fun i => (List.range b.n).map fun j => if mapBit m i j then nthD zero es (pos i j) else zero

def Batch.rhsRows (b : Batch) (bs : List Byte) : List (List Num) :=
  let es := elemsOf (fmtOf01 b.inFmt) bs
  (List.range b.n).map fun i => (List.range b.c).map fun j => nthD (.fin false 0 0) es (i * b.c + j)

/-- A factor record (R264). -/
def recordBytes (x : SCtx) (ok : Bool) : List Byte :=
  let keep := fun (fam : Nat → Nat → Bool) => (List.range x.n).flatMap fun i => (List.range x.n).flatMap fun j =>
    toBytes (unsignedOf (if fam i j then x.get i j else 0) 64) 8
  toBytes (bit1 ok * 2 ^ 31 + unsignedOf x.ea 16) 4 ++ toBytes (unsignedOf x.el 16 * 65536) 4 ++ List.replicate 8 0 ++
    (List.range 32).flatMap (fun k => toBytes (if x.zero then k else nthD 0 x.piv k) 1) ++
    keep fun _ _ => !x.zero

/-- The record with the entries above the diagonal of Cholesky and LDLᵀ zero. -/
def factorBytes (fam : SFam) (x : SCtx) : List Byte :=
  let low := { x with rows := (List.range x.n).map fun i => (List.range x.n).map fun j =>
    if fam = .lu ∨ j ≤ i then x.get i j else 0 }
  let pad := (48 + 8 * x.n * x.n + 63) / 64 * 64 - (48 + 8 * x.n * x.n)
  recordBytes low (!x.zero && !x.sat) ++ List.replicate pad 0

/-- A context loaded from a stored factor (R267). -/
def factorCtx (n xhead : Nat) (bs : List Byte) (rhs : List (List Num)) : SCtx :=
  let w := fun o => leNat ((bs.drop o).take 4)
  let ea := signedOf (w 0) 16
  let el := signedOf (w 4 / 65536) 16
  let ex := blockExp (rhs.flatMap id) xhead
  let q := fun i j => signedOf (leNat ((bs.drop (48 + 8 * (i * n + j))).take 8)) 64
  let rq := rhs.map fun r => r.map (toQ ex)
  let sat := rq.any fun r => r.any fun q => q.2.1
  { n := n, ea := ea, el := el, ex := ex,
    rows := (List.range n).map fun i => ((List.range n).map (q i)) ++ (nthD [] rq i).map fun q => q.1,
    piv := (List.range n).map fun k => ((bs.drop (16 + k)).take 1 |> leNat), rcps := [], step := if sat then 0 else 0xFF,
    sat := sat, nonfin := rq.any fun r => r.any fun q => q.2.2, neg := false, zero := false, pivExp := none }

/-- The solution bytes, with the row of the first B32 value that clamped (R246). -/
def solutionBytes (x : SCtx) (f : Fmt) (c : Nat) : List Byte × Option Nat :=
  (List.range x.n).foldl (fun (y : List Byte × Option Nat) i =>
    (List.range c).foldl (fun (y : List Byte × Option Nat) j =>
      let v := if x.zero then (0, false) else fromQ f (x.get i (x.n + j)) x.ex
      (y.1 ++ toBytes v.1 (f.width / 8), if v.2 && y.2.isNone then some i else y.2)) y) ([], none)

/-- The fields and inputs that a free PIVOT_EXP may depend on (R251). -/
def Batch.freeExp (b : Batch) (m : Option (List Byte)) (kept mat rhs : List Byte) : Nat :=
  (Config.noPivotExp [b.op, b.n, b.c, b.inFmt, b.outFmt, b.xhead, b.grow] (m.getD [] ++ kept ++ mat ++ rhs)).toNat

/-- The status of a processed matrix (R257, R261, R262). A matrix with no nonzero pivot has a free PIVOT_EXP (log entry
21). -/
def ctxStat (x : SCtx) (free : Nat) (reused refused : Bool) : SStat :=
  { w0 := (match x.pivExp with
           | some e => unsignedOf e 16
           | none => free) * 65536 + x.step * 256,
    code := if x.zero then stPIVOT_ZERO else if x.sat then stFIXED_OVF else stOK,
    redone := false, redoFailed := false, reused := reused, refused := refused, nonfin := x.nonfin, sat := x.sat, neg := x.neg,
    unproc := false }

/-- The fingerprint of R265. -/
def Batch.fp (b : Batch) (m : Option (List Byte)) : List Byte :=
  let fam := match b.fam with
    | .lu => 1
    | .chol => 2
    | _ => 3
  (shake256 (toBytes fam 1 ++ toBytes b.n 1 ++ List.replicate 6 0 ++ m.getD b.denseMap) 8).take 8

/-- The header of a factor region (R264). -/
def Batch.header (b : Batch) (m : Option (List Byte)) : List Byte :=
  let fam := match b.fam with
    | .lu => 1
    | .chol => 2
    | _ => 3
  b.fp m ++ toBytes (b.n * 256 + fam) 4 ++ toBytes b.count 4 ++ List.replicate 48 0

/-- The stored factors agree with the batch (R267). -/
def Batch.agrees (b : Batch) (m : Option (List Byte)) (hdr : List Byte) : Bool :=
  hdr.take 8 == b.fp m && (hdr.drop 8).take 2 == ((b.header m).drop 8).take 2 && decide (b.count ≤ leNat ((hdr.drop 12).take 4))

/-- The byte address of the factor record of matrix `i` (R264). -/
def Batch.recAddr (b : Batch) (i : Nat) : Nat := b.factorAddr + 64 + i * b.recBytes

/-- A read that the batch may not need. -/
def State.slvReadIf (s : State) (c : Bool) (e : Nat) (q : Submit) (a n : Nat) : State × Reply :=
  if c then s.slvRead e q a n else (s, Reply.ok [])

/-- A write that the batch may not ask for. -/
def State.slvWriteIf (s : State) (c : Bool) (e : Nat) (q : Submit) (a : Nat) (bs : List Byte) : State × Reply :=
  if c then s.slvWrite e q a bs else (s, Reply.ok [])

/-- What the engine reads for a matrix: its kept factor record, its right-hand sides and itself. -/
structure SlvIn where
  kept : Reply
  rhs : Reply
  mat : Reply
  reused : Bool

def SlvIn.refused (x : SlvIn) : Bool := x.kept.status != stOK || x.rhs.status != stOK || x.mat.status != stOK

/-- The reads of matrix `i`; a kept record that is good stands for the matrix (R267). -/
def State.slvInputs (s : State) (e : Nat) (q : Submit) (b : Batch) (m : Option (List Byte)) (agrees : Bool) (i : Nat) :
    State × SlvIn :=
  match s.slvReadIf (b.reuse && agrees) e q (b.recAddr i) b.recBytes with
  | (s1, kept) =>
    match s1.slvRead e q (b.rhsAddr + i * b.rhsStride) (b.n * b.c * fmtBytes b.inFmt) with
    | (s2, rhs) =>
      match s2.slvReadIf (!(b.reuse && agrees && bitOf (leNat (kept.data.take 4)) 31)) e q (b.matAddr + i * b.matStride)
          (b.matBytes m) with
      | (s3, mat) => (s3, ⟨kept, rhs, mat, b.reuse && agrees && bitOf (leNat (kept.data.take 4)) 31⟩)

/-- The computation of a matrix: its final context and its solution's bytes. -/
def slvCompute (b : Batch) (m : Option (List Byte)) (r : SlvIn) : SCtx × List Byte :=
  let bs := b.rhsRows r.rhs.data
  let x := if r.reused then (factorCtx b.n b.xhead r.kept.data bs).reuse b.fam
    else (loadCtx b.fam b.grow b.xhead (b.matRows m r.mat.data) bs).run b.fam
  let sol := solutionBytes x (fmtOf01 b.outFmt) b.c
  (match sol.2 with
   | some k => x.mark (0x40 + k) true
   | none => x, sol.1)

/-- The writes of matrix `i`: solution, factor record and status words; none where one is refused (R256). -/
def State.slvOutputs (s : State) (e : Nat) (q : Submit) (b : Batch) (i : Nat) (r : SlvIn) (x : SCtx × List Byte) (st : SStat) :
    State × Option (Nat × Nat) :=
  match s.slvWriteIf b.solves e q (b.xAddr + i * b.xStride) x.2 with
  | (s1, w1) =>
    match s1.slvWriteIf (b.factors && !r.reused) e q (b.recAddr i) (factorBytes b.fam x.1) with
    | (s2, w2) =>
      match s2.slvWrite e q (b.statusAddr + 8 * i) (toBytes st.w0 4 ++ toBytes st.word1 4) with
      | (s3, w3) =>
        if w1.status ≠ stOK ∨ w2.status ≠ stOK ∨ w3.status ≠ stOK then (s3, none)
        else
          let s4 := if st.refused then s3.bump (slvB e) SLV_REFUSE_COUNT.COUNT else s3
          (if b.redo then s4.modSolver e fun y => { y with rhs := mapPut y.rhs i r.rhs.data } else s4, some (st.w0, st.word1))

/-- Processes matrix `i`: outputs, factor record and status words. It answers none where a read or write of it is
refused (R256). -/
def State.slvMatrix (s : State) (e : Nat) (q : Submit) (b : Batch) (m : Option (List Byte)) (agrees : Bool) (i : Nat) :
    State × Option (Nat × Nat) :=
  match s.slvInputs e q b m agrees i with
  | (s1, r) =>
    if r.refused then (s1, none)
    else
      let x := slvCompute b m r
      s1.slvOutputs e q b i r x
        (ctxStat x.1 (b.freeExp m r.kept.data r.mat.data r.rhs.data) r.reused (b.reuse && !r.reused))

/-- The status words of a matrix are known. -/
def State.slvStat (s : State) (e : Nat) (st : Nat × Nat) (denied : Bool) : State × Bool :=
  (s.modSolver e fun y => { y with stats := y.stats ++ [st], denied := y.denied || denied }, denied)

/-- A matrix that is not processed. -/
def State.slvSkip (s : State) (e : Nat) (q : Submit) (b : Batch) (i code : Nat) (denied : Bool) : State × Bool :=
  let st := unprocessed code
  (s.slvWrite e q (b.statusAddr + 8 * i) (toBytes st.1 4 ++ toBytes st.2 4)).1.slvStat e st denied

/-- The limit of R270 lies at or before matrix `i`. -/
def State.slvLate (s : State) (e i : Nat) : Bool :=
  match (s.solver e).limit with
  | some k => decide (k ≤ i)
  | none => false

/-- Matrices in order; from a refused access on, every matrix is UNPROCESSED with DENIED, and from the limit of R270 on
with DEADLINE_MISS. -/
def State.slvMatrices (e : Nat) (q : Submit) (b : Batch) (m : Option (List Byte)) (agrees : Bool) (x : State × Bool) (i : Nat) :
    State × Bool :=
  if x.2 then x.1.slvSkip e q b i stDENIED true
  else if x.1.slvLate e i then x.1.slvSkip e q b i stDEADLINE_MISS false
  else
    match x.1.slvMatrix e q b m agrees i with
    | (s, some st) => s.slvStat e st false
    | (s, none) => s.slvSkip e q b i stDENIED true

/-- A matrix that the engine hands to redo (R263). -/
def handed (st : Nat × Nat) : Bool :=
  !bitOf st.2 8 && (st.2 / 65536 == stPIVOT_ZERO || st.2 / 65536 == stFIXED_OVF)

/-- Rewrites the status words that `f` changes. -/
def State.restat (s : State) (e : Nat) (q : Submit) (b : Batch) (f : Nat × Nat → Nat × Nat) : State :=
  let old := (s.solver e).stats
  let s := s.modSolver e fun x => { x with stats := old.map f }
  (List.range old.length).foldl (fun s i =>
    let o := nthD (0, 0) old i
    let n := f o
    if o = n then s else (s.slvWrite e q (b.statusAddr + 8 * i) (toBytes n.1 4 ++ toBytes n.2 4)).1) s

/-- Package firmware enters a core at PL2 in the secure state for a redo (R263). -/
def State.lendCore (s : State) (c : Nat) : State :=
  if (s.core c).lent.isSome then s
  else
    let own := (s.corePl c, s.coreState c)
    ((s.modCore c fun x => { x with lent := some own }).setPl c 2).setCoreState c csRUNNING

/-- A redo still runs on the core. -/
def State.redoOn (s : State) (c : Nat) : Bool :=
  s.solvers.any fun e => e.2.redo && (match e.2.batch with
    | some (ws, _, _) => (batchOf ws).core == c
    | none => false)

/-- The core has its level and state back after the last redo on it (R263). -/
def State.returnCore (s : State) (c : Nat) : State :=
  match (s.core c).lent with
  | none => s
  | some (pl, st) =>
    if s.redoOn c then s else ((s.modCore c fun x => { x with lent := none }).setPl c pl).setCoreState c st

/-- NOTIFY_CORE cannot run a redo (R263). -/
def State.redoCoreDown (s : State) (c : Nat) : Bool := s.coreState c == csHELD || !s.domOn (domK c)

/-- Whether matrices of a batch go to redo, and to whom (R263). -/
def State.slvRedo (s : State) (e : Nat) (q : Submit) (b : Batch) (denied : Bool) : State :=
  if !b.redo || !(s.solver e).stats.any handed || denied || (b.stopAt && decide (b.deadline ≤ s.now)) then s
  else if s.redoCoreDown b.core then
    (s.restat e q b fun st => if handed st then (st.1, st.2 + 2 ^ 14) else st).log
      { status := stBUSY, cls := 2, source := 7, unit := s.dieUnit (engineDie e), peer := none, job := q.job,
        detail := [BitVec.ofNat 32 b.core] }
  else (s.modSolver e fun x => { x with redo := true }).lendCore b.core

/-- The matrices of a batch, and the header of its factor region (R264); `known` where an access has been refused before them
(R256). -/
def State.slvAll (s : State) (e : Nat) (q : Submit) (b : Batch) (m : Option (List Byte)) (known : Bool) : State × Bool :=
  match s.slvReadIf b.reuse e q b.factorAddr 64 with
  | (s, hdr) =>
    match (List.range b.count).foldl (State.slvMatrices e q b m (b.agrees m hdr.data)) (s, known || hdr.status != stOK) with
    | (s, denied) =>
      match s.slvWriteIf (b.factors && !denied) e q b.factorAddr (b.header m) with
      | (s, w) =>
        let denied := denied || w.status != stOK
        (s.modSolver e fun x => { x with denied := x.denied || denied }, denied)

/-- The DEADLINE of a batch that stops there has come, and how many matrices or redos had started is not yet known (R270). -/
def State.awaitsLimit (s : State) (e : Nat) (b : Batch) : Bool :=
  b.stopAt && decide (b.deadline ≤ s.now) && (s.solver e).limit.isNone

/-- BATCH_ENGINE_DONE: the engine has processed every matrix (R263). -/
def State.engineDone (s : State) (e : Nat) : State :=
  match (s.solver e).batch with
  | none => s
  | some (ws, q, _) =>
    if (s.solver e).done || s.awaitsLimit e (batchOf ws) then s
    else
      match s.batchMap e q (batchOf ws) with
      | (s, m) =>
        match s.slvAll e q (batchOf ws) m.1 ((s.solver e).denied || !m.2) with
        | (s, denied) => (s.modSolver e fun x => { x with done := true }).slvRedo e q (batchOf ws) denied

def execBatchEngineDone (e : Fin 8) (s : State) : Host.Outcome State Fault Refusal := .next (s.engineDone e)

/-! ### Redo (R263) -/

/-- A finite B64 code in OUT_FMT, none where it does not stay finite. -/
def outCode (f : Fmt) (c : Nat) : Option Nat :=
  let y := (convert f .rne false 0 (decode .b64 c)).1
  match decode f y with
  | .fin _ _ _ => some y
  | _ => none

/-- The redo of matrix `i`: its solution bytes where it succeeds. -/
def State.redoMatrix (s : State) (e : Nat) (q : Submit) (b : Batch) (m : Option (List Byte)) (i : Nat) :
    State × Option (List Byte) :=
  let mat := s.slvRead e q (b.matAddr + i * b.matStride) (b.matBytes m)
  let rhs := mapGet [] (s.solver e).rhs i
  let code := fun x => (convert .b64 .rne false 0 x).1
  let rows := (List.zip (b.matRows m mat.2.data) (b.rhsRows rhs)).map fun r => (r.1 ++ r.2).map code
  let x : BCtx := { n := b.n, rows := rows, rcps := [], ok := rows.all fun r => r.all BCtx.finite }
  let y := x.run b.fam
  let f := fmtOf01 b.outFmt
  let out := (List.range b.n).flatMap fun i => (List.range b.c).map fun j => outCode f (y.get i (b.n + j))
  (mat.1, if y.ok && out.all Option.isSome then some (out.flatMap fun o => toBytes (o.getD 0) (f.width / 8)) else none)

/-- The redo of matrix `i` where it is handed: its solution and status, or REDO_FAILED. -/
def State.redoOne (e : Nat) (q : Submit) (b : Batch) (m : Option (List Byte)) (s : State) (i : Nat) : State :=
  let st := nthD (0, 0) (s.solver e).stats i
  if handed st then
    let y := s.redoMatrix e q b m i
    let new := match y.2 with
      | some _ => (st.1, st.2 % 65536 + 2 ^ 15)
      | none => (st.1, st.2 + 2 ^ 14)
    let s := match y.2 with
      | some bs => if b.solves then (y.1.slvWrite e q (b.xAddr + i * b.xStride) bs).1 else y.1
      | none => y.1
    let s := s.modSolver e fun x => { x with stats := setNth x.stats i new }
    (s.slvWrite e q (b.statusAddr + 8 * i) (toBytes new.1 4 ++ toBytes new.2 4)).1
  else s

/-- Handed matrices in order, at most the number that had started by DEADLINE under STOP_AT_DEADLINE (R270). -/
def State.redoList (s : State) (e : Nat) : List Nat :=
  let x := s.solver e
  let all := (List.range x.stats.length).filter fun i => handed (nthD (0, 0) x.stats i)
  match x.limit with
  | some k => all.take k
  | none => all

def State.redoDone (s : State) (e : Nat) : State :=
  let x := s.solver e
  match x.batch with
  | none => s
  | some (ws, q, _) =>
    let b := batchOf ws
    if !x.redo || s.awaitsLimit e b then s
    else
      let m := s.batchMap e q b
      (((s.redoList e).foldl (State.redoOne e q b m.2.1) m.1).modSolver e fun x => { x with redo := false }).returnCore b.core

def execRedoDone (e : Fin 8) (s : State) : Host.Outcome State Fault Refusal := .next (s.redoDone e)

/-- BATCH_DEADLINE (R270): `started` matrices, or redos once the engine has finished, had started by DEADLINE. -/
def State.batchDeadline (s : State) (e started : Nat) : State :=
  let x := s.solver e
  match x.batch with
  | none => s
  | some (ws, _, _) =>
    let b := batchOf ws
    if b.stopAt ∧ b.deadline ≤ s.now ∧ x.limit.isNone ∧ (!x.done ∨ x.redo) then
      s.modSolver e fun x => { x with limit := some started }
    else s

def execBatchDeadline (e : Fin 8) (started : Nat) (s : State) : Host.Outcome State Fault Refusal :=
  .next (s.batchDeadline e started)

/-! ### Completion (R258, R259, R269) -/

/-- A write of the engine is not yet acknowledged. -/
def State.engineWaits (s : State) (e : Nat) : Bool :=
  (s.solver e).waiting != [] || (s.solver e).out != 0 || s.fabric.reqQ.any (fun r => r.who == .solver e) || s.fabric.sent.any (fun x => x.req.who == .solver e) ||
    s.waitingReqs.any fun r => r.who == .solver e

def countStats (l : List (Nat × Nat)) (p : Nat × Nat → Bool) : Nat := (l.filter p).length

/-- BATCH_COMPLETE: every output has been acknowledged (R259). -/
def State.completeBatch (s : State) (e : Nat) : State :=
  let x := s.solver e
  match x.batch with
  | none => s
  | some (ws, q, start) =>
    if !x.done || x.redo || s.engineWaits e then s
    else
      let b := batchOf ws
      let st := x.stats
      let worst := st.foldl (fun w x => max w (x.2 / 65536)) stOK
      let done := st.filter fun x => !bitOf x.2 8
      let counts := [done.length, countStats st fun x => x.2 / 65536 == stPIVOT_ZERO,
        countStats st fun x => x.2 / 65536 == stFIXED_OVF, countStats st fun x => bitOf x.2 15,
        countStats st fun x => bitOf x.2 14, countStats st fun x => bitOf x.2 13, countStats st fun x => bitOf x.2 12]
      s.endBatch e q b (if x.denied then stDENIED else worst) counts start

def execBatchComplete (e : Fin 8) (s : State) : Host.Outcome State Fault Refusal := .next (s.completeBatch e)

end Sys2Proof.Machine
end

