-- ==== Sys2Proof/Machine/Power.lean ====
section
/-! DEFINITION. Power domains and their changes (R495-R503), what a domain loses, the cap and its governor (R27, R505-R507,
R581), the thermal trip and the slump save (R508-R514). -/

namespace Sys2Proof.Machine

/-! ### What a domain loses (R495) -/

/-- Requests that wait at a home whose domain leaves complete with DENIED (R497). -/
def State.denyAll (s : State) (rs : List Req) : State := rs.foldl (fun s r => (s.landReq r Reply.denied).goesOn r.land) s

/-- Parts of commands that wait on a compute die complete with DENIED (R497). -/
def State.denyParts (s : State) (d : Nat) : State :=
  let u := s.dieUnit d
  let s := match (s.die d).clear.map fun c => c.task with
    | some (.set h _) => s.partDone h 0x0106 u stDENIED []
    | _ => s
  let s := ((List.range 4).filterMap fun i => ((s.die d).slot i).load).foldl (fun s e => s.partDone e.1 0x0110 u stDENIED []) s
  (s.die d).atCut.foldl (fun s e => s.partDone e.1 0x0701 u stDENIED []) s

/-- Commands that a copy engine ran for a channel complete with DENIED (R497). -/
def State.denyCopies (s : State) (e : Nat) : State :=
  (((s.copy e).running.map fun c => c.sub) ++ (s.copy e).queue).foldl (fun s q =>
    match q.cmd with
    | some (h, _) => s.finish h 0x0204 stDENIED []
    | none => s) s

/-- Ck loses everything; every dirty bit of Mk and Sk is set on return and no image is open (R118, R291, R420). Whose data the
slots of Sk hold stays known for R174; answers of accesses that were applied still reach their sources. -/
def State.clearC (s : State) (d : Nat) : State :=
  let waiting := (s.stack d).queues.flatMap fun q => q.2
  let done := (s.stack d).answers
  let s := (s.denyParts d).denyCopies d
  let s := s.resetRegs fun a => a / 0x1000000 == d
  let x := s.die d
  let y := s.stack d
  let s := s.setDie d { DieX.init with upsets := x.upsets, holders := x.holders, sensors := x.sensors, run := x.run + 1 }
  let s := s.setStack d { StackX.init with upsets := y.upsets }
  let s := { s with tiles := mapKeep s.tiles (fun k => k / 768 != d), copies := mapErase s.copies d,
                    coll := { s.coll with calls := s.coll.calls.filter fun c => c.die != d } }
  let s := done.foldl (fun s a => (s.landReq a.1 a.2).goesOn a.1.land) s
  (s.denyAll waiting).applyClock d

/-- Sk: every byte zero and every tag EMPTY (R172). -/
def State.clearS (s : State) (d : Nat) : State :=
  let here := fun a => decide (scratchAddr d 0 ≤ a) && decide (a < scratchAddr (d + 1) 0)
  ({ s with mem := clearBytes s.mem here, tags := mapKeep s.tags fun k => k / 5120 / 768 != d }).modDie d fun x =>
    { x with upsets := [], holders := [] }

/-- Mk loses its data (log entry 3 says what it then reads as). -/
def State.clearM (s : State) (k : Nat) : State :=
  let here := fun a => decide (stackAddr k 0 ≤ a) && decide (a < stackAddr (k + 1) 0)
  ({ s with mem := clearBytes s.mem here, poison := s.poison.filter fun x => !here (x * 64) }).modStack k fun y =>
    { y with upsets := [] }

/-- The four cores of a cluster return HELD with everything at reset. -/
def State.clearCluster (s : State) (c0 : Nat) : State :=
  let mine := fun a => decide (cpcB c0 ≤ a) && decide (a < cpcB c0 + 0x4000)
  let s := s.resetRegs mine
  { s with cores := mapKeep s.cores fun c => decide (c < c0) || decide (c0 + 4 ≤ c) }

/-- What K00 of die 12 or 13 powers beside its cores: caches, solver and copy engines, the die's control block. -/
def State.clearK00 (s : State) (p : Nat) : State :=
  let es := List.range' (12 + (p - 12) * 4) 4
  let s := es.foldl State.denyCopies s
  let s := s.resetRegs fun a => decide (ctlB p ≤ a) && decide (a < ctlB p + 0x1000000) &&
    !(decide (ctlB p + 0x10000 ≤ a) && decide (a < ctlB p + 0x50000))
  let s := s.setProc p { ProcX.init with sensors := (s.proc p).sensors }
  ({ s with solvers := mapKeep s.solvers fun e => e / 4 != p - 12, copies := mapKeep s.copies fun e => !es.contains e,
            coll := { s.coll with calls := s.coll.calls.filter fun c => c.die != p } }).applyClock p

/-- The ports of a group lose their settings. -/
def State.clearG (s : State) (g : Nat) : State :=
  let s := s.resetRegs fun a => decide (prtB (4 * g) ≤ a) && decide (a < prtB (4 * g) + 0x4000)
  { s with ports := mapKeep s.ports fun p => p / 4 != g }

/-- The CXL port: OFF loses the COMMIT bits, and the links are down (R495). -/
def State.clearCXL (s : State) (off : Bool) : State :=
  (List.range 4).foldl (fun s i =>
    let b := ftB + FT_DEV.stride * i
    (if off then s.setFld b FT_DEV.COMMIT 0 else s).setFld b FT_DEV_STATUS.PRESENT 0) s

/-! ### Conditions of a change (R421, R496) -/

/-- The domain is in a state and stays in it. -/
def State.domStays (s : State) (n st : Nat) : Bool := s.domState n == st && (mapGet? s.pwr.changing n).isNone

/-- The domain neither is in a state nor goes to it. -/
def State.domAvoids (s : State) (n st : Nat) : Bool :=
  s.domState n != st && match mapGet? s.pwr.changing n with
    | none => true
    | some (t, _) => t % 4 != st && (decide (t < 4) || st != 0)

def State.copyIdle (s : State) (e : Nat) : Bool := (s.copy e).queue.isEmpty && (s.copy e).running.isEmpty
def State.solverIdle (s : State) (e : Nat) : Bool := (s.solver e).queue.isEmpty && (s.solver e).batch.isNone

/-- Ck is STOPPED, its copy engine is idle and no cut image is open. -/
def State.cellQuiet (s : State) (k : Nat) : Bool :=
  s.dieState k == dsSTOPPED && s.copyIdle k && !s.memOpen k && !s.scrOpen k

/-- R496 and R421 let domain `n` go to state `st`. That FC is ON for whatever its switch serves is DEDUCED (log entry
25). -/
def State.domAllowed (s : State) (n st : Nat) : Bool :=
  let leaves := s.domState n == 0 && st != 0
  let fc := st != 0 || s.domStays domFC 0
  if n < 0x10 then
    fc && (st != 0 || s.domStays (domS n) 0) && (st != 2 || s.domAvoids (domS n) 0) && (!leaves || s.cellQuiet n)
  else if n < 0x20 then
    let k := n - 0x10
    if st = 0 then s.domAvoids (domC k) 2 else s.domAvoids (domC k) 0 && !s.memOpen k && !s.scrOpen k
  else if n < 0x30 then !leaves || s.cellQuiet (n - 0x20)
  else if n < 0x50 then
    let k00 := n / 16 * 16
    let p := n / 16 - 3
    if n = k00 then
      fc && (st == 0 || ((List.range' (k00 + 1) 15).all fun m => s.domAvoids m 0) &&
        (List.range' (12 + 4 * p) 4).all s.copyIdle && (List.range' (4 * p) 4).all s.solverIdle)
    else fc && (st != 0 || s.domStays k00 0)
  else if n = domFC then
    st == 0 || (List.range 12 ++ List.range' 0x30 32 ++ List.range' 0x58 9 ++ [domCXL]).all fun m => s.domAvoids m 0
  else if n = domCXL then fc && (!leaves || s.far.queues.all fun q => q.2.isEmpty)
  else fc

/-- The straps keep the domain OFF (R536). -/
def State.keptOff (s : State) (n : Nat) : Bool :=
  (decide (0x58 ≤ n) && decide (n ≤ 0x60) && !s.flag glpB GLP_PLACE.VALID) || (n == domCXL && s.straps.ftBifur == 3)

/-! ### Changing state (R498, R499) -/

/-- Quiesces a domain: a port group's ports leave their routes first (R498, R329). -/
def State.quiesce (s : State) (n : Nat) : State :=
  if 0x58 ≤ n ∧ n ≤ 0x60 then
    (List.range' (4 * (n - 0x58)) 4).foldl (fun s p => (s.leaveUp p).setPortState p psOFF) s
  else if n = domCXL then s.clearCXL false
  else s

/-- A change begins; on the way down the clamps are asserted before the rail drops. A target of `st` + 4 rises again for a
wake (R502). -/
def State.startChange (s : State) (n st : Nat) (cmd : Option CmdHdr) : State :=
  let s := s.beginChange n st cmd
  if st % 4 = 0 then s else (s.quiesce n).setFld (pwrB + PWR_DOM.stride * n) PWR_DOM.ISOLATED 1

/-- The buffers and loop counters of a tile, which RETENTION of Ck does not keep: free values (R495). -/
def retainTile (n t : Nat) (x : TileX) : TileX :=
  let bytes := (List.range 196608).map fun i => Config.freeByte n (t * 196608 + i)
  { x with banks := writeBytes [] 0 bytes, loops := (List.range 8).map fun i => (i, leNat ((List.range 4).map fun b => Config.freeByte (n + 1) (t * 32 + i * 4 + b))) }

/-- What the new state of a domain brings (R172, R291, R495). -/
def State.enterDomain (s : State) (n old st : Nat) : State :=
  if n < 0x10 then
    if st = 2 then s.clearC n
    else if st = 1 ∧ old = 0 then
      (List.range 768).foldl (fun x t => x.modTile n t (retainTile s.draw.1 t)) ((s.draw.2).draw.2)
    else s
  else if n < 0x20 then if st = 2 ∨ (st = 0 ∧ old = 2) then s.clearS (n - 0x10) else s
  else if n < 0x30 then if st = 2 then s.clearM (n - 0x20) else s
  else if n < 0x50 then
    let p := 9 + n / 16
    let s := if st = 2 then s.clearCluster ((n - 0x30) * 4) else s
    if n % 16 = 0 then
      if st = 2 then s.clearK00 p
      else if st = 1 then s.setProc p { s.proc p with lines := [] }
      else s
    else s
  else if 0x58 ≤ n ∧ n ≤ 0x60 then
    let s := if st = 2 then s.clearG (n - 0x58) else s
    if st = 0 then (List.range' (4 * (n - 0x58)) 4).foldl (fun s p => s.portToDown p) s else s
  else if n = domCXL then if st = 2 then s.clearCXL true else s
  else s

/-- Sets a domain's fields: clamps released with ON. -/
def State.setDomain (s : State) (n st : Nat) : State :=
  let b := pwrB + PWR_DOM.stride * n
  ((s.setFld b PWR_DOM.STATE st).setFld b PWR_DOM.CHANGING 0).setFld b PWR_DOM.ISOLATED (bit1 (st != 0))

/-- The window requests that waited for FC are issued (R503). -/
def State.hostAwake (s : State) : State :=
  { s with host := { s.host with asleep := [] } }.issueReqs s.host.asleep

/-- A change is over (R498-R502). A domain that a wake raises waits for FC (R503). -/
def State.changeDone (s : State) (n : Nat) : State :=
  match mapGet? s.pwr.changing n with
  | none => s
  | some (t, cmd) =>
    let st := t % 4
    if st = 0 ∧ n ≠ domFC ∧ !(decide (0x10 ≤ n) && decide (n < 0x30)) ∧ !s.domOn domFC then s
    else
      let s := s.setChanging fun m => mapErase m n
      let s := ((s.enterDomain n (s.domState n) st).setDomain n st).pwrInfo n st
      let s := if n = domFC ∧ st = 0 then s.hostAwake else s
      let s := match cmd with
        | some h => (s.pwrEvent PWR_EVENTS.DOMAIN_DONE).finish h 0x0502 stOK []
        | none => s
      if 4 ≤ t then s.startChange n 0 none else s

def execDomainChangeDone (code : Nat) (s : State) : Host.Outcome State Fault Refusal := .next (s.changeDone code)

def bodyDomainState (s : State) (h : CmdHdr) (ps : List Word64) : State :=
  let w := (nthD (0 : Word64) ps 0).toNat
  let n := w % 256
  let st := bitsOf w 9 8
  if !domainExists n || n = domAON || n = domHost || (n = domFC && st = 2) || st = 3 || s.keptOff n then
    s.finish h 0x0502 stDENIED []
  else if (mapGet? s.pwr.changing n).isSome || !s.domAllowed n st then s.finish h 0x0502 stBUSY []
  else if s.domState n = st then (s.pwrEvent PWR_EVENTS.DOMAIN_DONE).finish h 0x0502 stOK []
  else s.startChange n st (some h)

def execDomainState (h : CmdHdr) (ps : List Word64) (s : State) : Host.Outcome State Fault Refusal :=
  .next (s.command h 0x0502 ps bodyDomainState)

/-! ### Wake (R502, R503) -/

def State.wake (s : State) : WakeSource → State
  | .lane g =>
    if 9 ≤ g ∨ s.domOn (domG g) ∨ s.keptOff (domG g) ∨ !bitOf (s.fld pwrB PWR_WAKE_EN.GROUPS) g then s
    else
      let s := if s.domState domFC = 1 then s.wakeDomain domFC else s
      (s.wakeDomain (domG g)).noteWake false (2 ^ g)
  | .host => s.wakeHost

def execLaneWake (src : WakeSource) (s : State) : Host.Outcome State Fault Refusal :=
  .next (if s.noWake then s else s.wake src)

/-! ### The cap and its governor (R27, R505-R507, R581) -/

def capWatts (cap : Nat) : Nat := if cap = 1 then 3200 else if cap = 2 then 2400 else 4000

/-- A write of 3 is ignored. -/
def State.setCap (s : State) (cap : Nat) : State := if cap = 3 then s else s.setFld pwrB PWR_CAP.CAP cap

/-- CAP 3 names no cap: DENIED (DESIGN CHOICE, log entry 25). -/
def bodyCapSet (s : State) (h : CmdHdr) (ps : List Word64) : State :=
  let cap := (nthD (0 : Word64) ps 0).toNat % 4
  if cap = 3 then s.finish h 0x0501 stDENIED [] else (s.setCap cap).finish h 0x0501 stOK []

def execCapSet (h : CmdHdr) (ps : List Word64) (s : State) : Host.Outcome State Fault Refusal :=
  .next (s.command h 0x0501 ps bodyCapSet)

def execPwrCapWrite (v : Word) (s : State) : Host.Outcome State Fault Refusal := .next (s.setCap (v.toNat % 4))

/-- The sum and number of the latest samples. -/
def latest (n : Nat) (l : List Nat) : Nat × Nat := ((l.take n).foldl (· + ·) 0, (l.take n).length)

/-- The next demand of R581 from the present one, the cap in watts and the samples, newest first. -/
def nextDemand (cur cap : Nat) (samples : List Nat) : Nat :=
  let w := samples.headD 0
  let m := latest 10 samples
  let raw :=
    if cap * 105 < w * 100 then (cur * w * 100 + cap * 95 - 1) / (cap * 95)
    else if cap * 98 * m.2 < m.1 * 100 then cur + 0x40
    else if m.1 * 100 < cap * 92 * m.2 then cur - 0x40
    else cur
  min 0x4000 (max 0x1000 raw)

/-- One measurement of the input power (R505, R581); after CAP_UNMET the demand stays until the mean falls (R507). -/
def State.govern (s : State) (watts : Nat) : State :=
  let cap := capWatts (s.fld pwrB PWR_CAP.CAP)
  let samples := (watts :: s.pwr.samples).take 100
  let ms := latest 100 samples
  let above := decide (cap * ms.2 < ms.1)
  let keep := s.pwr.capNoted && decide (cap * ms.2 ≤ ms.1)
  let cur := s.govPeriod
  let next := if keep then 0x4000 else nextDemand cur cap samples
  let s := { s with pwr := { s.pwr with samples := samples, capNoted := keep, aboveCap := if above && cur == 0x4000 then s.pwr.aboveCap + 1 else 0 } }
  let s := (s.setFld pwrB PWR_NOW.WATTS (min 65535 (ms.1 / ms.2))).setFld pwrB PWR_PERIOD.PERIOD_Q12 next
  (List.range 14).foldl (fun s d => s.applyClock d) s

def execGovernorSample (watts : Nat) (s : State) : Host.Outcome State Fault Refusal := .next (s.govern watts)

/-- Ten ms over the cap at full demand, noted once (R507): 1,000 samples. -/
def execCapUnmet (s : State) : Host.Outcome State Fault Refusal :=
  .next (if s.pwr.capNoted ∨ s.pwr.aboveCap < 1000 then s
    else
      let s := { s with pwr := { s.pwr with capNoted := true } }
      (s.pwrEvent PWR_EVENTS.CAP_UNMET).log
        { status := stINTERNAL, cls := 3, source := 13, unit := s.dieUnit 14, peer := none, job := 0, detail := [] })

def bodyPowerRead (s : State) (h : CmdHdr) (_ : List Word64) : State :=
  s.finish h 0x0503 stOK [BitVec.ofNat 64 (s.fld pwrB PWR_NOW.WATTS), BitVec.ofNat 64 s.govPeriod]

def execPowerRead (h : CmdHdr) (ps : List Word64) (s : State) : Host.Outcome State Fault Refusal :=
  .next (s.command h 0x0503 ps bodyPowerRead)

/-! ### Every domain at once (R508, R510, R533, R543) -/

/-- Blocks that AON powers. -/
def aonBlock : Blk → Bool
  | .tb | .pwr | .sec | .fw | .mgt | .ch | .store => true
  | _ => false

def aonOffset (a : Nat) : Bool :=
  (match locate a with
   | some (b, _, _) => aonBlock b
   | none => false) || a == glpB || a == glpB + 4

/-- A byte that keeps its value without any domain but AON, and with M in RETENTION where `keepM`. -/
def keptByte (keepM : Bool) (a : Nat) : Bool :=
  decide (farAddr 0 ≤ a) || (decide (controlAddr 0 ≤ a) && decide (a < farAddr 0)) || (keepM && decide (a < stackAddr 12 0))

/-- Every domain except AON loses its state: OFF with clamps asserted, or M in RETENTION where `keepM` (R510, R543). -/
def State.dropDomains (s : State) (keepM : Bool) : State :=
  let far := fun x => decide (farAddr 0 ≤ x * 64) || (keepM && decide (x * 64 < stackAddr 12 0))
  let s := s.resetRegs fun a => !aonOffset a
  let s : State :=
    { s with
      mem := clearBytes s.mem fun a => !keptByte keepM a
      poison := s.poison.filter far
      tags := []
      dies := s.dies.map fun e => (e.1, { DieX.init with sensors := e.2.sensors, run := e.2.run + 1 })
      tiles := []
      stackMap := if keepM then s.stackMap.map fun e => (e.1, { StackX.init with upsets := e.2.upsets }) else []
      far := FarX.init
      digests := []
      cores := []
      procs := s.procs.map fun e => (e.1, { ProcX.init with sensors := e.2.sensors })
      solvers := []
      copies := []
      fabric := { FabricX.init with nextReq := s.fabric.nextReq }
      ports := []
      coll := CollX.init
      host := { HostX.init with msix := s.host.msix, answers := s.host.answers, aer := s.host.aer }
      tb := { s.tb with peers := [], sync := none, offsets := [] }
      pwr := { s.pwr with changing := [] } }
  ((List.range 0x70).filter domainExists).foldl (fun s n =>
    s.setDomain n (if keepM && decide (0x20 ≤ n) && decide (n < 0x30) then 1 else 2)) s

/-! ### The save record (R511) -/

/-- The newest record whose tag authenticates. -/
def JrnX.newest (j : JrnX) : Option SaveRec :=
  match j.areaA.filter (·.valid), j.areaB.filter (·.valid) with
  | some a, some b => some (if a.saveSeq < b.saveSeq then b else a)
  | some a, none => some a
  | none, b => b

/-- Job records of the jobs in the job table (R338, R428). -/
def State.jobRecords (s : State) : List (Nat × Nat × Nat × Nat × Nat) :=
  ((List.range 64).filter fun j => s.flag (glpB + 8 * j) GLP_JOB_MODE.VALID).map fun j =>
    let job := s.fld (glpB + 8 * j) GLP_JOB.JOB
    let last := ((mapGet StrJob.init s.strata job).committed.getLast?).getD (0, 0, 0, 0)
    (job, last.2.2.2, last.1, last.2.1, last.2.2.1)

/-- Idle time left in ms (R465). -/
def Session.idleLeft (x : Session) (now : Nat) : Nat :=
  if x.standing then 10000 else min 10000 ((x.last + 2000000000 - now) / 200000)

/-- The record that a slump leaves in the journal die, not complete yet, in the area of the older or invalid record. -/
def State.writeSave (s : State) (cause : Nat) : State :=
  let j := s.jrn
  let r : SaveRec :=
    { saveSeq := ((j.newest.map fun r => r.saveSeq).getD 0) + 1, cause := cause, grain := s.now, place := s.place,
      tbState := s.tbState, valid := false, jobs := s.jobRecords,
      sessions := s.chans.filterMap fun e =>
        match e.2.session with
        | some x => if x.standing then none else some (e.1, x.role, x.slot, x.idleLeft s.now, x.job)
        | none => none,
      entries := j.buf.reverse }
  let a := j.areaA.filter (·.valid)
  let b := j.areaB.filter (·.valid)
  let intoB := match a, b with
    | some x, some y => decide (y.saveSeq < x.saveSeq)
    | some _, none => true
    | none, _ => false
  { s with jrn := if intoB then { j with areaA := a, areaB := some r } else { j with areaA := some r, areaB := b } }

/-- The write reaches its end: the tag authenticates. -/
def JrnX.sealSave (j : JrnX) : JrnX :=
  let done := fun (r : SaveRec) => { r with valid := true }
  { j with areaA := j.areaA.map done, areaB := j.areaB.map done }

/-- Words of a journal entry (R549). -/
def JEntry.words (e : JEntry) : List Word :=
  [ BitVec.ofNat 32 (e.status * 2 ^ 16 + e.cls * 2 ^ 12 + e.source), BitVec.ofNat 32 e.seq ] ++ words64 e.grain ++
    [ BitVec.ofNat 32 e.unit,
      match e.peer with
      | some p => BitVec.ofNat 32 (p * 2 ^ 17 + 2 ^ 16)
      | none => 0,
      BitVec.ofNat 32 e.job, BitVec.ofNat 32 e.count ] ++ (List.range 8).map fun i => nthD (0 : Word) e.detail i

/-- Words of a job record (R511). -/
def jobWords (r : Nat × Nat × Nat × Nat × Nat) : List Word :=
  [BitVec.ofNat 32 r.1] ++ words64 r.2.1 ++ words64 r.2.2.1 ++ [BitVec.ofNat 32 r.2.2.2.1] ++ words64 r.2.2.2.2

/-- The bytes of a save record before its tag (R511). The order of a session record's fields in its four words is the
model's (DESIGN CHOICE, log entry 25). -/
def SaveRec.bytes (r : SaveRec) : List Byte :=
  let jobs := r.jobs.flatMap jobWords
  let sess := r.sessions.flatMap fun e =>
    [BitVec.ofNat 32 e.1, BitVec.ofNat 32 (e.2.1 * 2 ^ 29 + e.2.2.1 * 2 ^ 24), BitVec.ofNat 32 e.2.2.2.1, BitVec.ofNat 32 e.2.2.2.2]
  let ents := r.entries.flatMap JEntry.words
  let n := 64 + 4 * (jobs.length + sess.length + ents.length) + 16
  wordBytes ([BitVec.ofNat 32 0x534C4D50, BitVec.ofNat 32 (2 ^ 16 + r.cause * 2 ^ 8), BitVec.ofNat 32 r.saveSeq,
    BitVec.ofNat 32 n] ++ words64 r.grain ++ [BitVec.ofNat 32 (r.place * 2 ^ 17 + r.tbState),
    BitVec.ofNat 32 (r.jobs.length * 2 ^ 16 + r.sessions.length), BitVec.ofNat 32 (4 * ents.length)] ++ List.replicate 7 0 ++
    jobs ++ sess ++ ents)

/-! ### Slump and trip (R508-R510, R514) -/

/-- Actions 1 and 2 of R510, with the record under way: clocks and mailboxes stop, every domain is clamped and OFF, and the
main regulators are off. -/
def State.startSlump (s : State) (cause : Nat) : State :=
  let s := s.log { status := stINTERNAL, cls := 7, source := 13, unit := s.pkgUnit, peer := none, job := 0,
                   detail := [BitVec.ofNat 32 cause] }
  let s := (s.writeSave cause).dropDomains false
  { s with pwr := { s.pwr with slump := some (cause, s.now), saved := false, mainEn := false } }

/-- A trigger of R509: 0 PFAIL_N, 1 VSTBY_12, 3 a main rail. A slump in progress runs on. -/
def execSlumpDetect (cause : Nat) (s : State) : Host.Outcome State Fault Refusal :=
  .next (if s.pwr.slump.isSome ∨ !(cause = 0 ∨ cause = 1 ∨ cause = 3) then s else s.startSlump cause)

/-- A region at 105 °C or a stack at 95 °C (R508). -/
def State.tooHot (s : State) : Bool :=
  ((List.range 14).any fun d => (s.sensorsOf d).any fun r => decide (105 ≤ r.2.1)) ||
    s.pwr.stackTemp.any fun r => decide (95 ≤ r.2)

def execThermalTrip (s : State) : Host.Outcome State Fault Refusal :=
  .next (if s.pwr.slump.isSome ∨ s.pwr.tripped ∨ !s.tooHot then s else s.startSlump 2)

/-- The record is complete (R510); after a trip the package stays down with its supply present (R508). -/
def State.saveDone (s : State) : State :=
  match s.pwr.slump with
  | none => s
  | some (cause, _) =>
    let s := { s with jrn := s.jrn.sealSave }
    if cause = 2 then
      ({ s with pwr := { s.pwr with slump := none, saved := true, tripped := true } }).pwrEvent PWR_EVENTS.TRIP
    else { s with pwr := { s.pwr with saved := true } }

def execSlumpSaveDone (s : State) : Host.Outcome State Fault Refusal := .next s.saveDone

/-- The supply has been in range for 10 ms after a save: a cold reset is due (R514). -/
def execSupplyReturn (s : State) : Host.Outcome State Fault Refusal :=
  .next (if s.pwr.slump.isSome && s.pwr.saved then { s with pkc := { s.pkc with resets := [(0, 0, s.now)] } } else s)

end Sys2Proof.Machine
end

