-- ==== Sys2Proof/Machine/Boot.lean ====
section
/-! DEFINITION. Start-up and reset (chapter 22): the cold boot and the PUF (R475-R477, R482, R535-R541), firmware
verification and start (R484-R486, R538), and the reset types (R542-R547). -/

namespace Sys2Proof.Machine

/-! ### The journal ring (R551) -/

/-- Writes entries into the ring, oldest first; each entry overwritten counts as lost. -/
def JrnX.persist (j : JrnX) (es : List JEntry) : JrnX :=
  let all := j.ring ++ es
  let excess := all.length - 32768
  { j with ring := all.drop excess, lost := sat32 (j.lost + excess) }

/-! ### Cold reset (R537 stages 1 to 3) -/

/-- The PUF key of enrolment `n`. -/
def pufKey (n : Nat) : List Byte := Config.freeBytes n 32

/-- R475. -/
def identityOf (n : Nat) : List Byte := shake256 (ascii "LN9640-ID" ++ pufKey n) 57

/-- SEC_STATUS.PUF codes. -/
def pufRECONSTRUCTED : Nat := 0
def pufENROLLED : Nat := 1
def pufFAIL : Nat := 2

/-- A new enrolment (R476). -/
def State.enrol (s : State) : State :=
  let n := s.draw
  ({ n.2 with sec := { n.2.sec with enrolled := some n.1, identitySecret := identityOf n.1 } }).setFld secB SEC_STATUS.PUF pufENROLLED

/-- Reconstruction or enrolment (R476, R477, R482). -/
def State.pufBoot (s : State) (puf : PufOutcome) : State :=
  match puf, s.sec.enrolled with
  | .ok, some n =>
    ({ s with sec := { s.sec with identitySecret := identityOf n } }).setFld secB SEC_STATUS.PUF pufRECONSTRUCTED
  | .ok, none => s.enrol
  | .fail, some _ =>
    if s.straps.secClear then s.enrol
    else
      (s.setFld secB SEC_STATUS.PUF pufFAIL).log
        { status := stINTERNAL, cls := 7, source := 0, unit := s.pkgUnit, peer := none, job := 0, detail := [] }
  | .fail, none =>
    (s.setFld secB SEC_STATUS.PUF pufFAIL).log
      { status := stINTERNAL, cls := 7, source := 0, unit := s.pkgUnit, peer := none, job := 0, detail := [] }

/-- What a cold reset leaves before the boot ROM runs (R543): the journal die, the far tier's devices, the readings of the
sensors, and what the package has sent to the host. -/
def State.coldState (s : State) (straps : Straps) : State :=
  let far := fun a => decide (farAddr 0 ≤ a)
  { State.reset with
    pending := s.pending
    freeCount := s.freeCount
    mem := clearBytes s.mem fun a => !far a
    poison := s.poison.filter fun x => far (x * 64)
    dies := s.dies.map fun e => (e.1, { DieX.init with sensors := e.2.sensors })
    procs := s.procs.map fun e => (e.1, { ProcX.init with sensors := e.2.sensors })
    sec := { SecX.init with enrolled := s.sec.enrolled, slots := if straps.secClear then [] else s.sec.slots, minSvn := s.sec.minSvn }
    pwr := { PwrX.init with stackTemp := s.pwr.stackTemp, mainEn := true }
    jrn := { s.jrn with buf := [], lost := 0, jobRecords := [] }
    host := { HostX.init with msix := s.host.msix, answers := s.host.answers, aer := s.host.aer }
    straps := straps }

/-- COLD_RESET: a save in progress ends first (R510); straps, PUF, FC and the host port (R535, R537). -/
def State.coldReset (s : State) (straps : Straps) (puf : PufOutcome) : State :=
  let s := if s.pwr.slump.isSome then { s with jrn := s.jrn.sealSave } else s
  let s := s.coldState straps
  let s := s.setFld glpB GLP_PLACE.PLACE straps.place.toNat
  let s := (s.setFld glpB GLP_SHAPE.GROUPS_M1 straps.shapeG.toNat).setFld glpB GLP_SHAPE.NODES_M1 straps.shapeN.toNat
  let s := s.pufBoot puf
  let s := (s.setDomain domFC 0).setDomain domHost 0
  s.modChan 0x11 fun c => { c with session := some (standingSession 1 s.now) }

def execColdReset (straps : Straps) (puf : PufOutcome) (s : State) : Host.Outcome State Fault Refusal :=
  .next (s.coldReset straps puf)

/-! ### Firmware (R484-R486, R538-R540) -/

def storeAddr : Nat := controlAddr storeB

/-- The image in the firmware store. -/
def State.fwImage (s : State) : List Byte := readBytes s.mem storeAddr (min 0x1000000 (wordAt (readBytes s.mem storeAddr 12) 8))

/-- Check 1 of R485; padding counts as reserved. -/
def fwFormat (img : List Byte) : Bool :=
  let w := fun i => wordAt img (4 * i)
  w 0 == 0x4657494D && w 1 == 0x00010040 && decide (256 ≤ w 2) && decide (w 2 ≤ 0x1000000) && img.length == w 2 &&
    bitsOf (w 3) 15 1 == 0 && bitsOf (w 6) 31 8 == 0 && w 7 == 0 && bitsOf (w 22) 31 8 == 0 && bitsOf (w 51) 31 16 == 0 &&
    (List.range' 52 12).all fun i => w i == 0

/-- The outcome of the checks of R485 as FW_STATUS.CODE shows it: 2 where every check passes. -/
def fwCheck (img : List Byte) (minSvn : Nat) : Nat :=
  let pub := (img.drop 32).take 57
  if !fwFormat img then 3
  else if wordAt img 24 % 256 ≠ 0xA1 then 7
  else if shake256 pub 32 ≠ (List.range 32).map Config.cleuloKeyDigest then 4
  else if !edVerify pub (shake256 (img.take 32 ++ img.drop 256) 64) ((img.drop 92).take 114) then 5
  else if wordAt img 12 / 65536 < minSvn then 6
  else 2

/-- GO starts verification; ignored after an image has started (R485). -/
def State.fwGo (s : State) : State := if s.sec.fwRunning then s else s.setFld fwB FW_STATUS.CODE 1

def execFwGo (s : State) : Host.Outcome State Fault Refusal := .next s.fwGo

/-- The newest save record is taken (R540). -/
def State.takeSave (s : State) : State :=
  match s.jrn.newest with
  | none => s
  | some r =>
    let s := (s.setReg (pwrB + PWR_SAVE_SEQ.off) (BitVec.ofNat 32 r.saveSeq)).setReg64 (pwrB + PWR_SAVE_GRAIN_LO.off) r.grain
    if s.jrn.reported < r.saveSeq then
      ({ s with jrn := { s.jrn.persist r.entries with jobRecords := r.jobs, reported := r.saveSeq } }).pwrEvent
        PWR_EVENTS.SLUMP_SAVED
    else s

/-- Raises a domain at boot (R538): OFF or RETENTION to ON with its initialisation. -/
def State.bootRaise (s : State) (n : Nat) : State :=
  let old := s.domState n
  ((s.setDomain n 0).enterDomain n old 0)

/-- The far-tier devices that enumeration finds: link and size in GiB, at most 8 TiB in all (R296, R297). -/
def State.farDevices (s : State) : List (Nat × Nat) :=
  (List.range (farLinks s.straps)).filterMap fun d => if Config.farCapacity d = 0 then none else some (d, Config.farCapacity d)

/-- Programs and commits every present device, one after another from the lowest base. -/
def State.enumerateFar (s : State) : State :=
  (s.farDevices.foldl (fun (x : State × Nat) e =>
    let size := min e.2 (0x2000 - x.2)
    let b := ftB + FT_DEV.stride * e.1
    if size = 0 then x
    else
      let s := (x.1.setFld b FT_DEV_STATUS.PRESENT 1).setReg (b + FT_DEV.off) (BitVec.ofNat 32 (2 ^ 31 + x.2 * 2 ^ 15 + size))
      (s, x.2 + size)) (s, 0)).1

/-- The domains that the firmware raises: M, S, C, K, G and CXL, as the straps let it (R536, R538). -/
def State.bootDomains (s : State) : List Nat :=
  (List.range' 0x20 12 ++ List.range' 0x10 12 ++ List.range 12 ++ List.range' 0x30 32 ++ List.range' 0x58 9 ++ [domCXL]).filter
    fun n => !s.keptOff n

/-- The image starts (R538). -/
def State.startFirmware (s : State) : State :=
  let s := if s.placeOk s.place then s.setFld glpB GLP_PLACE.VALID 1
    else (s.setFld glpB GLP_PLACE.VALID 0).log
      { status := stINTERNAL, cls := 6, source := 0, unit := s.pkgUnit, peer := none, job := 0, detail := [] }
  let s := s.takeSave
  let s := s.bootDomains.foldl (fun s n => s.bootRaise n) s
  let s := if s.domOn domCXL then s.enumerateFar else s
  let s := s.setFld fwB FW_STATUS.CODE 2
  let s := { s with sec := { s.sec with fwRunning := true } }
  (List.range 12).foldl (fun s d =>
    s.modChan (0x20 + d) fun c => { c with session := some (standingSession 2 s.now) }) s

/-- Verification ends (R485, R486). -/
def State.verifyDone (s : State) : State :=
  if s.fld fwB FW_STATUS.CODE ≠ 1 then s
  else
    let img := s.fwImage
    let code := fwCheck img s.sec.minSvn
    if code ≠ 2 then s.setFld fwB FW_STATUS.CODE code
    else
      let svn := wordAt img 12 / 65536
      let s := s.setFld fwB FW_STATUS.SVN svn
      let min := if bitOf (wordAt img 12) 0 then svn else s.sec.minSvn
      ({ s with sec := { s.sec with minSvn := min, fwDigest := shake256 img 32 } }).startFirmware

def execFirmwareVerifyDone (s : State) : Host.Outcome State Fault Refusal := .next s.verifyDone

/-! ### Resets (R542-R547) -/

/-- A reset of a type (and die) has come due. -/
def State.resetDue (s : State) (ty die : Nat) : Bool :=
  s.pkc.resets.any fun r => r.1 == ty && r.2.1 == die && decide (r.2.2 ≤ s.now)

/-- Channels of the package (R449). -/
def allChans : List Nat := (List.range 0x180).filter chanExists

/-- Closes a channel: queues, commands and session (R544). -/
def State.closeChans (s : State) (ns : List Nat) : State :=
  (ns.filter fun n => (mapGet? s.chans n).isSome).foldl (fun s n => s.flushChannel n) s

/-- WARM (R543, R545): everything but AON and M; commands and sessions end; the image restarts where the store still holds
it. -/
def State.warmReset (s : State) : State :=
  let s := s.closeChans allChans
  let s := { s with pkc := PkcX.init, strata := [], chans := s.chans.map fun (e : Nat × ChanX) => (e.1, { e.2 with subs := [] }) }
  let s := s.dropDomains true
  let s := allChans.foldl (fun s n => s.setReg (chB n + CH_NAK_COUNT.off) 0) s
  let s := s.setReg (mgtB + MGT_DROP_COUNT.off) 0
  let s : State := { s with pwr := { s.pwr with slump := none, tripped := false, saved := false, mainEn := true } }
  let s := (s.setDomain domFC 0).setDomain domHost 0
  let s : State := if s.tbState = tbLOCKED ∧ !s.tbGM then (s.setFld tbB TB_STATUS.STATE tbHOLDOVER).tbEvent TB_EVENTS.HOLDOVER else s
  if s.sec.fwRunning ∧ shake256 s.fwImage 32 = s.sec.fwDigest then s.startFirmware
  else ({ s with sec := { s.sec with fwRunning := false } }).setReg (fwB + FW_STATUS.off) 0

def execWarmReset (s : State) : Host.Outcome State Fault Refusal :=
  .next (if s.resetDue 1 0 && !s.jtag.heldReset then s.warmReset else s)

/-- HOST (R543): the host port's registers and counters, and channels 0x000-0x010. -/
def State.hostReset (s : State) : State :=
  let s := s.closeChans (List.range 0x11)
  let s := s.resetRegs fun a => decide (hstB ≤ a) && decide (a < hstB + 0x1000)
  { s with host := { s.host with held := [], memEnable := [] } }

def execHostReset (s : State) : Host.Outcome State Fault Refusal := .next s.hostReset

/-- DIE (R543, R547): Ck with Mk and Sk kept in RETENTION, or every K domain of a processor die. -/
def State.dieReset (s : State) (d : Nat) : State :=
  let s := { s with pkc := { s.pkc with resets := s.pkc.resets.filter fun r => !(r.1 == 2 && r.2.1 == d && decide (r.2.2 ≤ s.now)) } }
  if d < 12 then ((s.abortDie d).closeChans [0x20 + d]).clearC d
  else
    let cs := List.range' (64 * (d - 12)) 64
    let s := s.closeChans (cs.map fun c => 0x80 + c)
    let s := s.closeChans (cs.map fun c => 0x100 + c)
    ((List.range 16).foldl (fun s j => s.clearCluster (64 * (d - 12) + 4 * j)) s).clearK00 d

def execDieReset (die : Fin 14) (s : State) : Host.Outcome State Fault Refusal :=
  .next (if s.resetDue 2 die then s.dieReset die else s)

/-- A thermal trip holds until every sensor reads below 85 °C (R508). -/
def State.tripHolds (s : State) : Bool :=
  s.pwr.tripped &&
    (((List.range 14).any fun d => (s.sensorsOf d).any fun r => decide (85 ≤ r.2.1)) ||
      s.pwr.stackTemp.any fun r => decide (85 ≤ r.2))

/-- RESET (R546, R547): the reply comes at once and carries the grain at which the reset begins. -/
def bodyReset (s : State) (h : CmdHdr) (ps : List Word64) : State :=
  let w := (nthD (0 : Word64) ps 0).toNat
  let ty := w % 4
  let die := if ty = 2 then bitsOf w 11 8 else 0
  let lowered := if ty = 2 then (if die < 12 then [die] else []) else List.range 12
  if ty = 3 ∨ 13 < die then s.finish h 0x0504 stDENIED []
  else if s.tripHolds || lowered.any fun k => s.memOpen k || s.scrOpen k then s.finish h 0x0504 stBUSY []
  else
    let at_ := if h.launch.toNat = 0 then s.now + 2000 else max s.now h.launch.toNat
    ({ s with pkc := { s.pkc with resets := s.pkc.resets ++ [(ty, die, at_)] } }).finishAt h 0x0504 stOK [] at_

def execReset (h : CmdHdr) (ps : List Word64) (s : State) : Host.Outcome State Fault Refusal :=
  .next (s.command h 0x0504 ps bodyReset)

end Sys2Proof.Machine
end

