-- ==== Sys2Proof/Machine/Router.lean ====
section
/-! DEFINITION. The router of the fabric die (R317-R332, R334-R337): the drop of malformed packets, minimal next hops,
diversion and forced detours, the output queues with in-network combining (R361, R363), congestion estimates, and the
check of TC7 frames where they are taken. -/

namespace Sys2Proof.Machine

/-! ### Route tables -/

def State.grpRoute (s : State) (n : Nat) : Nat := s.reg64 (glpB + 0x1000 + 8 * n)
def State.sysNodes (s : State) (h : Nat) : Nat := (s.reg (glpB + 0x1400 + 16 * h)).toNat
def State.sysLocal (s : State) (h : Nat) : Nat := s.reg64 (glpB + 0x1408 + 16 * h)
def State.grpReach (s : State) (n : Nat) : Nat := (s.reg (glpB + 0x1C00 + 4 * n)).toNat

/-- A next hop: ports that can carry it, its level, and the node a group-plane hop reaches. -/
structure Hop where
  ports : List Nat
  level : Nat
  node : Nat
  deriving DecidableEq, Repr

def State.upPorts (s : State) (ps : List Nat) : List Nat := ps.filter fun p => s.portState p == psUP

/-- The mesh ports in UP to package `q` of the own node (R302). -/
def State.meshPorts (s : State) (q : Nat) : List Nat :=
  let own := s.place % 8
  if q = own then [] else s.upPorts (List.range' (4 * peerIndex own q) 4)

/-- The own ports in UP that a mask of R321 names. -/
def State.maskPorts (s : State) (m : Nat) : List Nat :=
  s.upPorts (((List.range 8).filter fun i => bitOf m (8 * (s.place % 8) + i)).map fun i => 28 + i)

/-- Packages of a mask. -/
def maskPackages (m : Nat) : List Nat := (List.range 8).filter fun q => bitsOf m (8 * q + 7) (8 * q) != 0

/-- A mask without the own package's bits: ports that left UP leave every route (R329). -/
def State.maskOthers (s : State) (m : Nat) : List Nat := (maskPackages m).filter fun q => q != s.place % 8

/-- The latest advertised estimate of a place for a level (R322); 0 before any. -/
def State.advert (s : State) (place level : Nat) : Nat :=
  let a := mapGet (0, 0, 0) s.fabric.adverts place
  if level = 0 then a.1 else if level = 1 then a.2.1 else a.2.2

/-- The candidate with the lowest key, the first on a tie. -/
def lowest (key : Nat → Nat) : List Nat → Option Nat
  | [] => none
  | a :: r =>
    match lowest key r with
    | none => some a
    | some b => if key b < key a then some b else some a

def State.nodePlace (s : State) (q : Nat) : Nat := s.place / 8 * 8 + q

/-- A mesh hop toward one of the packages that own a port of the next level (R322). -/
def State.towardPackages (s : State) (qs : List Nat) (level : Nat) : Option Hop :=
  match lowest (fun q => s.advert (s.nodePlace q) level) (qs.filter fun q => s.meshPorts q != []) with
  | none => none
  | some q => some ⟨s.meshPorts q, 0, 0⟩

/-- The hop toward node `n` of the own group (R321). -/
def State.nodeHop (s : State) (n : Nat) : Option Hop :=
  let m := s.grpRoute n
  let own := s.maskPorts m
  if own ≠ [] then some ⟨own, 1, n⟩ else s.towardPackages (s.maskOthers m) 1

/-- What is known of the group estimate of a node of the own group: the lowest that one of its packages advertises. -/
def State.nodeAdvert (s : State) (n : Nat) : Nat :=
  let base := s.place / 256 * 256 + n * 8
  let known := s.fabric.adverts.filter fun e => decide (base ≤ e.1) && decide (e.1 < base + 8)
  match known with
  | [] => 0
  | e :: r => r.foldl (fun m e => min m e.2.2.1) e.2.2.1

/-- The minimal next hop for a place other than the own (R321). -/
def State.minimalHop (s : State) (t : Nat) : Option Hop :=
  let own := s.place
  if t / 256 ≠ own / 256 then
    let m := s.sysLocal (t / 256)
    let sys := s.maskPorts m
    if sys ≠ [] then some ⟨sys, 2, 0⟩
    else if s.maskOthers m ≠ [] then s.towardPackages (s.maskOthers m) 2
    else
      let mask := s.sysNodes (t / 256)
      let ns := (List.range 32).filter fun n => bitOf mask n && n != own / 8 % 32 && (s.nodeHop n).isSome
      match lowest s.nodeAdvert ns with
      | none => none
      | some n => s.nodeHop n
  else if t / 8 ≠ own / 8 then s.nodeHop (t / 8 % 32)
  else
    let ps := s.meshPorts (t % 8)
    if ps = [] then none else some ⟨ps, 0, 0⟩

/-! ### Diversion (R325-R329) -/

def State.congEst (s : State) (level : Nat) : Nat :=
  if level = 0 then s.fld glpB GLP_CONG.NODE else if level = 1 then s.fld glpB GLP_CONG.GROUP else s.fld glpB GLP_CONG.SYSTEM

/-- Diversion targets of a saturated level, each with the estimate that R327 compares: place and estimate. -/
def State.detours (s : State) (level t node : Nat) : List (Nat × Nat) :=
  let own := s.place
  let high := s.fld glpB GLP_ROUTE_CFG.HIGH
  let low := s.fld glpB GLP_ROUTE_CFG.LOW
  let best := fun (es : List Nat) => es.foldl min 255
  let ownFits := fun m lvl => if s.maskPorts m != [] && decide (s.congEst lvl ≤ low) then [s.congEst lvl] else []
  let fits := fun m lvl =>
    ownFits m lvl ++ ((s.maskOthers m).map fun q => s.advert (s.nodePlace q) lvl).filter fun e => decide (e ≤ low)
  if level = 0 then
    ((List.range 8).filter fun q =>
      q != own % 8 && s.nodePlace q != t && s.meshPorts q != [] &&
        decide (mapGet 0 s.fabric.peerEst (peerIndex (own % 8) q) < high) && decide (s.advert (s.nodePlace q) 0 ≤ low)).map fun q =>
      (s.nodePlace q, s.advert (s.nodePlace q) 0)
  else if level = 1 then
    ((List.range 32).filter fun c =>
      c != own / 8 % 32 && c != node && s.placeOk (own / 256 * 256 + c * 8) && bitOf (s.grpReach c) node &&
        fits (s.grpRoute c) 1 != []).map fun c =>
      (own / 256 * 256 + c * 8, best (fits (s.grpRoute c) 1))
  else
    let es := fun h =>
      fits (s.sysLocal h) 2 ++
        (s.fabric.adverts.filter fun e => e.1 / 256 == own / 256 && bitOf (s.sysNodes h) (e.1 / 8 % 32) &&
          decide (e.2.2.2 ≤ low)).map fun e => e.2.2.2
    ((List.range 128).filter fun h =>
      h != own / 256 && h != t / 256 && s.placeOk (h * 256) && es h != []).map fun h => (h * 256, best (es h))

/-- The target of R327: the lowest estimate, then the lowest place; one that no hop leads to is none. -/
def State.detourFor (s : State) (level t node : Nat) : Option Nat :=
  let ds := (s.detours level t node).filter fun d => (s.minimalHop d.1).isSome
  lowest (fun p => ((ds.find? fun d => d.1 == p).map fun d => d.2).getD 255) (ds.map fun d => d.1)

/-- The levels whose hop a packet without a minimal hop has lost, with the node that its group-plane hop reaches (R329): the
next level's where the tables name ports of the own package, the mesh where they name another's. -/
def State.lostLevels (s : State) (t : Nat) : List (Nat × Nat) :=
  let own := s.place
  let ofMask := fun m level node =>
    (if (maskPackages m).contains (own % 8) then [(level, node)] else []) ++ (if s.maskOthers m ≠ [] then [(0, node)] else [])
  if t / 256 ≠ own / 256 then
    let m := s.sysLocal (t / 256)
    if m ≠ 0 then ofMask m 2 0
    else ((List.range 32).filter fun n => bitOf (s.sysNodes (t / 256)) n && n != own / 8 % 32).flatMap fun n =>
      (1, n) :: ofMask (s.grpRoute n) 1 n
  else if t / 8 ≠ own / 8 then (1, t / 8 % 32) :: ofMask (s.grpRoute (t / 8 % 32)) 1 (t / 8 % 32)
  else [(0, 0)]

/-- The traffic classes that R326 diverts. -/
def diverts (tc : Nat) : Bool := tc == 0 || tc == 1 || tc == 2 || tc == 3 || tc == 5

/-- A packet with its next hop: minimal, diverted (R326), or on a forced detour (R329); none where R332 applies. -/
def State.route (s : State) (p : Packet) : State × Option (Packet × Hop) :=
  let t := if p.detour && p.via != s.place then p.via else p.dst
  let go := fun (s : State) (v : Nat) => match s.minimalHop v with
    | some h => (s, some ({ p with detour := true, via := v }, h))
    | none => (s, none)
  match s.minimalHop t with
  | some h =>
    let wants := (s.jobMode p.job.toNat).2 && diverts p.tc && !p.detour && decide (s.fld glpB GLP_ROUTE_CFG.HIGH ≤ s.congEst h.level)
    match (if wants then s.detourFor h.level t h.node else none) with
    | some v =>
      let f := if h.level = 0 then GLP_DIVERT_NODE.COUNT else if h.level = 1 then GLP_DIVERT_GROUP.COUNT else GLP_DIVERT_SYSTEM.COUNT
      go (s.bump glpB f) v
    | none => (s, some (p, h))
  | none =>
    let lost := if !p.detour && diverts p.tc then s.lostLevels t else []
    match (lost.filterMap fun l => s.detourFor l.1 t l.2).head? with
    | some v => go (s.bump glpB GLP_FORCED.COUNT) v
    | none => (s, none)

/-! ### Output queues and combining (R322, R361, R363) -/

/-- Bytes of a packet on the wire. -/
def packetBytes (p : Packet) : Nat := 32 + (p.length + 3) / 4 * 4

def State.queuedBytes (s : State) (port tc cls : Nat) : Nat :=
  (s.port port).outQ.foldl (fun n q => if q.tc = tc ∧ hopClass q = cls then n + packetBytes q else n) 0

/-- The component entries of an ATOMIC or COMBINED packet (R361). -/
def componentsOf (p : Packet) : List (List Byte) :=
  if p.kind = 0x07 then chunksOf 16 256 p.payload
  else [toBytes (p.src * 2 ^ 17 + p.seq * 2) 4 ++ toBytes 0 4 ++ fitBytes 8 p.payload]

def combAop (p : Packet) : Nat := bitsOf p.word7.toNat 28 21

/-- The packet may merge at this die: COMBINE without FLAG, a non-fetching atomic, floating-point only for a RELAXED job. -/
def State.combines (s : State) (p : Packet) : Bool :=
  (p.kind == 0x05 || p.kind == 0x07) && !p.member && bitOf p.word7.toNat 29 && !bitOf p.word7.toNat 31 &&
    decide (0x10 ≤ combAop p) && decide (combAop p ≤ 0x1A) &&
    (decide (combAop p < 0x18) || (s.jobMode p.job.toNat).1)

/-- Two packets agree in what R361 compares. -/
def mergeable (p q : Packet) : Bool :=
  p.tc == q.tc && p.hops == q.hops && p.dst == q.dst && p.detour == q.detour && p.via == q.via && decide (p.job = q.job) &&
    decide (bitsOf p.word7.toNat 31 20 = bitsOf q.word7.toNat 31 20) && p.space == q.space && p.addr == q.addr &&
    decide ((componentsOf p).length + (componentsOf q).length ≤ 256)

/-- A COMBINED packet formed here, whose source is this fabric die (R280, R361). -/
def State.formedHere (s : State) (q : Packet) : Bool := q.kind == 0x07 && q.src == s.place

/-- The merge of two packets. The sender's fields name the combining fabric die (R280; DESIGN CHOICE, log entry 40: the spec says
only whom the components name). -/
def State.mergePackets (s : State) (q p : Packet) : Packet :=
  let cs := componentsOf q ++ componentsOf p
  { q with kind := 0x07, length := 16 * cs.length, payload := cs.flatMap id, src := s.place, srcDie := 14, srcUnit := 0 }

def replaceFirst (q r : Packet) : List Packet → List Packet
  | [] => []
  | x :: xs => if x = q then r :: xs else x :: replaceFirst q r xs

/-- Puts a packet in a port's output queue, HOPS counted (R323), merged with one that waits (R361), and lets the port send. -/
def State.outPort (s : State) (port : Nat) (p : Packet) : State :=
  let p := { p with hops := p.hops + 1 }
  let s := match (if s.combines p then (s.port port).outQ.find? fun q => s.combines q && mergeable q p else none) with
    | some q =>
      let first := !s.formedHere q
      let s := s.modPort port fun x => { x with outQ := replaceFirst q (s.mergePackets q p) x.outQ }
      let s := s.bump rmtB RMT_COMBINED.COUNT
      if first ∧ 0x18 ≤ combAop p then (s.bump rmtB RMT_COMBINE_FLOAT.COUNT).drift 14 3 else s
    | none => s.modPort port fun x => { x with outQ := x.outQ ++ [p] }
  s.portSend port

/-! ### Malformed packets (R312, R320, R334, R335) -/

/-- KIND exists and its class is legal (R320, R342, R404, R425, R468). -/
def kindLegal (tc kind : Nat) : Bool :=
  if kind < 0x40 then decide (1 ≤ kind) && decide (kind ≤ 9) && (tc == 0 || tc == 1 || tc == 2)
  else if kind < 0x60 then tc == 3
  else if kind = 0x60 then tc == 5
  else if 0x70 ≤ kind ∧ kind ≤ 0x72 then tc == 4
  else if 0x78 ≤ kind ∧ kind ≤ 0x7C then tc == 7
  else kind == 0x80 && tc == 7

/-- The fields of word 7 and of the payload that no layout uses are zero (R342, R361, R404). -/
def reservedLegal (p : Packet) : Bool :=
  let w := p.word7.toNat
  if p.kind = 0x01 then bitsOf w 31 13 == 0
  else if p.kind = 0x03 ∨ p.kind = 0x04 ∨ p.kind = 0x05 then bitsOf w 19 0 == 0
  else if p.kind = 0x07 then
    bitsOf w 19 0 == 0 && (chunksOf 16 256 p.payload).all fun c => leNat (c.take 4) % 2 == 0 && leNat ((c.drop 4).take 4) == 0
  else if p.kind = 0x08 ∨ p.kind = 0x09 then (chunksOf 8 512 p.payload).all fun c => bitsOf (leNat c) 31 0 == 0
  else if 0x70 ≤ p.kind ∧ p.kind ≤ 0x72 then
    bitsOf (leNat ((p.payload.drop 8).take 4)) 6 0 == 0 && bitsOf (leNat ((p.payload.drop 12).take 4)) 16 0 == 0
  else true

def State.packetLegal (s : State) (p : Packet) (overrun : Bool) : Bool :=
  kindLegal p.tc p.kind && !p.rsv && reservedLegal p && decide (p.length ≤ 4096) && !overrun && s.placeOk p.dst &&
    s.placeOk p.via && (p.space == 0 || p.space == 8) && p.tc != 6 && (p.tc != 4 || p.dst == s.place)

/-- A dropped packet in the journal: the first 32 bytes of its header (R549). -/
def State.dropLog (s : State) (status : Nat) (p : Packet) : State :=
  s.log { status := status, cls := 5, source := 6, unit := s.dieUnit 14, peer := some p.src, job := p.job.toNat,
          detail := packetHead p false }

/-- A port drops a malformed packet (R334), and is quarantined beyond its limit within 1 ms (R335). -/
def State.malformed (s : State) (port : Nat) (p : Packet) : State :=
  let x := s.port port
  let s := s.bump (prtB port) PRT_MALFORMED.COUNT
  let s := if x.malNoted then s else s.dropLog stOK p
  let fresh := decide (x.malStart + 200000 ≤ s.now) || x.malCount == 0
  let n := if fresh then 1 else x.malCount + 1
  let s := s.modPort port fun x => { x with malNoted := true, malCount := n, malStart := if fresh then s.now else x.malStart }
  if s.fld (prtB port) PRT_MAL_LIMIT.LIMIT < n ∧ s.portState port = psUP then s.quarantine port else s

/-! ### Delivery and loss (R317, R318, R332) -/

/-- The member routing table entry of a member ID: VALID, JOB_TAG, PLACE, DIE (R317). -/
def State.memberEntryOf (s : State) (id : Nat) : Nat × Nat × Nat × Nat :=
  let a := glpB + 0x100000 + 8 * (id % 2 ^ 19)
  let w := (s.reg a).toNat
  (bitsOf w 31 31, bitsOf w 30 18, bitsOf w 14 0, bitsOf (s.reg (a + 4)).toNat 3 0)

/-- R317: the place and die of a member ID. -/
def State.resolveMember (s : State) (id : Nat) : Option (Nat × Nat) :=
  let e := s.memberEntryOf id
  if e.1 = 1 ∧ e.2.1 = id / 2 ^ 19 then some e.2.2 else none

/-- Requests (R342, R425) as (source, SEQ) pairs that an answer names. -/
def requestSources (p : Packet) : List (Nat × Nat) :=
  if p.kind = 0x07 then (chunksOf 16 256 p.payload).map fun c => (bitsOf (leNat (c.take 4)) 31 17, bitsOf (leNat (c.take 4)) 16 1)
  else if p.kind = 0x01 ∨ p.kind = 0x03 ∨ p.kind = 0x04 ∨ p.kind = 0x05 ∨ p.kind = 0x60 then [(p.src, p.seq)]
  else []

/-- Answers the sender of a dropped TC7 frame in the frames of R468: a member command's member replies with the status, here or
over the fabric, and a management access of another place gets its MGMT_RESP. -/
def State.answerFrame (s : State) (p : Packet) (status : Nat) : State :=
  let b := frameBody p
  let w := fun i => leNat ((b.drop (4 * i)).take 4)
  if p.kind = 0x78 then
    if p.src = s.place then
      s.memberDone (bitsOf (w 3) 15 0) (BitVec.ofNat 32 (w 1)) (w 0 / 65536) (w 2) status [] s.now
    else
      s.sendMgmt 0x79 p.src p.job 0 0 0 (wordBytes (cmdHead (w 0 / 65536) (flagREPLY + flagMEMBER) (BitVec.ofNat 32 (w 1))
        (BitVec.ofNat 32 (w 2)) 0 (bitsOf (w 3) 15 0) s.now status))
  else if (p.kind = 0x7A ∨ p.kind = 0x7B) ∧ p.src ≠ s.place then
    s.sendMgmt 0x7C p.src p.job p.space p.addr (BitVec.ofNat 32 status) []
  else s

/-- Answers the source of a dropped packet (R332): an own request completes, another place gets an acknowledgement, the sender
of a frame an answer in the frames of R468. The messages of collectives have no packet form in the spec (log entry 22). -/
def State.answerSource (s : State) (p : Packet) (status : Nat) : State :=
  let s := s.answerFrame p status
  (requestSources p).foldl (fun s e =>
    if e.1 = s.place then
      match s.fabric.sent.find? fun x => x.dst == p.dst && x.seq == e.2 with
      | none => s
      | some x =>
        (({ s with fabric := { s.fabric with sent := s.fabric.sent.filter fun y => !(y.dst == p.dst && y.seq == e.2) } }).landReq
          x.req ⟨status, [], false⟩).goesOn x.req.land
    else { s with fabric := { s.fabric with acks := s.fabric.acks ++ [(e.1, e.2, status, s.now)] } }) s

/-- The die that a packet's address names, where its KIND carries an address of memory (R274, R319). -/
def packetDie (p : Packet) : Option Nat :=
  if requestSources p = [] ∨ p.space ≠ 0 then none
  else
    match homeOf p.addr with
    | .stack k _ => some k
    | .scratch d _ => some d
    | .far _ => some 14
    | _ => none

/-- A packet at its place (R318, R321): a member ID whose entry does not name this place and the packet's die is refused. The
header holds no destination die, so the die is compared where ADDR names one (log entry 22). -/
def State.deliver (s : State) (p : Packet) : State :=
  let ok := !p.member || (match s.resolveMember p.word7.toNat with
    | some e => e.1 == s.place && (match packetDie p with
      | some d => e.2 == d
      | none => true)
    | none => false)
  if ok then { s with fabric := { s.fabric with delivered := s.fabric.delivered ++ [p] } }
  else (s.bump glpB GLP_UNREACH.COUNT).answerSource p stBAD_UNIT

/-- The target place of a packet is the own one (R321). -/
def State.arrived (s : State) (p : Packet) : Bool := (if p.detour && p.via != s.place then p.via else p.dst) == s.place

/-- Sends a packet on its next hop, or answers that there is none (R322, R332). -/
def State.sendPacket (s : State) (p : Packet) : State :=
  let r := s.route p
  match r.2 with
  | none => (r.1.bump glpB GLP_UNREACH.COUNT).answerSource p stMEMBER_LOST
  | some (q, h) =>
    match lowest (fun port => r.1.queuedBytes port q.tc q.hops) h.ports with
    | none => r.1
    | some port => r.1.outPort port q

/-- The router handles one packet, from a port or from this package (R321-R332). -/
def State.forward (s : State) (inp : Option Nat) (p : Packet) (overrun : Bool) : State :=
  match inp with
  | some port =>
    let k := creditKey p.tc (hopClass p)
    let s := s.modPort port fun x =>
      { x with rxPkts := dropFirst (· == (p, overrun)) x.rxPkts,
               freed := mapPut x.freed k ((mapGet 0 x.freed k + packetUnits p) % 65536) }
    if !s.packetLegal p overrun then s.malformed port p
    else if s.arrived p then s.deliver { p with port := some port }
    else if p.hops = 14 then s.malformed port p
    else s.sendPacket p
  | none =>
    let s := { s with fabric := { s.fabric with inject := dropFirst (· == p) s.fabric.inject } }
    if s.arrived p then s.deliver p else s.sendPacket p

def execPacketForward (inp : Option (Fin 36)) (pkt : Packet) (overrun : Bool) (s : State) : Host.Outcome State Fault Refusal :=
  .next (s.forward (inp.map fun p => p.val) pkt overrun)

/-- One step of an estimate (R325). -/
def congStep (est sample : Nat) : Nat := ((est : Int) + ((sample : Int) - est) / 8).toNat

/-- The samples of the three levels, and those of the seven mesh port groups that R326 asks about (log entry 22). -/
def State.sampleCong (s : State) (node group system : Nat) (peers : List Nat) : State :=
  let f := fun (s : State) fld x => s.setFld glpB fld (congStep (s.fld glpB fld) x)
  let s := f (f (f s GLP_CONG.NODE node) GLP_CONG.GROUP group) GLP_CONG.SYSTEM system
  { s with fabric := { s.fabric with peerEst :=
    (List.zip (List.range 7) peers).foldl (fun m e => mapPut m e.1 (congStep (mapGet 0 m e.1) e.2)) s.fabric.peerEst } }

def execCongSample (node group system : Byte) (peers : List Byte) (s : State) : Host.Outcome State Fault Refusal :=
  .next (s.sampleCong node.toNat group.toNat system.toNat (peers.map fun b => b.toNat))

/-! ### The window of a source place (R345, R346) -/

def State.window (s : State) (src : Nat) : Window := mapGet ⟨0, [], []⟩ s.fabric.windows src

def State.setWindow (s : State) (src : Nat) (w : Window) : State :=
  { s with fabric := { s.fabric with windows := mapPut s.fabric.windows src w } }

/-- Distance of a sequence number above the base. -/
def Window.dist (w : Window) (seq : Nat) : Nat := (seq + 65536 - w.base) % 65536

/-- Advances the base past set bits. -/
def Window.advance : Nat → Window → Window
  | 0, w => w
  | f + 1, w =>
    if w.bits.contains w.base then
      Window.advance f { w with base := (w.base + 1) % 65536, bits := w.bits.filter fun b => b != w.base }
    else w

/-- Sets the bit of a new request. -/
def Window.take (w : Window) (seq : Nat) : Window :=
  Window.advance 4097 { w with bits := seq :: w.bits, bad := mapErase w.bad seq }

/-- How R345 sorts an arriving request. -/
inductive Arrival where
  | new | duplicate | outside
  deriving DecidableEq, Repr

def Window.sort (w : Window) (seq : Nat) : Arrival :=
  let d := w.dist seq
  if d < 4096 then (if w.bits.contains seq then .duplicate else .new)
  else if 61440 ≤ d then .duplicate
  else .outside

/-- A lower sequence number of the source has not arrived (R351). -/
def Window.missingBelow (w : Window) (seq : Nat) : Bool :=
  let d := w.dist seq
  decide (d < 4096) && (List.range d).any fun e => !w.bits.contains ((w.base + e) % 65536)

/-! ### TC7 frames where they are taken (R337, R488) -/

/-- A TC7 frame without a tag that verifies, with SRC_PLACE and the port it came on (R337). -/
def State.frameLog (s : State) (p : Packet) : State :=
  s.log { status := stOK, cls := 5, source := 6, unit := s.dieUnit 14, peer := some p.src, job := p.job.toNat,
          detail := p.port.toList.map (BitVec.ofNat 32) }

/-- Takes a delivered frame of a KIND: a tag that fails is logged, a duplicate or one outside the window dropped. -/
def State.takeFrame (s : State) (kind : Nat) (p : Packet) (f : State → State) : State :=
  let s := { s with fabric := { s.fabric with delivered := dropFirst (· == p) s.fabric.delivered } }
  if p.kind ≠ kind ∨ p.tc ≠ 7 ∨ p.dst ≠ s.place then s
  else if !s.frameOk p then s.frameLog p
  else
    match (s.window p.src).sort p.seq with
    | .new => f (s.setWindow p.src ((s.window p.src).take p.seq))
    | .duplicate => s.bump rmtB RMT_DUP.COUNT
    | .outside => s.bump rmtB RMT_WINDOW_DROP.COUNT

/-- A ROUTE_NOTICE raises the path epoch (R330); destinations that it reports unreachable complete with MEMBER_LOST (R332,
R355). -/
def State.noticeIn (s : State) (places : List Nat) : State :=
  let s := s.raiseEpoch
  let s := { s with fabric := { s.fabric with unreachable := s.fabric.unreachable ++ places.filter fun p => !s.fabric.unreachable.contains p } }
  places.foldl (fun s p => s.loseDest p) s

def execRouteNotice (pkt : Packet) (unreachable : List Nat) (s : State) : Host.Outcome State Fault Refusal :=
  .next (s.takeFrame 0x80 pkt fun s => s.noticeIn unreachable)

/-- GLP_RESEND grains, 0 acting as 3,200. -/
def State.resendGrains (s : State) : Nat :=
  let g := s.fld glpB GLP_RESEND.GRAINS
  if g = 0 then 3200 else g

/-- A packet unacknowledged for GLP_RESEND grains declares its path lost (R331). -/
def State.resendDue (s : State) (dst seq : Nat) : State :=
  if s.fabric.sent.any fun x => x.dst == dst && x.seq == seq && decide (x.grain + s.resendGrains ≤ s.now) then
    s.resend fun d => d == dst
  else s

def execResendTimeout (dst : BitVec 15) (seq : BitVec 16) (s : State) : Host.Outcome State Fault Refusal :=
  .next (s.resendDue dst.toNat seq.toNat)

end Sys2Proof.Machine
end

