-- ==== Sys2Proof/Machine/Functions.lean ====
section
/-! DEFINITION. Correctly rounded functions of the vector engine (R138, R139): reciprocal square root, exponential,
logarithm, hyperbolic tangent, logistic function, sine and cosine. Each is evaluated in fixed point with 480
fraction bits, far beyond the distance of any B32 result from a rounding boundary, and every inexact value carries a
sticky bit below its last place, so that its rounding and its flags are those of the exact result. -/

namespace Sys2Proof.Machine

/-- Fraction bits of the fixed-point evaluation. -/
def fxP : Nat := 480
def fxOne : Int := 2 ^ fxP

/-- Product and quotient of fixed-point numbers. -/
def fxMul (a b : Int) : Int := a * b / fxOne
def fxDiv (a b : Int) : Int := a * fxOne / b

/-- Σ (−1)^i·s^i x^(2i+1)/(2i+1) for x = 1/n: the inverse tangent (`alt`) or hyperbolic tangent of 1/n. -/
def fxInvTan (n : Nat) (alt : Bool) : Nat → Nat → Int → Int → Int
  | 0, _, _, acc => acc
  | f + 1, i, pow, acc =>
    let term := pow / (2 * i + 1)
    fxInvTan n alt f (i + 1) (pow / (n * n)) (if alt && i % 2 == 1 then acc - term else acc + term)

/-- ln 2 = 2 artanh(1/3). -/
def fxLn2 : Int := 2 * fxInvTan 3 false 170 0 (fxOne / 3) 0
/-- π/2 = 8 arctan(1/5) − 2 arctan(1/239). -/
def fxHalfPi : Int := 8 * fxInvTan 5 true 110 0 (fxOne / 5) 0 - 2 * fxInvTan 239 true 40 0 (fxOne / 239) 0

/-- A finite value in fixed point; exact for every B32 value. -/
def fxOf (neg : Bool) (m : Nat) (e : Int) : Int := atExp neg m e (-(fxP : Int))

/-- A fixed-point result times 2^k as an inexact value. -/
def fxNum (z : Int) (k : Int) : Num :=
  .fin (decide (z < 0)) (2 * z.natAbs + 1) (k - fxP - 1)

/-- Σ x^i/i! from term number `i` on. -/
def fxExpSeries (x : Int) : Nat → Nat → Int → Int → Int
  | 0, _, _, acc => acc
  | f + 1, i, term, acc => fxExpSeries x f (i + 1) (fxMul term x / (i + 1)) (acc + term)

/-- e^x for a fixed-point x as mantissa and power of two. -/
def fxExp (x : Int) : Int × Int :=
  let k := x / fxLn2
  (fxExpSeries (x - k * fxLn2) 130 0 fxOne 0, k)

/-- Every argument beyond ±1024 gives the result of ±1024: a value beyond every format's range, or a limit. -/
def clampArg (neg : Bool) (m : Nat) (e : Int) : Bool × Nat × Int :=
  if (10 : Int) ≤ expOf m e then (neg, 1, 10) else (neg, m, e)

/-- Exact result of a function of a nonzero finite value, with INV. -/
def expFin (neg : Bool) (m : Nat) (e : Int) : Num :=
  let c := clampArg neg m e
  let r := fxExp (fxOf c.1 c.2.1 c.2.2)
  fxNum r.1 r.2

/-- Artanh series Σ z^(2i+1)/(2i+1). -/
def fxArtanh (z2 : Int) : Nat → Nat → Int → Int → Int
  | 0, _, _, acc => acc
  | f + 1, i, pow, acc => fxArtanh z2 f (i + 1) (fxMul pow z2) (acc + pow / (2 * i + 1))

/-- ln of m × 2^e, m not zero. -/
def logFin (m : Nat) (e : Int) : Num :=
  let k := expOf m e
  let y := fxOf false m (e - k)
  if y = fxOne ∧ k = 0 then .fin false 0 0
  else
    let z := fxDiv (y - fxOne) (y + fxOne)
    fxNum (2 * fxArtanh (fxMul z z) 170 0 z 0 + k * fxLn2) 0

/-- tanh x = (e^2x − 1)/(e^2x + 1). -/
def tanhFin (neg : Bool) (m : Nat) (e : Int) : Num :=
  if (7 : Int) ≤ expOf m e then fxNum (if neg then -fxOne else fxOne) 0
  else if expOf m e < -40 then
    -- below 2^-40 tanh x = x − x³/3 + … lies within 2^-80 of x, beneath every boundary
    .fin neg (m * 2 ^ 100 - 1) (e - 100)
  else
    let r := fxExp (2 * fxOf neg m e)
    let y := if 0 ≤ r.2 then r.1 * 2 ^ r.2.toNat else r.1 / 2 ^ (-r.2).toNat
    fxNum (fxDiv (y - fxOne) (y + fxOne)) 0

/-- 1/(1 + e^−x): for negative x as e^x/(1 + e^x). -/
def sigmFin (neg : Bool) (m : Nat) (e : Int) : Num :=
  let c := clampArg true m e
  let r := fxExp (fxOf true c.2.1 c.2.2)
  let y := r.1 / 2 ^ (-r.2).toNat
  if neg then fxNum (fxDiv r.1 (fxOne + y)) r.2 else fxNum (fxDiv fxOne (fxOne + y)) 0

/-- Σ (−1)^i x^(2i+o)/(2i+o)! with `x2` = x². -/
def fxTrigSeries (x2 : Int) : Nat → Nat → Int → Int → Int
  | 0, _, _, acc => acc
  | f + 1, i, term, acc => fxTrigSeries x2 f (i + 2) (-(fxMul term x2) / ((i + 1) * (i + 2))) (acc + term)

/-- sin (`cosine` false) or cos of a nonzero finite value, the argument reduced exactly. -/
def trigFin (cosine neg : Bool) (m : Nat) (e : Int) : Num :=
  if expOf m e < -40 then
    if cosine then .fin false (2 ^ 101 - 1) (-101) else .fin neg (m * 2 ^ 100 - 1) (e - 100)
  else
    let x := fxOf neg m e
    let q := (x + fxHalfPi / 2) / fxHalfPi
    let r := x - q * fxHalfPi
    let r2 := fxMul r r
    let k := (q + (if cosine then 1 else 0)) % 4
    let v := if k % 2 = 0 then fxTrigSeries r2 70 1 r 0 else fxTrigSeries r2 70 0 fxOne 0
    fxNum (if 2 ≤ k then -v else v) 0

/-- 1/√(m × 2^e) with a sticky bit. -/
def rsqrtFin (m : Nat) (e : Int) : Num :=
  let e' := if e % 2 = 0 then e else e - 1
  let m' := if e % 2 = 0 then m else 2 * m
  let b := 200 + Nat.log2 m'
  let r := isqrt (2 ^ (2 * b) / m')
  .fin false (2 * r + bit1 (r * r * m' != 2 ^ (2 * b))) (-(e' / 2) - b - 1)

/-- The functions of one operand: value and INV (R138, R139). -/
inductive Fn where
  | rsqrt | exp | log | tanh | sigm | sin | cos
  deriving DecidableEq, Repr

def evalFn (g : Fn) (x : Num) : Num × Bool :=
  match g, x with
  | _, .nan => (.nan, false)
  | .rsqrt, .inf neg => if neg then (.nan, true) else (.fin false 0 0, false)
  | .rsqrt, .fin neg 0 _ => (.inf neg, false)
  | .rsqrt, .fin neg m e => if neg then (.nan, true) else (rsqrtFin m e, false)
  | .exp, .inf neg => (if neg then .fin false 0 0 else .inf false, false)
  | .exp, .fin _ 0 _ => (.fin false 1 0, false)
  | .exp, .fin neg m e => (expFin neg m e, false)
  | .log, .inf neg => if neg then (.nan, true) else (.inf false, false)
  | .log, .fin _ 0 _ => (.inf true, false)
  | .log, .fin neg m e => if neg then (.nan, true) else (logFin m e, false)
  | .tanh, .inf neg => (.fin neg 1 0, false)
  | .tanh, .fin neg 0 e => (.fin neg 0 e, false)
  | .tanh, .fin neg m e => (tanhFin neg m e, false)
  | .sigm, .inf neg => (if neg then .fin false 0 0 else .fin false 1 0, false)
  | .sigm, .fin _ 0 _ => (.fin false 1 (-1), false)
  | .sigm, .fin neg m e => (sigmFin neg m e, false)
  | .sin, .inf _ => (.nan, true)
  | .sin, .fin neg 0 e => (.fin neg 0 e, false)
  | .sin, .fin neg m e => (trigFin false neg m e, false)
  | .cos, .inf _ => (.nan, true)
  | .cos, .fin _ 0 _ => (.fin false 1 0, false)
  | .cos, .fin neg m e => (trigFin true neg m e, false)

/-- The result code in `f`: RSQRT rounds once by ROUND; the others round to B32 by RNE and, for a narrower format,
once more by RNE (R138). -/
def fnCode (g : Fn) (f : Fmt) (mode : Rnd) (c : Nat) : Nat × Flags :=
  let y := evalFn g (decode f c)
  if g = .rsqrt then finish f mode y
  else
    let r := finish .b32 .rne y
    if f = .b32 then r
    else
      let q := convert f .rne false 0 (decode .b32 r.1)
      (q.1, r.2.or q.2)

end Sys2Proof.Machine
end

