-- ==== Sys2Proof/Machine/VectorPlan.lean ====
section
/-! DEFINITION. The plan of a vector program and its load checks: entry layout (R132), operand codes and formats
(R130-R137, R145), rates (R140), start cycles (R141) and the order of locations (R142). -/

namespace Sys2Proof.Machine

/-- What an instruction writes: a location key (0-5 regions, 16 + v scalars, 32 + a trackers, 100 scratch), how
its elements appear (once at the end, blocks of 32, or one by one), and for scratch the first bit and bits each. -/
structure VOut where
  key : Nat
  once : Bool
  block : Bool
  s : Nat
  rate : Nat
  l : Nat
  n : Nat
  last : Nat
  len : Nat
  base : Nat
  width : Nat
  deriving DecidableEq, Repr

/-- The cycle in which element `j` is written. -/
def VOut.at_ (o : VOut) (j : Nat) : Nat :=
  if o.once then o.last
  else if o.block then o.s + min (32 * j + 31) (o.len - 1) / o.rate + o.l
  else o.s + j / o.rate + o.l

/-- The least start of a reader at `rate` of elements 0 to n − 1 of the same location (R141). -/
def VOut.need (o : VOut) (n rate : Nat) : Nat :=
  if o.once then o.last + 1
  else (List.range (min n o.n)).foldl (fun m e => max m (o.at_ e + 1 - e / rate)) 0

/-- The same for a scratch reader whose item `e` covers `width` bits from `base + e × width` and is read with
element `e × per`; 0 where they do not meet. -/
def VOut.needBits (o : VOut) (base width n per rate : Nat) : Nat :=
  (List.range n).foldl (fun m e =>
    let lo := base + e * width
    let hi := min (lo + width) (o.base + o.n * o.width)
    if o.base < hi ∧ lo < o.base + o.n * o.width ∧ o.base ≤ hi - 1 then
      max m (o.at_ ((hi - 1 - o.base) / o.width) + 1 - e * per / rate)
    else m) 0

/-- Bits of a format in quarter bits. -/
def qbits (f : Fmt) : Nat := 4 * f.width

/-- Lane rate of a format (R140). -/
def laneRate (f : Fmt) : Nat :=
  match f with
  | .b64 => 32
  | .b32 | .i32 => 64
  | _ => 128

/-- The rate of R137 without port limits; the target of a CVT is what it stores (R136, R140). -/
def opRate (i : VInstr) : Nat :=
  let f := computeFmt i.code
  let r := laneRate f
  if 0x28 ≤ i.vop ∧ i.vop ≤ 0x2C then (if f = .b64 then 32 else 64)
  else if i.vop = 0x20 then min r (laneRate (i.storeFmt (decide (8 ≤ i.dst))))
  else if 0x10 ≤ i.vop ∧ i.vop ≤ 0x12 then (if f = .b64 then r / 4 else r / 2)
  else if 0x18 ≤ i.vop ∧ i.vop ≤ 0x1D then r / 2
  else r

/-- L of R137. -/
def opLatency (i : VInstr) (scaled : Bool) : Nat :=
  let wide := computeFmt i.code == .b64
  match i.vop with
  | 0x02 | 0x03 | 0x04 | 0x21 => 4
  | 0x05 => 5
  | 0x10 | 0x11 | 0x12 => if wide then 22 else 14
  | 0x18 | 0x19 | 0x1A | 0x1B | 0x1C | 0x1D => 12
  | 0x20 => if scaled then 7 else 5
  | 0x28 | 0x29 | 0x2A | 0x2B | 0x2C => if wide then 20 else 24
  | _ => 2

/-- Every VOP of R137 with the FMT codes that its column allows (R135, R137). -/
def vopKnown (vop code : Nat) : Bool :=
  let float := decide (code < 4)
  let any := float || code == 6 || code == 8
  let narrow := code == 1 || code == 2 || code == 3
  match vop with
  | 0x01 | 0x02 | 0x03 | 0x06 | 0x07 | 0x08 | 0x09 | 0x20 | 0x21 | 0x28 | 0x29 | 0x2A | 0x2B => any
  | 0x04 | 0x05 | 0x10 | 0x11 | 0x12 | 0x2C => float
  | 0x18 | 0x19 | 0x1A | 0x1B | 0x1C | 0x1D => narrow
  | 0x30 | 0x31 | 0x32 | 0x33 => decide (code ≤ 10)
  | _ => false

/-- Every value of `src` is a value of `dst` (R136). -/
def fmtWithin (src dst : Fmt) : Bool :=
  match dst with
  | .b64 => src != .q64
  | .b32 => src != .q64 && src != .b64 && src != .i32 && src != .i64
  | .bf16 => src == .bf16 || src == .e5m2 || src == .e4m3 || src == .e2m1 || src == .i8 || src == .i4 || src == .e8m0
  | .b16 => src == .b16 || src == .e5m2 || src == .e4m3 || src == .e2m1 || src == .i8 || src == .i4
  | .i32 => src == .i32 || src == .i8 || src == .i4
  | _ => src == dst

/-- The formats that block scales serve (R39). -/
def scalable (f : Fmt) : Bool := f == .e5m2 || f == .e4m3 || f == .e2m1

/-- Bytes of a vector buffer that hold elements (R130). -/
def vbBytes (r : Nat) : Nat := if r = 3 then 32640 else 32768

/-- Formats of the written parts of the vector buffers: buffer, first byte, end, format (R131). -/
abbrev Regions := List (Nat × Nat × Nat × Fmt)

def regionsOk (rs : Regions) (vb n : Nat) (f : Fmt) : Bool :=
  rs.all fun e => e.1 != vb || e.2.2.2 == f || decide (n ≤ e.2.1) || decide (e.2.2.1 == 0)

def regionsPut (rs : Regions) (vb n : Nat) (f : Fmt) : Regions :=
  (vb, 0, n, f) :: (rs.filterMap fun e =>
    if e.1 ≠ vb then some e else if e.2.2.1 ≤ n then none else some (e.1, max e.2.1 n, e.2.2.1, e.2.2.2))

/-- The state of planning: schedule so far, writes, buffer formats, next free start, first fault. -/
structure VPlan where
  sched : List VSched
  outs : List VOut
  regions : Regions
  next : Nat
  fault : Option Nat
  deriving DecidableEq, Repr

/-- A source operand is well formed (R130, R131, R133, R136, R145). -/
def sourceOk (p : VProg) (i : VInstr) (rs : Regions) (code : Nat) : Bool :=
  let f := computeFmt i.code
  let n := i.readCount
  let bytesOnly := i.vop == 0x32
  if code < 4 then bytesOnly || (decide (packedLen f n ≤ vbBytes code) && regionsOk rs code (packedLen f n) f)
  else if code < 6 then bytesOnly || (fmtWithin (bankFmt f) f && decide (n ≤ 262144 / (bankFmt f).width))
  else if code = 6 then true
  else if code = 7 then true
  else
    match p.streams[code - 8]? with
    | none => false
    | some st =>
      !st.write && decide (st.code ≤ 10) && st.code != 9 && (!st.scaled || scalable st.fmt) &&
        (bytesOnly || st.scaled || fmtWithin st.fmt f) && (!usesDst i.vop || i.dst != code)

/-- A destination is well formed (R130, R133, R136, R145). What reaches a bank is in the bank's format, or a CVT brings it
(R136). -/
def destOk (p : VProg) (i : VInstr) : Bool :=
  let f := computeFmt i.code
  let g := i.storeFmt (decide (8 ≤ i.dst))
  let n := i.writeCount
  let bytesOnly := i.vop == 0x33
  let buffered := g == .b64 || g == .b32 || g == .bf16 || g == .b16 || g == .i32
  if i.dst < 4 then bytesOnly || (buffered && decide (packedLen g n ≤ vbBytes i.dst))
  else if i.dst < 6 then bytesOnly || (buffered && (i.vop == 0x20 || g == bankFmt f) && decide (n ≤ 262144 / (bankFmt f).width))
  else if i.dst = 6 then false
  else if i.dst = 7 then true
  else
    match p.streams[i.dst - 8]? with
    | none => false
    | some st =>
      st.write && decide (st.code ≤ 10) && st.code != 9 && (!st.scaled || scalable st.fmt) &&
        (bytesOnly || (st.fmt == g && (!st.scaled || i.vop == 0x20)))

/-- The rounding field is reserved, or SR where the operation has none (R53, R137). -/
def VInstr.badRound (i : VInstr) : Bool := decide (5 ≤ i.round) || (i.round == 4 && (i.vop != 0x20 || i.dcode == 10))

/-- The checks of an instruction's own fields: a reason, or none. -/
def instrFault (p : VProg) (i : VInstr) (rs : Regions) : Option Nat :=
  let scalar := scalarResult i.vop
  if i.len = 0 ∨ 16384 < i.len ∨ !vopKnown i.vop i.code ∨ bitsOf i.imm 9 6 ≠ 0 then some 0xC
  else if (i.vop ≠ 0x20 ∧ i.dcode ≠ 0) ∨ (i.vop = 0x20 ∧ (10 < i.dcode ∨ i.dcode = 9)) then some 0xC
  else if (!usesSrc1 i.vop && i.src1 != 0) || (!usesSrc2 i.vop && i.src2 != 0) then some 0xC
  else if (scalar && i.dst != 6) || (i.vop == 0x33 && i.src1 != 6) then some 0xC
  else if !(i.sources.all (sourceOk p i rs)) || (!scalar && !destOk p i) then some 0xC
  else if i.badRound then some 0x7
  else none

/-- Port bytes per element on the read side, and on the switch input side. -/
def readBits (p : VProg) (i : VInstr) : Nat × Nat :=
  let r := i.sources.foldl (fun acc code =>
    if code = 7 then (acc.1, acc.2 + qbits (computeFmt i.code))
    else if code < 8 then acc
    else
      let st := p.stream code
      (acc.1 + (if i.vop = 0x32 then 256 else qbits st.fmt + bit1 st.scaled), acc.2)) (0, 0)
  (r.1 + (if decide (8 ≤ i.dst) && !scalarResult i.vop && (p.stream i.dst).scaled then 1 else 0), r.2)

def writeBits (i : VInstr) : Nat × Nat :=
  let q := if i.vop = 0x21 then 4 else qbits (i.storeFmt (decide (8 ≤ i.dst)))
  if scalarResult i.vop then (0, 0) else if i.dst = 7 then (0, q) else if 8 ≤ i.dst then (q, 0) else (0, 0)

/-- The largest rate within a limit. -/
def limitRate (rate limit q : Nat) : Nat := if q = 0 then rate else min rate (limit / q)

/-- The location key of a source. -/
def srcKey (i : VInstr) (code : Nat) : Nat := if code = 6 then 16 + i.vsrc else code

/-- Keys and counts of what an instruction reads beside scratch. -/
def VInstr.readKeys (i : VInstr) : List (Nat × Nat) :=
  (i.sources.filter fun c => decide (c < 7)).map (fun c => (srcKey i c, if c = 6 then 1 else i.readCount)) ++
    (if i.vop = 0x20 ∧ i.round = 4 then [(16 + i.upd, 1)] else []) ++
    (if i.vop = 0x30 ∨ (i.vop = 0x20 ∧ i.top) then [(32 + i.trk, 1)] else [])

/-- Scratch ranges read in issue k: first bit, bits each, count, elements per item. -/
def scratchReads (p : VProg) (k : Nat) (i : VInstr) : List (Nat × Nat × Nat × Nat) :=
  let place := fun (slot : Nat) (st : VStream) => 2048 * (slot + k * st.stride)
  (i.sources.filter fun c => decide (8 ≤ c)).flatMap (fun c =>
    let st := p.stream c
    (place st.slot st, if i.vop = 0x32 then 64 else st.fmt.width, i.readCount, 1) ::
      (if st.scaled && i.vop != 0x32 then [(place st.scaleSlot st, 8, ceilDiv i.readCount 32, 32)] else [])) ++
    (if decide (8 ≤ i.dst) && !scalarResult i.vop && (p.stream i.dst).scaled then
      [(place (p.stream i.dst).scaleSlot (p.stream i.dst), 8, ceilDiv i.len 32, 32)] else [])

/-- Plans one instruction (R140-R142). -/
def planInstr (p : VProg) (k : Nat) (a : VPlan) (i : VInstr) : VPlan :=
  match a.fault with
  | some _ => a
  | none =>
    match instrFault p i a.regions with
    | some r => { a with fault := some r }
    | none =>
      let rb := readBits p i
      let wb := writeBits i
      let rate := if i.single then 1 else
        max 1 (limitRate (limitRate (limitRate (limitRate (opRate i) 8192 rb.1) 8192 wb.1) 4096 rb.2) 4096 wb.2)
      let c := if i.single then 1 else ceilDiv i.len rate
      let anyScaled := rb.1 % 4 != 0
      let l := opLatency i (i.vop == 0x20 && anyScaled)
      let keys := i.readKeys
      let scr := scratchReads p k i
      let s1 := keys.foldl (fun s q =>
        (a.outs.filter fun o => o.key == q.1).foldl (fun s o => max s (o.need q.2 rate)) s) a.next
      let s2 := scr.foldl (fun s q =>
        (a.outs.filter fun o => o.key == 100).foldl (fun s o => max s (o.needBits q.1 q.2.1 q.2.2.1 q.2.2.2 rate)) s) s1
      let clash := keys.any (fun q => (a.outs.any fun o =>
          o.key == q.1 && !o.once && (o.block || o.rate != rate) && decide (s2 ≤ o.last))) ||
        scr.any (fun q => a.outs.any fun o =>
          o.key == 100 && !o.once && decide (0 < o.needBits q.1 q.2.1 q.2.2.1 q.2.2.2 rate) &&
            (o.block || o.rate != rate || o.base != q.1 || o.width != q.2.1) && decide (s2 ≤ o.last))
      if clash then { a with fault := some 0xC }
      else
        let last := s2 + c - 1 + l
        let out : VOut :=
          { key := 0, once := false, block := i.vop == 0x21, s := s2, rate := rate, l := l, n := i.writeCount,
            last := last, len := i.len, base := 0, width := 1 }
        let one : VOut := { out with once := true, n := 1 }
        let g := i.storeFmt (decide (8 ≤ i.dst))
        let outs :=
          if scalarResult i.vop then
            { one with key := 16 + i.vd } ::
              ((if i.vop = 0x2C then [{ one with key := 16 + (i.vd + 1) % 8 }] else []) ++
                (if i.vop = 0x30 then [{ one with key := 32 + i.trk }] else []))
          else
            (if i.dst < 6 then [{ out with key := i.dst, once := i.vop == 0x33 }]
             else if 8 ≤ i.dst then
               let w := if i.vop = 0x33 then 64 else g.width
               let b := 2048 * ((p.stream i.dst).slot + k * (p.stream i.dst).stride)
               [{ out with key := 100, once := i.vop == 0x33, base := b, width := w }]
             else []) ++ (if i.vop = 0x20 ∧ i.top then [{ one with key := 32 + i.trk }] else [])
        let into := if scalarResult i.vop || decide (i.dst < 8) then (0, 0)
          else (256 * ((p.stream i.dst).slot + k * (p.stream i.dst).stride), if i.vop = 0x33 then 8 else packedLen g i.writeCount)
        let regions := if !scalarResult i.vop && decide (i.dst < 4) && i.vop != 0x33 then
            regionsPut a.regions i.dst (packedLen g i.writeCount) g
          else a.regions
        { sched := a.sched ++ [⟨s2, c, l, rate, last, rb.1, wb.1, rb.2, wb.2, i.readCount, into.1, into.2⟩], outs := a.outs ++ outs,
          regions := regions, next := s2 + c, fault := none }

/-- The plan of issue k of a program, with the buffer formats that stand before it. -/
def planProg (p : VProg) (k : Nat) (rs : Regions) : VPlan :=
  p.instrs.foldl (planInstr p k) ⟨[], [], rs, 0, none⟩

/-- A stream descriptor's FMT is a code of R109, and only the formats of block scales are SCALED (R39), whether an
instruction names the stream or not. -/
def streamOk (st : VStream) : Bool := decide (st.code ≤ 10) && (!st.scaled || scalable st.fmt)

/-- The entry layout of R132: true where it holds. -/
def progLayoutOk (bs : List Byte) : Bool :=
  let w0 := wordAt bs 0
  let ni := bitsOf w0 15 8
  let ns := bitsOf w0 7 4
  decide (24 ≤ bs.length) && decide (1 ≤ ni) && decide (ni ≤ 32) && decide (ns ≤ 8) &&
    entryBytes bs == 24 + 8 * ns + 8 * ni && bs.length == entryBytes bs && w0 % 8 == 0 &&
    bitsOf (wordAt bs 12) 15 0 == 0 && wordAt bs 20 == 0 &&
    ((List.range ns).all fun i => bitsOf (wordAt bs (28 + 8 * i)) 18 0 == 0 &&
      streamOk (vStream (wordAt bs (24 + 8 * i)) 0)) &&
    ((List.range ni).all fun i => !bitOf (wordAt bs (24 + 8 * ns + 8 * i)) 16)

/-- Highest logical slot that issue k of a program names, plus one (R115). -/
def VProg.slotEnd (p : VProg) (r : VecRun) : Nat :=
  let q := p.slots r
  (q.1 ++ q.2).foldl (fun m x => max m (x + 1)) 0

end Sys2Proof.Machine
end

