-- ==== Sys2Proof/Machine/Vector.lean ====
section
/-! DEFINITION. The vector engine and the reduction unit (chapter 6): operand reads and writes (R133-R136, R144-R147), the
operations (R137-R139), stochastic rounding (R149-R151, R188), reductions (R152-R154), and the commands VEC, each vector
instruction, and the end of a program. An instruction command has its effect where the word is the next one of the program
that runs in the tile (log entry 12). -/

namespace Sys2Proof.Machine

/-! ### VEC (R134, R141, R144) -/

/-- The run that a VEC starts; k counts the earlier issues of the program in this step. -/
def State.vecRun (s : State) (d t : Nat) (w : BitVec 128) : VecRun :=
  let p := bitsOf (microA w) 31 24
  { prog := p, k := mapGet 0 (s.tile d t).issues p, slotOfs := bitsOf (microB w) 31 19, indexOfs := microC w,
    next := 0, tagop := microTagop w, s0 := 0, sched := [], flags := [] }

/-- S0 is the cycle after the issue (R141). -/
def State.vecStart (s : State) (d t : Nat) (r : VecRun) : State :=
  let plan := planProg (s.vecProg d t r.prog) r.k []
  let s := s.modTile d t fun x => { x with vec := some { r with s0 := x.cycle, sched := plan.sched }, issues := mapPut x.issues r.prog (r.k + 1) }
  s.setReg (tveB d t + TVE_STATUS.off) (BitVec.ofNat 32 (r.prog * 2 ^ 24 + min r.k 0xFFFF * 256 + 1))

def execVec (d : Fin 12) (t : Fin 768) (w : BitVec 128) (s : State) : Host.Outcome State Fault Refusal :=
  let r := s.vecRun d t w
  let p := (s.vecProg d t r.prog).slots r
  .next (s.issueWith d t w 0x20 (p.1.map (s.phys d)) (p.2.map (s.phys d)) fun s => s.vecStart d t r)

/-! ### Ports (R141, R163) -/

/-- The plan of the instruction that comes next in a run. -/
def VecRun.now (r : VecRun) : VSched := nthD ⟨0, 0, 0, 0, 0, 0, 0, 0, 0, 0, 0, 0⟩ r.sched r.next

/-- A byte range of the task's scratch that an instruction reads: byte j serves element j × num / den. -/
structure VRange where
  ofs : Nat
  len : Nat
  num : Nat
  den : Nat
  deriving DecidableEq, Repr

/-- The port cycle in which the next instruction of a run reads byte `j` of a range: that of its element's chunk (R141). -/
def VecRun.inCycle (r : VecRun) (v : VRange) (j : Nat) : Nat :=
  r.s0 + r.now.s + j * v.num / max 1 v.den / max 1 r.now.rate

/-- Byte ranges that an instruction reads: its streams, and the scales of scaled ones, that of the destination among
them (R36, R147). -/
def VProg.reads (p : VProg) (r : VecRun) (i : VInstr) : List VRange :=
  let scales := fun (code n : Nat) =>
    if (p.stream code).scaled then [VRange.mk ((p.stream code).scaleAt r) (ceilDiv n 32) 32 1] else []
  (i.sources.filter fun code => decide (8 ≤ code)).flatMap (fun code =>
    let st := p.stream code
    if i.vop = 0x32 then [VRange.mk (st.at_ r) 8 0 1]
    else VRange.mk (st.at_ r) (packedLen st.fmt i.readCount) 8 st.fmt.width :: scales code i.readCount) ++
    (if decide (8 ≤ i.dst) && !scalarResult i.vop then scales i.dst i.len else [])

/-- The byte range that an instruction writes to scratch; none for one that does not. -/
def VecRun.into (r : VecRun) (v : VSched) : Nat × Nat := (v.into + 256 * r.slotOfs, v.intoLen)

/-- The cycle in which an instruction with plan `v` writes result `e`: that of its element's chunk, for BAMAX of the last
element of the block (R141). -/
def VecRun.elemCycle (r : VecRun) (v : VSched) (i : VInstr) (e : Nat) : Nat :=
  r.s0 + v.s + v.l + (if i.vop = 0x21 then min (32 * e + 31) (i.len - 1) else e) / max 1 v.rate

/-- The cycle in which it writes byte `j` of a destination whose elements have `w` bits. -/
def VecRun.writeCycle (r : VecRun) (v : VSched) (i : VInstr) (w j : Nat) : Nat :=
  r.elemCycle v i (if i.single then 0 else j * 8 / max 1 w)

/-- The same for the next instruction of a run. -/
def VecRun.outCycle (r : VecRun) (i : VInstr) (w j : Nat) : Nat := r.writeCycle r.now i w j

/-- The instructions of the program before the next one, with their plans. -/
def VecRun.before (r : VecRun) (p : VProg) : List (VInstr × VSched) := (List.zip p.instrs r.sched).take r.next

/-- The elements' width and the bytes that an instruction writes to a buffer or bank. -/
def VInstr.regionOut (i : VInstr) : Nat × Nat :=
  if i.vop = 0x33 then (64, 8)
  else
    let f := if i.dst < 4 then i.storeFmt false else bankFmt (computeFmt i.code)
    (f.width, packedLen f i.writeCount)

/-- An earlier instruction writes byte `a` of buffer or bank `dst` (from 8 on: of the task's scratch) in a cycle after `c`, so
that its value stands in the end (R141). -/
def VecRun.overtaken (r : VecRun) (p : VProg) (dst a c : Nat) : Bool :=
  (r.before p).any fun e =>
    !scalarResult e.1.vop &&
      (if dst < 8 then e.1.dst == dst && decide (a < e.1.regionOut.2) && decide (c < r.writeCycle e.2 e.1 e.1.regionOut.1 a)
       else
         let o := r.into e.2
         let w := if e.1.vop = 0x33 then 64 else (e.1.storeFmt true).width
         decide (8 ≤ e.1.dst) && decide (o.1 ≤ a) && decide (a < o.1 + o.2) && decide (c < r.writeCycle e.2 e.1 w (a - o.1)))

/-- Scalar registers that an instruction writes (R133, R154). -/
def VInstr.scalarsOut (i : VInstr) : List Nat :=
  if !scalarResult i.vop then [] else if i.vop = 0x2C then [i.vd, (i.vd + 1) % 8] else [i.vd]

/-- The same for scalar register `v`, which the next instruction writes in its last cycle. -/
def VecRun.scalarOvertaken (r : VecRun) (p : VProg) (v : Nat) : Bool :=
  (r.before p).any fun e => e.1.scalarsOut.contains v && decide (r.now.last < e.2.last)

/-- Logical slots that the later instructions of a run read, and those that they write. -/
def VProg.later (p : VProg) (r : VecRun) : List Nat × List Nat :=
  let rest := p.instrs.drop (r.next + 1)
  (rest.flatMap fun i => (p.reads r i).flatMap fun v => slotsOfBytes v.ofs v.len,
    (r.sched.drop (r.next + 1)).flatMap fun v => slotsOfBytes (r.into v).1 (r.into v).2)

/-- TAGOP 1: the slots that the next instruction of a run reads for the last time become EMPTY (R113, R144, R164). -/
def State.vecEmpty (s : State) (d t : Nat) (p : VProg) (r : VecRun) (i : VInstr) : State :=
  if r.tagop ≠ 1 then s
  else
    let later := (p.later r).1
    (p.reads r i).foldl (fun s v => (slotsOfBytes v.ofs v.len).foldl (fun s q =>
      if later.contains q then s
      else s.setTagAt d t (s.phys d q) .empty
        ((s.die d).wallOf (r.inCycle v (min (v.ofs + v.len) (256 * q + 256) - 1 - v.ofs)) + 1)) s) s

/-- Stores the bytes that the next instruction of a run writes, each in its port cycle, from byte `j` of `bs` on. -/
def State.vecPut (s : State) (d t : Nat) (r : VecRun) (i : VInstr) (w ofs : Nat) : Nat → Nat → List Byte → State
  | 0, _, _ => s
  | _, _, [] => s
  | fuel + 1, j, b :: bs =>
    let c := r.outCycle i w j
    let a := ofs + j
    let n := max 1 ((List.range (min (bs.length + 1) (256 - a % 256))).takeWhile fun k => r.outCycle i w (j + k) == c).length
    let s := s.tilePut d t (s.phys d (a / 256)) (a % 256) ((s.die d).wallOf c) ((b :: bs).take n)
    State.vecPut s d t r i w ofs fuel (j + n) ((b :: bs).drop n)

/-- The next instruction of a run writes bytes from byte `ofs` of the task's scratch (R133, R159, R160); TAGOP 1 fills the
slots that no later instruction writes (R113, R144). -/
def State.vecStore (s : State) (d t : Nat) (p : VProg) (r : VecRun) (i : VInstr) (w ofs : Nat) (bs : List Byte) : State :=
  let later := (p.later r).2
  let old := s.taskBytes d t ofs bs.length
  let bs := bs.zipIdx.map fun e => if r.overtaken p 8 (ofs + e.2) (r.outCycle i w e.2) then (old[e.2]?).getD e.1 else e.1
  (slotsOfBytes ofs bs.length).foldl (fun s q =>
    let e := min (ofs + bs.length) (256 * q + 256)
    s.tileTag d t (s.phys d q) ((s.die d).wallOf (r.outCycle i w (e - 1 - ofs)))
      (decide (ofs ≤ 256 * q) && decide (e = 256 * q + 256)) (r.tagop == 1 && !later.contains q))
    (s.vecPut d t r i w ofs (bs.length + 1) 0 bs)

/-! ### Reading operands (R133, R136, R145) -/

/-- What a source location holds for an instruction: format and bytes, with the block scales of a scaled stream. -/
structure VSrc where
  fmt : Fmt
  bytes : List Byte
  scales : Option (List Byte)
  /-- every element reads element 0 -/
  broadcast : Bool
  deriving DecidableEq, Repr

/-- Bytes of `n` entries of a bank, `w` bytes each, as an instruction reads them chunk by chunk from cycle `c0` on while a
matrix operation may update the bank (R85, R145). -/
def State.bankBytes (s : State) (d t region w n c0 rate : Nat) : List Byte :=
  let x := s.tile d t
  match x.mma with
  | none => x.bytes region 0 (n * w)
  | some m =>
    if 4 + m.bank ≠ region then x.bytes region 0 (n * w)
    else
      ((List.range (ceilDiv n (max 1 rate))).foldl (fun (acc : State × List Byte) k =>
        let s := acc.1.mmaCatchUp d t (c0 + k)
        (s, acc.2 ++ (s.tile d t).bytes region (k * rate * w) (min rate (n - k * rate) * w))) (s, [])).2

/-- The bytes of a range as the next instruction of a run reads them (R141, R163). -/
def State.vecGet (s : State) (d t : Nat) (r : VecRun) (v : VRange) : List Byte := s.portBytes d t v.ofs v.len (r.inCycle v)

/-- The source of an instruction that starts in cycle `c0`; `loc` is what it takes from the switch local output. -/
def State.readSrc (s : State) (d t : Nat) (p : VProg) (r : VecRun) (i : VInstr) (c0 rate : Nat) (loc : List (List Byte))
    (code : Nat) : VSrc :=
  let x := s.tile d t
  let n := i.readCount
  let f := computeFmt i.code
  if code < 4 then ⟨f, x.bytes code 0 (packedLen f n), none, false⟩
  else if code < 6 then ⟨bankFmt f, s.bankBytes d t code ((bankFmt f).width / 8) n c0 rate, none, false⟩
  else if code = 6 then ⟨f, toBytes (x.vs i.vsrc) 8, none, true⟩
  else if code = 7 then ⟨f, loc.flatMap id, none, false⟩
  else
    let st := p.stream code
    ⟨st.fmt, s.vecGet d t r ⟨st.at_ r, packedLen st.fmt n, 8, st.fmt.width⟩,
      if st.scaled then some (s.vecGet d t r ⟨st.scaleAt r, ceilDiv n 32, 32, 1⟩) else none, false⟩

/-- Element `j` of a source as a code of the computing format, with the flags of its conversion (R136). -/
def VSrc.elem (v : VSrc) (i : VInstr) (j : Nat) : Nat × Flags :=
  let f := computeFmt i.code
  let c := elemOf v.fmt v.bytes (if v.broadcast then 0 else j)
  match v.scales with
  | some ss =>
    let x := elemNum v.fmt c (some (nthD 0 ss (j / 32)).toNat)
    let y := convert f i.readMode i.sat 0 x.1
    (y.1, y.2.or ⟨false, false, x.2⟩)
  | none => if v.fmt = f then (c, Flags.none) else convert f i.readMode i.sat 0 (decode v.fmt c)

/-! ### Operations on codes (R137-R139) -/

/-- An I32 result, saturated (R137). -/
def sat32i (z : Int) : Nat × Flags :=
  if 2147483647 < z then (0x7FFFFFFF, flagOvf) else if z < -2147483648 then (0x80000000, flagOvf)
  else (unsignedOf z 32, Flags.none)

/-- A canonical code: every NaN that the engine produces is canonical (R63). -/
def canon (f : Fmt) (c : Nat) : Nat := if f.isFloat && codeIsNaN f c then f.nanCode else c

/-- Elementwise operations of the integer computing format. -/
def vIntOp (vop : Nat) (a b : Nat) : Nat × Flags :=
  let x := signedOf a 32
  let y := signedOf b 32
  match vop with
  | 0x02 => sat32i (x + y)
  | 0x03 => sat32i (x - y)
  | 0x06 => (if y < x then b else a, Flags.none)
  | 0x07 => (if x < y then b else a, Flags.none)
  | 0x08 => sat32i x.natAbs
  | 0x09 => sat32i (-x)
  | _ => (a, Flags.none)

/-- Elementwise operations of the floating computing formats: DST, SRC1 and SRC2 as codes. -/
def vFloatOp (vop : Nat) (f : Fmt) (mode : Rnd) (c a b : Nat) : Nat × Flags :=
  match vop with
  | 0x02 => fAdd f mode a b
  | 0x03 => fSub f mode a b
  | 0x04 => fMul f mode a b
  | 0x05 => fFma f mode a b c
  | 0x06 => (fPick f false a b, Flags.none)
  | 0x07 => (fPick f true a b, Flags.none)
  | 0x08 => finish f mode (absNum (decode f a), false)
  | 0x09 => finish f mode (negNum (decode f a), false)
  | 0x10 =>
    let q := divNum (decode f a) (decode f b)
    finish f mode (q.1, q.2.1)
  | 0x11 => finish f mode (sqrtNum (decode f a))
  | 0x12 => fnCode .rsqrt f mode a
  | 0x18 => fnCode .exp f mode a
  | 0x19 => fnCode .log f mode a
  | 0x1A => fnCode .tanh f mode a
  | 0x1B => fnCode .sigm f mode a
  | 0x1C => fnCode .sin f mode a
  | 0x1D => fnCode .cos f mode a
  | _ => (canon f a, Flags.none)

def vElemOp (vop : Nat) (f : Fmt) (mode : Rnd) (c a b : Nat) : Nat × Flags :=
  if f = .i32 then vIntOp vop a b else vFloatOp vop f mode c a b

/-! ### Reductions (R152-R154) -/

/-- One level of the pair tree. -/
def pairLevel {α : Type} (op : α → α → α) : List α → List α
  | a :: b :: r => op a b :: pairLevel op r
  | l => l

/-- The canonical pair tree (R152), with as many levels as fuel. -/
def pairTree {α : Type} (op : α → α → α) : Nat → List α → Option α
  | _, [] => none
  | _, [a] => some a
  | 0, a :: _ => some a
  | n + 1, l => pairTree op n (pairLevel op l)

/-- The elements of lane `l` of `w`, ascending. -/
def laneOf {α : Type} (w l : Nat) (xs : List α) : List α :=
  ((List.range xs.length).filter (fun i => i % w == l)).filterMap fun i => xs[i]?

/-- The order of R153: lanes in ascending position, then the pair tree over the lanes that have elements. -/
def laneReduce {α : Type} (op : α → α → α) (w : Nat) (xs : List α) : Option α :=
  let lanes := (List.range w).filterMap fun l =>
    match laneOf w l xs with
    | [] => none
    | a :: r => some (r.foldl op a)
  pairTree op 8 lanes

/-- RSUM: BF16 and B16 accumulate in B32 (R153); a NaN result is canonical, that of a lone element too (R63). -/
def vSum (f : Fmt) (mode : Rnd) (xs : List Nat) : Nat × Flags :=
  let g : Fmt := if f = .bf16 ∨ f = .b16 then .b32 else f
  let up := xs.map fun c => (if g = f then c else (convert g mode false 0 (decode f c)).1, Flags.none)
  let add := fun (a b : Nat × Flags) =>
    let r := if g = .i32 then vIntOp 0x02 a.1 b.1 else fAdd g mode a.1 b.1
    (r.1, (a.2.or b.2).or r.2)
  let r := (laneReduce add (if f = .b64 then 32 else 64) up).getD (0, Flags.none)
  (canon g r.1, r.2)

/-- RMAX and RMIN. -/
def vPick (f : Fmt) (wantMax : Bool) (xs : List Nat) : Nat :=
  let pick := fun a b => if f = .i32 then (vIntOp (if wantMax then 0x07 else 0x06) a b).1 else fPick f wantMax a b
  canon f ((laneReduce pick (if f = .b64 then 32 else 64) xs).getD 0)

/-- The largest magnitude: +infinity if any element is infinite, else NaN if any is NaN (R154). -/
def maxMag (xs : List Num) : Num :=
  if xs.any (fun x => x == .inf true || x == .inf false) then .inf false
  else if xs.any isNaN then .nan
  else xs.foldl (fun m x => if ltNum m (absNum x) then absNum x else m) (.fin false 0 0)

def vRamax (f : Fmt) (xs : List Nat) : Nat × Flags :=
  if f = .i32 then sat32i (xs.foldl (fun m c => max m (signedOf c 32).natAbs) 0)
  else convert f .rne false 0 (maxMag (xs.map (decode f)))

/-- BAMAX of one block, as B32 by RUP. -/
def vBamax (f : Fmt) (xs : List Nat) : Nat := (convert .b32 .rup false 0 (maxMag (xs.map (decode f)))).1

/-- ARGMAX: value and position (R154). -/
def vArgmax (f : Fmt) (xs : List Nat) : Nat × Nat :=
  let r := (List.range xs.length).foldl (fun (b : Option (Nat × Nat)) i =>
    let c := nthD 0 xs i
    if codeIsNaN f c then b
    else match b with
      | none => some (c, i)
      | some (v, j) => if fPick f true v c = v then some (v, j) else some (c, i)) none
  r.getD (f.nanCode, 0xFFFFFFFF)

/-! ### Stochastic rounding (R57, R149-R151, R188) -/

/-- The seed of R57. -/
def seedOf (job tensor block lane : Nat) : Nat :=
  leNat (shake256 (toBytes job 8 ++ toBytes tensor 4 ++ toBytes block 4 ++ toBytes lane 1) 8)

/-- The 16 random bits of logical index `n` (R57). -/
def randomBits (seed n : Nat) : Nat :=
  let z := (seed + n * 0x9E3779B97F4A7C15) % 2 ^ 64
  let z := Nat.xor z (z / 2 ^ 31) * 0xBF58476D1CE4E5B9 % 2 ^ 64
  let z := Nat.xor z (z / 2 ^ 27) * 0x94D049BB133111EB % 2 ^ 64
  Nat.xor z (z / 2 ^ 31) / 2 ^ 48

/-- R188: SR only in a weight-update program under NORMAL. -/
def State.srAllowed (s : State) (d : Nat) (p : VProg) : Bool := p.wupd && s.tsk d (s.taskOf d) TSK_CFG.NUMERICS == 0

/-- The random bits of element `i` of a conversion (R150, R151). -/
def State.srBits (s : State) (d t : Nat) (p : VProg) (r : VecRun) (ins : VInstr) (i : Nat) : Nat :=
  let low := (p.indexBase + r.k * p.indexStride + r.indexOfs + i) % 2 ^ 48
  let n := low + (s.tile d t).vs ins.upd % 65536 * 2 ^ 48
  let held := (s.active d).seeds.find? fun e => e.tile == t && e.tensor == p.tensor && e.block == low / 65536
  match held with
  | some e => randomBits (nthD 0 e.seeds (low % 64)) n
  | none => randomBits (seedOf (s.active d).jobSeed p.tensor (low / 65536) (low % 64)) n

/-! ### Writing results (R133, R145, R146) -/

/-- The cycles in which the next instruction takes words of the local output, and in which it places words on the local
input (R140, R141). -/
def VecRun.takeCycles (r : VecRun) : List Nat :=
  ((List.range r.now.c).filter r.now.takes).map fun m => r.s0 + r.now.s + m
def VecRun.putCycles (r : VecRun) : List Nat :=
  ((List.range r.now.c).filter r.now.puts).map fun n => r.s0 + r.now.s + r.now.l + n

/-- Places bytes on the local input as the next instruction of the run does. -/
def State.putWords (s : State) (d t : Nat) (r : VecRun) (bs : List Byte) : State :=
  s.placeWords d t (List.zip r.putCycles ((chunksOf 128 (bs.length + 1) bs).map (fitBytes 128)))

/-- Writes bytes to a buffer or bank as the next instruction of a run does, `w` bits an element; bytes that an earlier
instruction writes later stand (R141). -/
def State.putRegion (s : State) (d t : Nat) (p : VProg) (r : VecRun) (i : VInstr) (w : Nat) (bs : List Byte) : State :=
  let old := (s.tile d t).bytes i.dst 0 bs.length
  let bs := bs.zipIdx.map fun e => if r.overtaken p i.dst e.2 (r.outCycle i w e.2) then (old[e.2]?).getD e.1 else e.1
  s.modTile d t fun x => x.putBytes i.dst 0 bs

/-- Writes elements in format `f` to a destination location. What a CVT brings to a bank in another format than the bank's is
converted to it by RNE, without flags (DESIGN CHOICE, log entry 36). The matrix operation stands at the cycle before the first
write (R143). -/
def State.writeDst (s : State) (d t : Nat) (p : VProg) (r : VecRun) (i : VInstr) (f : Fmt) (cs : List Nat) : State :=
  if i.dst < 4 then s.putRegion d t p r i f.width (packElems f 0 cs)
  else if i.dst < 6 then
    let g := bankFmt (computeFmt i.code)
    let cs := cs.map fun c => if g = f then c else (convert g .rne false 0 (decode f c)).1
    (s.mmaCatchUp d t (r.s0 + r.now.s + r.now.l - 1)).putRegion d t p r i g.width (packElems g 0 cs)
  else if i.dst = 7 then
    s.putWords d t r (packElems f 0 cs)
  else if i.dst = 6 then s
  else
    let st := p.stream i.dst
    let last := st.at_ r + packedLen f cs.length - 1
    let old := nthD 0 (s.taskBytes d t last 1) 0
    s.vecStore d t p r i f.width (st.at_ r) (packElems f old cs)

/-- Writes a scalar result of `w` bits (R133) in the last cycle of the next instruction; one that an earlier instruction
writes later stands (R141). -/
def State.writeScalar (s : State) (d t : Nat) (p : VProg) (r : VecRun) (v w val : Nat) : State :=
  if r.scalarOvertaken p v then s else s.modTile d t fun x => x.setVs v (val % 2 ^ w)

/-! ### Flags in their cycles (R68, R156) -/

/-- The next instruction raises flags in the given cycles; where a FLG follows in the program they wait for their cycles. -/
def State.vecRaise (s : State) (d t : Nat) (p : VProg) (r : VecRun) (fs : List (Nat × Flags)) : State :=
  if (p.instrs.drop (r.next + 1)).any (fun i => i.vop == 0x31) then
    let fs := (fs.map fun e => (e.1, e.2.bits)).filter fun e => e.2 != 0
    s.modTile d t fun x => { x with vec := x.vec.map fun v => { v with flags := v.flags ++ fs } }
  else s.raise d t false (fs.foldl (fun a e => a.or e.2) Flags.none)

/-- Flags of element results, each in its cycle. -/
def VecRun.flagCycles (r : VecRun) (i : VInstr) (fs : List Flags) : List (Nat × Flags) :=
  fs.zipIdx.map fun e => (r.elemCycle r.now i e.2, e.1)

/-! ### One instruction -/

/-- Scales of the destination stream of a scaled conversion (R147). -/
def State.dstScales (s : State) (d t : Nat) (p : VProg) (r : VecRun) (i : VInstr) : Option (List Byte) :=
  if 8 ≤ i.dst ∧ (p.stream i.dst).scaled then some (s.vecGet d t r ⟨(p.stream i.dst).scaleAt r, ceilDiv i.len 32, 32, 1⟩)
  else none

/-- CVT (R147-R150). A NaN scale raises INV whatever the element (R68). The fold of TRACK raises no flag of its own where a
magnitude leaves the range of B32 (DESIGN CHOICE, log entry 36). -/
def State.vecCvt (s : State) (d t : Nat) (p : VProg) (r : VecRun) (i : VInstr) (xs : List (Nat × Flags)) : State :=
  let f := computeFmt i.code
  let g := i.storeFmt (decide (8 ≤ i.dst))
  let sr := i.round == 4 && s.srAllowed d p
  let mode := if i.round = 4 then (if sr then Rnd.sr else .rne) else i.mode
  let scales := s.dstScales d t p r i
  let one := fun (j : Nat) (x : Nat × Flags) =>
    let v := decode f x.1
    let y : Num × Bool := match scales with
      | none => (v, false)
      | some ss =>
        let k := (nthD 0 ss (j / 32)).toNat
        if k = 255 then (.nan, true) else (scaleNum v (127 - (k : Int)), false)
    let z := convert g mode i.sat (if sr then s.srBits d t p r i j else 0) y.1
    (z.1, (z.2.or x.2).or ⟨false, false, y.2⟩)
  let rs := (List.zip (List.range xs.length) xs).map fun e => one e.1 e.2
  let s := s.writeDst d t p r i g (rs.map (·.1))
  let s := s.vecRaise d t p r (r.flagCycles i (rs.map (·.2)))
  if i.top then
    let mags := (xs.map fun x => decode f x.1).filter fun v => !isNaN v
    let old := decode .b32 ((s.tile d t).amx i.trk)
    let new := (convert .b32 .rup false 0 (maxMag (old :: mags))).1
    s.modTile d t fun x => x.setAmx i.trk (if isNaN old then (s.tile d t).amx i.trk else new)
  else s

/-- The effect of one instruction whose operands are there; `loc` are the words it takes from the local output. -/
def State.vecOp (s : State) (d t : Nat) (p : VProg) (r : VecRun) (i : VInstr) (loc : List (List Byte)) : State :=
  let f := computeFmt i.code
  let c0 := r.s0 + r.now.s
  let s := s.mmaCatchUp d t c0
  let get := fun (code : Nat) =>
    let v := s.readSrc d t p r i c0 r.now.rate loc code
    (List.range i.readCount).map (v.elem i)
  -- a scalar result of `w` bits with the flags that its computation raises, in the last cycle
  let result := fun (xs : List (Nat × Flags)) (w val : Nat) (fl : Flags) =>
    (s.vecRaise d t p r [(r.s0 + r.now.last, xs.foldl (fun a e => a.or e.2) fl)]).writeScalar d t p r i.vd w val
  match i.vop with
  | 0x20 => s.vecCvt d t p r i (get i.src1)
  | 0x21 =>
    let xs := get i.src1
    s.writeDst d t p r i .b32 ((chunksOf 32 (xs.length + 1) (xs.map (·.1))).map (vBamax f))
  | 0x28 =>
    let xs := get i.src1
    let v := vSum f i.mode (xs.map (·.1))
    result xs (if f = .bf16 ∨ f = .b16 then 32 else f.width) v.1 v.2
  | 0x29 => let xs := get i.src1; result xs f.width (vPick f true (xs.map (·.1))) Flags.none
  | 0x2A => let xs := get i.src1; result xs f.width (vPick f false (xs.map (·.1))) Flags.none
  | 0x2B =>
    let xs := get i.src1
    let v := vRamax f (xs.map (·.1))
    result xs f.width v.1 v.2
  | 0x2C =>
    let xs := get i.src1
    let v := vArgmax f (xs.map (·.1))
    (result xs f.width v.1 Flags.none).writeScalar d t p r ((i.vd + 1) % 8) 32 v.2
  | 0x30 => (s.writeScalar d t p r i.vd 32 ((s.tile d t).amx i.trk)).modTile d t fun x => x.setAmx i.trk 0
  | 0x31 =>
    let c := c0 + r.now.l
    let q := ((s.mmaSync d t (c - 1)).flagsDue d t c).readTileFlags d t i.top
    q.2.writeScalar d t p r i.vd 32 q.1
  | 0x32 =>
    let v := if i.src1 < 6 then (s.tile d t).bytes i.src1 0 8
      else if i.src1 = 6 then toBytes ((s.tile d t).vs i.vsrc) 8
      else if i.src1 = 7 then (loc.flatMap id).take 8
      else s.vecGet d t r ⟨(p.stream i.src1).at_ r, 8, 0, 1⟩
    s.writeScalar d t p r i.vd 64 (leNat v)
  | 0x33 =>
    let bs := toBytes ((s.tile d t).vs i.vsrc) 8
    if i.dst < 4 then s.putRegion d t p r i 64 bs
    else if i.dst < 6 then (s.mmaCatchUp d t (c0 + r.now.l - 1)).putRegion d t p r i 64 bs
    else if i.dst = 7 then s.putWords d t r bs
    else if i.dst = 6 then s
    else s.vecStore d t p r i 64 ((p.stream i.dst).at_ r) bs
  | _ =>
    let a := get i.src1
    let b := if usesSrc2 i.vop then get i.src2 else a.map fun _ => (0, Flags.none)
    let c := if usesDst i.vop then get i.dst else a.map fun _ => (0, Flags.none)
    let rs := (List.range i.len).map fun j =>
      let x := nthD (0, Flags.none) a j
      let y := nthD (0, Flags.none) b j
      let z := nthD (0, Flags.none) c j
      let v := vElemOp i.vop f i.mode z.1 x.1 y.1
      (v.1, ((v.2.or x.2).or y.2).or z.2)
    (s.writeDst d t p r i f (rs.map (·.1))).vecRaise d t p r (r.flagCycles i (rs.map (·.2)))

/-- The program has executed all its instructions, and the cycle of its last write has passed (R141). -/
def State.vecFinish (s : State) (d t : Nat) : State :=
  match (s.tile d t).vec with
  | none => s
  | some r =>
    let p := s.vecProg d t r.prog
    let last := r.sched.foldl (fun m v => max m (r.s0 + v.last)) 0
    if r.next < p.instrs.length ∨ s.reached d ≤ last then s
    else
      let s := (s.mmaSync d t last).flagsDue d t (last + 1)
      (s.modTile d t fun x => { x with vec := none }).setFld (tveB d t) TVE_STATUS.RUNNING 0

def execVecProgramComplete (d : Fin 12) (t : Fin 768) (s : State) : Host.Outcome State Fault Refusal :=
  .next (if s.dieState d == dsRUNNING then s.vecFinish d t else s)

/-- The instruction `w` with opcode `vop`: where it is the next one of the tile's program, and the switch and the RECV stream
have brought what it reads, it executes; a POISON slot that it reads aborts the die (R159). -/
def State.vecInstr (s : State) (d t : Nat) (w : BitVec 64) (vop : Nat) : State :=
  let s := if s.dieState d == dsRUNNING then s.stream d (s.reached d) else s
  let x := s.tile d t
  match x.vec with
  | none => s
  | some r =>
    let p := s.vecProg d t r.prog
    let i := vInstr w.toNat
    if s.dieState d != dsRUNNING || i.vop != vop || p.instrs[r.next]? != some i then s
    else
      let rs := p.reads r i
      let ready := rs.all fun v => { x with vec := none }.portReady v.ofs v.len (r.inCycle v (v.len - 1))
      match if ready then x.localAt r.takeCycles else none with
      | none => s
      | some loc =>
        let reads := rs.map fun v => (v.ofs, v.len)
        let s := s.touchRanges d t reads
        match s.poisonRead d t reads with
        | some q => s.scrAbort d t q.1 q.2 3
        | none =>
          ((s.vecEmpty d t p r i).vecOp d t p r i loc).modTile d t fun x =>
            { x with vec := x.vec.map fun r => { r with next := r.next + 1 } }

/-! ### The instruction commands -/

def execCopy (d : Fin 12) (t : Fin 768) (w : BitVec 64) (s : State) : Host.Outcome State Fault Refusal :=
  .next (s.vecInstr d t w 0x01)

def execAdd (d : Fin 12) (t : Fin 768) (w : BitVec 64) (s : State) : Host.Outcome State Fault Refusal :=
  .next (s.vecInstr d t w 0x02)

def execSub (d : Fin 12) (t : Fin 768) (w : BitVec 64) (s : State) : Host.Outcome State Fault Refusal :=
  .next (s.vecInstr d t w 0x03)

def execMul (d : Fin 12) (t : Fin 768) (w : BitVec 64) (s : State) : Host.Outcome State Fault Refusal :=
  .next (s.vecInstr d t w 0x04)

def execFma (d : Fin 12) (t : Fin 768) (w : BitVec 64) (s : State) : Host.Outcome State Fault Refusal :=
  .next (s.vecInstr d t w 0x05)

def execMin (d : Fin 12) (t : Fin 768) (w : BitVec 64) (s : State) : Host.Outcome State Fault Refusal :=
  .next (s.vecInstr d t w 0x06)

def execMax (d : Fin 12) (t : Fin 768) (w : BitVec 64) (s : State) : Host.Outcome State Fault Refusal :=
  .next (s.vecInstr d t w 0x07)

def execAbs (d : Fin 12) (t : Fin 768) (w : BitVec 64) (s : State) : Host.Outcome State Fault Refusal :=
  .next (s.vecInstr d t w 0x08)

def execNeg (d : Fin 12) (t : Fin 768) (w : BitVec 64) (s : State) : Host.Outcome State Fault Refusal :=
  .next (s.vecInstr d t w 0x09)

def execDiv (d : Fin 12) (t : Fin 768) (w : BitVec 64) (s : State) : Host.Outcome State Fault Refusal :=
  .next (s.vecInstr d t w 0x10)

def execSqrt (d : Fin 12) (t : Fin 768) (w : BitVec 64) (s : State) : Host.Outcome State Fault Refusal :=
  .next (s.vecInstr d t w 0x11)

def execRsqrt (d : Fin 12) (t : Fin 768) (w : BitVec 64) (s : State) : Host.Outcome State Fault Refusal :=
  .next (s.vecInstr d t w 0x12)

def execExp (d : Fin 12) (t : Fin 768) (w : BitVec 64) (s : State) : Host.Outcome State Fault Refusal :=
  .next (s.vecInstr d t w 0x18)

def execLog (d : Fin 12) (t : Fin 768) (w : BitVec 64) (s : State) : Host.Outcome State Fault Refusal :=
  .next (s.vecInstr d t w 0x19)

def execTanh (d : Fin 12) (t : Fin 768) (w : BitVec 64) (s : State) : Host.Outcome State Fault Refusal :=
  .next (s.vecInstr d t w 0x1A)

def execSigm (d : Fin 12) (t : Fin 768) (w : BitVec 64) (s : State) : Host.Outcome State Fault Refusal :=
  .next (s.vecInstr d t w 0x1B)

def execSin (d : Fin 12) (t : Fin 768) (w : BitVec 64) (s : State) : Host.Outcome State Fault Refusal :=
  .next (s.vecInstr d t w 0x1C)

def execCos (d : Fin 12) (t : Fin 768) (w : BitVec 64) (s : State) : Host.Outcome State Fault Refusal :=
  .next (s.vecInstr d t w 0x1D)

def execCvt (d : Fin 12) (t : Fin 768) (w : BitVec 64) (s : State) : Host.Outcome State Fault Refusal :=
  .next (s.vecInstr d t w 0x20)

def execBamax (d : Fin 12) (t : Fin 768) (w : BitVec 64) (s : State) : Host.Outcome State Fault Refusal :=
  .next (s.vecInstr d t w 0x21)

def execRsum (d : Fin 12) (t : Fin 768) (w : BitVec 64) (s : State) : Host.Outcome State Fault Refusal :=
  .next (s.vecInstr d t w 0x28)

def execRmax (d : Fin 12) (t : Fin 768) (w : BitVec 64) (s : State) : Host.Outcome State Fault Refusal :=
  .next (s.vecInstr d t w 0x29)

def execRmin (d : Fin 12) (t : Fin 768) (w : BitVec 64) (s : State) : Host.Outcome State Fault Refusal :=
  .next (s.vecInstr d t w 0x2A)

def execRamax (d : Fin 12) (t : Fin 768) (w : BitVec 64) (s : State) : Host.Outcome State Fault Refusal :=
  .next (s.vecInstr d t w 0x2B)

def execArgmax (d : Fin 12) (t : Fin 768) (w : BitVec 64) (s : State) : Host.Outcome State Fault Refusal :=
  .next (s.vecInstr d t w 0x2C)

def execAmxrd (d : Fin 12) (t : Fin 768) (w : BitVec 64) (s : State) : Host.Outcome State Fault Refusal :=
  .next (s.vecInstr d t w 0x30)

def execFlg (d : Fin 12) (t : Fin 768) (w : BitVec 64) (s : State) : Host.Outcome State Fault Refusal :=
  .next (s.vecInstr d t w 0x31)

def execLds (d : Fin 12) (t : Fin 768) (w : BitVec 64) (s : State) : Host.Outcome State Fault Refusal :=
  .next (s.vecInstr d t w 0x32)

def execSts (d : Fin 12) (t : Fin 768) (w : BitVec 64) (s : State) : Host.Outcome State Fault Refusal :=
  .next (s.vecInstr d t w 0x33)

end Sys2Proof.Machine
end

