-- ==== Sys2Proof/Machine/Collectives.lean ====
section
/-! DEFINITION. Teams and collectives (chapter 15): the sieve tree (R370-R373), entering a call (R374-R379), the
fingerprint round (R380-R383), completion (R384), folds (R385-R387), bulk data (R388, R389), and failure (R390-R393). -/

namespace Sys2Proof.Machine

/-! ### The sieve tree (R372) -/

def leastOf : List Nat → Nat
  | [] => 0
  | [a] => a
  | a :: r => min a (leastOf r)

/-- Head of the node, head of the group, and root, by the team's places. -/
def nodeHead (ps : List Nat) (p : Nat) : Nat := leastOf (ps.filter fun q => q / 8 == p / 8)
def groupHead (ps : List Nat) (p : Nat) : Nat := leastOf (ps.filter fun q => q / 256 == p / 256)

/-- The parent of the nodes on place `p`; none at the root. A level with one input passes it through. -/
def parentOf (ps : List Nat) (p : Nat) : Option Nat :=
  if nodeHead ps p ≠ p then some (nodeHead ps p)
  else if groupHead ps p ≠ p then some (groupHead ps p)
  else if leastOf ps ≠ p then some (leastOf ps)
  else none

/-- The level at which a place's message enters another place's nodes. -/
def levelOf (own child : Nat) : Nat := if child / 8 = own / 8 then 1 else if child / 256 = own / 256 then 2 else 3

/-- Adds a number that a list does not hold. -/
def addNew (l : List Nat) (x : Nat) : List Nat := if l.contains x then l else l ++ [x]

def TeamX.places (t : TeamX) : List Nat := (t.homes.map fun h => h.1).foldl addNew []
def TeamX.live (t : TeamX) : List Nat := t.places.filter fun p => !t.lost.contains p

/-- Ranks on a place. -/
def TeamX.ranksAt (t : TeamX) (p : Nat) : List Nat :=
  (List.range t.homes.length).filter fun r => (nthD (0, 0) t.homes r).1 == p

/-- Nodes below this place: those of the tree and those that re-attached. -/
def TeamX.children (t : TeamX) (own : Nat) : List Nat :=
  (t.extra.filter fun p => !t.lost.contains p).foldl addNew
    (t.live.filter fun p => p != own && decide (parentOf t.live p = some own))

/-- The alternate parent (R372): the parent without the primary's package. -/
def TeamX.alternate (t : TeamX) (own : Nat) : Option Nat :=
  match parentOf t.places own with
  | none => none
  | some p => parentOf (t.places.filter fun q => q != p) own

def State.team? (s : State) (id : Nat) : Option TeamX := mapGet? s.coll.teams id
def State.setTeam (s : State) (id : Nat) (t : TeamX) : State := { s with coll := { s.coll with teams := mapPut s.coll.teams id t } }
def State.modTeam (s : State) (id : Nat) (f : TeamX → TeamX) : State :=
  match s.team? id with
  | none => s
  | some t => s.setTeam id (f t)

def State.colEvent (s : State) (f : Field) : State :=
  s.event colB f 21 (some 0x10) (bitOf (s.fld colB COL_EVENT_MASK.MASK) f.lo) (s.dieUnit 14)

def State.colSend (s : State) (m : ColMsg) : State := { s with coll := { s.coll with out := s.coll.out ++ [m] } }

/-! ### Team commands (R370, R371, R373) -/

/-- Members of a unit, by ascending place and then die (R371): the entries of the routing table with the tag. -/
def State.unitMembers (s : State) (tag unit : Nat) : List Word :=
  let base := glpB + 0x100000
  let idx := (s.regs.filter fun e => decide (base ≤ e.1) && decide (e.1 < base + 8 * 524288) && (e.1 - base) % 8 == 0).map fun e =>
    (e.1 - base) / 8
  let ids := (idx.map fun i => tag * 2 ^ 19 + i).filterMap fun id =>
    match s.resolveMember id with
    | some e => if unitContains unit (unitAddr e.1 1 e.2 0) then some (e.1 * 16 + e.2, id) else none
    | none => none
  (ids.foldl (fun (m : FMap (List Nat)) e => mapPut m e.1 (mapGet [] m e.1 ++ [e.2])) []).flatMap fun e =>
    e.2.map (BitVec.ofNat 32)

/-- No number occurs twice. -/
def allDifferent : List Nat → Bool
  | [] => true
  | a :: r => !r.contains a && allDifferent r

/-- R371 for a list of members: the status of TEAM_CREATE. -/
def State.teamCheck (s : State) (id : Nat) (ms : List Word) : Nat :=
  let homes := ms.map fun m => s.resolveMember m.toNat
  if homes.any fun h => h.isNone then stBAD_UNIT
  else if id % 2 ^ 19 = 0 ∨ ms = [] ∨ 524288 < ms.length ∨ ms.any (fun m => m.toNat / 2 ^ 19 != id / 2 ^ 19) ∨
      !allDifferent (ms.map fun m => m.toNat) ∨
      !allDifferent (homes.filterMap fun h => h.map fun e => e.1 * 16 + e.2) ∨
      homes.any (fun h => match h with
        | some e => decide (13 < e.2)
        | none => false) ∨
      1024 ≤ s.coll.teams.length ∧ homes.any (fun h => match h with
        | some e => e.1 == s.place
        | none => false) then stDENIED
  else if (s.team? id).isSome then stBUSY
  else stOK

/-- Installs a team where this package hosts a member. -/
def State.installTeam (s : State) (id : Nat) (ms : List Word) (timeout job : Nat) : State :=
  let homes := ms.map fun m => (s.resolveMember m.toNat).getD (0, 0)
  if homes.any fun h => h.1 == s.place then
    let t : TeamX :=
      { members := ms, timeout := if timeout = 0 then 2000000 else timeout, faulted := 0, nextSeq := [], homes := homes,
        parent := parentOf ((homes.map fun h => h.1).foldl addNew []) s.place, extra := [], lost := [], heard := [], job := job }
    s.setTeam id t
  else s

/-- The members that TEAM_CREATE names, and the status of its checks (R371). -/
def State.teamMembers (s : State) (h : CmdHdr) (ps : List Word64) : State × Nat × List Word :=
  let w := fun i => (nthD (0 : Word64) ps i).toNat
  let id := w 0 % 2 ^ 32
  let size := w 0 / 2 ^ 32
  if bitOf (w 1) 63 then
    if !s.unitOk (w 2) then (s, stBAD_UNIT, [])
    else
      let ms := s.unitMembers (id / 2 ^ 19) (w 2)
      (s, s.teamCheck id ms, ms)
  else if size = 0 ∨ 524288 < size then (s, stDENIED, [])
  else
    let y := s.readFor h (w 2) (4 * size)
    let ms := (leWords 4 (fitBytes (4 * size) y.2.data)).map (BitVec.ofNat 32)
    (y.1, if y.2.status ≠ stOK then stDENIED else y.1.teamCheck id ms, ms)

/-- TEAM_CREATE at one package. -/
def State.createHere (s : State) (h : CmdHdr) (ps : List Word64) : State :=
  let w := fun i => (nthD (0 : Word64) ps i).toNat
  let y := s.teamMembers h ps
  (if y.2.1 = stOK then y.1.installTeam (w 0 % 2 ^ 32) y.2.2 (w 1 % 2 ^ 32) h.job.toNat else y.1).finish h 0x0301 y.2.1 []

/-- The places that host members. -/
def State.hostPlaces (s : State) (ms : List Word) : List Nat :=
  (ms.map fun m => ((s.resolveMember m.toNat).getD (0, 0)).1).foldl addNew []

/-- TEAM_CREATE: the entry package checks the members, and every package that hosts one installs the team (R371, log entry 24). -/
def bodyTeamCreate (s : State) (h : CmdHdr) (ps : List Word64) : State :=
  let y := s.teamMembers h ps
  let places := s.hostPlaces y.2.2
  if !h.member ∧ y.2.1 = stOK ∧ places.any (fun p => p != s.place) then y.1.spreadCmd h 0x0301 ps State.createHere places
  else s.createHere h ps

/-- A call of the team is outstanding at a member here (R373). -/
def State.teamBusy (s : State) (id : Nat) : Bool := s.coll.calls.any fun c => c.team == id

/-- TEAM_DESTROY or TEAM_RESET at one package; a member package without the team has nothing to do (log entry 24). -/
def State.teamHere (opcode : Nat) (f : State → Nat → TeamX → State) (s : State) (h : CmdHdr) (ps : List Word64) : State :=
  let id := (nthD (0 : Word64) ps 0).toNat % 2 ^ 32
  match s.team? id with
  | none => s.finish h opcode (if h.member then stOK else stDENIED) []
  | some t =>
    if s.teamBusy id then s.finish h opcode stBUSY []
    else
      let s := f s id t
      ({ s with coll := { s.coll with rounds := s.coll.rounds.filter fun r => r.team != id } }).finish h opcode stOK []

/-- The same at every package of the team (R373). -/
def State.teamAll (s : State) (opcode : Nat) (f : State → Nat → TeamX → State) (h : CmdHdr) (ps : List Word64) : State :=
  match s.team? ((nthD (0 : Word64) ps 0).toNat % 2 ^ 32) with
  | none => s.teamHere opcode f h ps
  | some t =>
    if !h.member ∧ t.places.any (fun p => p != s.place) then s.spreadCmd h opcode ps (State.teamHere opcode f) t.places
    else s.teamHere opcode f h ps

/-- An unknown team answers DENIED (DESIGN CHOICE, log entry 24). -/
def bodyTeamDestroy (s : State) (h : CmdHdr) (ps : List Word64) : State :=
  s.teamAll 0x0302 (fun s id _ => { s with coll := { s.coll with teams := mapErase s.coll.teams id } }) h ps

def bodyTeamReset (s : State) (h : CmdHdr) (ps : List Word64) : State :=
  s.teamAll 0x0303 (fun s id t =>
    s.setTeam id { t with faulted := 0, nextSeq := [], lost := [], extra := [], heard := [], parent := parentOf t.places s.place })
    h ps

/-- The next sequence number of a rank (R378). -/
def TeamX.next (t : TeamX) (r : Nat) : Nat := mapGet 1 t.nextSeq r

/-- Size, FAULTED, and the lowest next sequence number of the members here (log entry 24). -/
def bodyTeamInfo (s : State) (h : CmdHdr) (ps : List Word64) : State :=
  let id := (nthD (0 : Word64) ps 0).toNat % 2 ^ 32
  match s.team? id with
  | none => s.finish h 0x0310 stDENIED []
  | some t =>
    s.finish h 0x0310 stOK [BitVec.ofNat 64 t.members.length, BitVec.ofNat 64 (bit1 (t.faulted != 0)),
      BitVec.ofNat 64 (leastOf ((t.ranksAt s.place).map t.next))]

/-! ### Folds (R385, R386) -/

/-- Format of a floating-point DTYPE, element size (R376). -/
def colFmt (dt : Nat) : Fmt := if dt = 0 then .b64 else if dt = 1 then .b32 else if dt = 2 then .bf16 else .b16
def colSize (dt : Nat) : Nat := if dt = 0 ∨ dt = 5 then 8 else if dt = 2 ∨ dt = 3 then 2 else 4

/-- One fold of two elements. -/
def colFold (dt red a b : Nat) : Nat × Flags :=
  if dt < 4 then
    let f := colFmt dt
    if red = 0 then fAdd f .rne a b
    else if red = 3 then vRamax f [a, b]
    else (fPick f (red == 2) a b, Flags.none)
  else
    let w := 8 * colSize dt
    match red with
    | 0 => ((a + b) % 2 ^ w, Flags.none)
    | 1 => (if signedOf b w < signedOf a w then b else a, Flags.none)
    | 2 => (if signedOf a w < signedOf b w then b else a, Flags.none)
    | 4 => (Nat.land a b, Flags.none)
    | 5 => (Nat.lor a b, Flags.none)
    | _ => (Nat.xor a b, Flags.none)

/-- Elementwise folds of two contributions, with the flags so far. -/
def foldTwo (dt red : Nat) (a b : List Nat × Flags) : List Nat × Flags :=
  let rs := (List.zip a.1 b.1).map fun e => colFold dt red e.1 e.2
  (rs.map fun r => r.1, rs.foldl (fun fl r => fl.or r.2) (a.2.or b.2))

/-- Contributions in their order folded by the canonical pair tree, or left to right (R386). -/
def foldAll (dt red : Nat) (chain : Bool) (xs : List (List Byte)) : List Byte × Nat :=
  let codes := xs.map fun x => (leWords (colSize dt) x, Flags.none)
  let r := match codes with
    | [] => ([], Flags.none)
    | c :: cs => if chain then cs.foldl (foldTwo dt red) c else (pairTree (foldTwo dt red) 20 codes).getD c
  (r.1.flatMap fun c => toBytes c (colSize dt), r.2.bits)

/-- AMAX takes magnitudes of the contributions (R154). -/
def colLeaf (dt red : Nat) (x : List Byte) : List Byte :=
  if dt < 4 ∧ red = 3 then ((leWords (colSize dt) x).flatMap fun c => toBytes (vRamax (colFmt dt) [c]).1 (colSize dt)) else x

/-! ### Call records (R374) -/

def callWord (ws : List Word) (i : Nat) : Nat := (nthD (0 : Word) ws i).toNat
def callOp (ws : List Word) : Nat := bitsOf (callWord ws 0) 31 24
def callType (ws : List Word) : Nat := bitsOf (callWord ws 0) 23 20
def callRed (ws : List Word) : Nat := bitsOf (callWord ws 0) 19 16
def callAligned (ws : List Word) : Bool := bitOf (callWord ws 0) 15
def callArrival (ws : List Word) : Bool := bitOf (callWord ws 0) 14
def callFill (ws : List Word) : Bool := bitOf (callWord ws 0) 13
def callRoot (ws : List Word) : Nat := callWord ws 4
def callCount (ws : List Word) : Nat := callWord ws 5
def callPair (ws : List Word) (i : Nat) : Nat := callWord ws i + callWord ws (i + 1) * 2 ^ 32
def callBulk (ws : List Word) : Bool := decide (4 ≤ callOp ws)
/-- Bytes of the buffers of a bulk call. -/
def callBytes (ws : List Word) : Nat := callCount ws * colSize (callType ws)
def callChunks (ws : List Word) : Nat := (callBytes ws + 0xFFFFF) / 0x100000
def chunkLen (ws : List Word) (c : Nat) : Nat := min 0x100000 (callBytes ws - c * 0x100000)

/-- The fold of a round follows arrival order (R386). -/
def State.arrivalFold (s : State) (t : TeamX) (ws : List Word) : Bool :=
  callArrival ws && decide (callType ws < 4) && callRed ws == 0 && decide (4 < callOp ws ∨ callOp ws = 2) && (s.jobMode t.job).1

/-! ### Accesses of the engine -/

/-- An access of the engine for a member: the rights of a compute die's channel, none else (log entry 24). -/
def State.colReq (s : State) (die addr : Nat) (op : MemOp) : Req :=
  { s.reqOf .pkc 0 addr op with chan := if die < 12 then some (0x20 + die) else none, secure := false }

def State.colRead (s : State) (die ga n : Nat) : State × Reply := s.readWith (s.colReq die 0 (.read n)) ga n

def State.colWrite (s : State) (die ga : Nat) (data : List Byte) (fill : Bool) : State :=
  (s.direct { s.colReq die (gaLocal ga) (.write data) with fill := fill }).1

/-- A call of the package controller has ended (R426, R427). Its word 3, where a member finds its sequence number, names the
tensor that it is about. -/
def State.ctlResult (s : State) (job : Nat) (r : CtlResult) : State :=
  if (mapGet? s.strata job).isNone then s else s.modOpen job fun o => { o with results := o.results ++ [r] }

/-- Bytes of SRC of a member's call. -/
def State.callRead (s : State) (c : CallX) (ofs n : Nat) : State × Reply :=
  match c.own with
  | some (_, buf) => (s, Reply.ok (fitBytes n (buf.drop ofs)))
  | none => s.colRead c.die (callPair c.words 6 + ofs) n

/-- Bytes of DST of a member's call, as written so far. -/
def State.callBack (s : State) (c : CallX) (ofs n : Nat) : State × Reply :=
  match c.own with
  | some (_, buf) => (s, Reply.ok (fitBytes n (buf.drop ofs)))
  | none => s.colRead c.die (callPair c.words 8 + ofs) n

def sameCall (a b : CallX) : Bool := a.team == b.team && a.seq == b.seq && a.rank == b.rank

/-- DST overlaps SRC otherwise than R379 allows: what DST then holds is not defined. -/
def CallX.overlaps (c : CallX) : Bool :=
  let a := callPair c.words 6
  let b := callPair c.words 8
  let n := callBytes c.words
  let atRoot := c.rank == callRoot c.words
  callBulk c.words && (callOp c.words == 6 || atRoot) && decide (a < b + n) && decide (b < a + n) && !(a == b && callOp c.words != 4)

/-- Bytes into DST of a member's call; free values where R379 defines none. -/
def State.callWrite (s : State) (c : CallX) (ofs : Nat) (data : List Byte) : State :=
  match c.own with
  | some _ =>
    let put := fun (x : CallX) => match x.own with
      | some (job, buf) => { x with own := some (job, buf.take ofs ++ data ++ buf.drop (ofs + data.length)) }
      | none => x
    { s with coll := { s.coll with calls := s.coll.calls.map fun x => if sameCall x c then put x else x } }
  | none =>
    if c.overlaps then
      let d := s.draw
      d.2.colWrite c.die (callPair c.words 8 + ofs) (Config.freeBytes d.1 data.length) false
    else s.colWrite c.die (callPair c.words 8 + ofs) data false

/-! ### Completion (R384) -/

/-- A completion record (R384). -/
def colRecord (status seq cgrain result flags survivors : Nat) (sourceLost : Bool) : List Byte :=
  toBytes (status * 65536 + bit1 sourceLost * 8 + flags % 8 / 4 * 4 + flags % 4 / 2 * 2 + flags % 2) 4 ++ toBytes seq 4 ++
    toBytes cgrain 8 ++ toBytes result 8 ++ toBytes survivors 4 ++ toBytes 0 4

/-- An address in the own place, and a range of `n` bytes there. -/
def State.ownAddr (s : State) (ga : Nat) : Bool := gaSpace ga == 0 && gaPlace ga == s.place
def State.ownRange (s : State) (ga n : Nat) : Bool := s.ownAddr ga && decide (gaLocal ga + n ≤ 2 ^ 45)

/-- COMPLETION of a COMP_FILL call is an aligned scratch-window address (R384). -/
def fillOk (ga : Nat) : Bool :=
  ga % 256 == 0 && decide (0x40000000000 ≤ gaLocal ga) && decide (gaLocal ga < 0x40300000000)

/-- Writes the completion record of a member's call. -/
def State.putRecord (s : State) (die : Nat) (ws : List Word) (bytes : List Byte) : State :=
  let ga := callPair ws 10
  if !s.ownAddr ga then s
  else if callFill ws && fillOk ga then s.colWrite die ga (fitBytes 256 bytes) true
  else s.colWrite die ga bytes false

/-- The survivor bitmap (R384). -/
def bitmap (size : Nat) (ranks : List Nat) : List Byte :=
  (List.range ((size + 7) / 8)).map fun i =>
    BitVec.ofNat 8 ((List.range 8).foldl (fun n b => if ranks.contains (8 * i + b) then n + 2 ^ b else n) 0)

/-- A completion with MEMBER_LOST at a member. -/
def State.noteLost (s : State) (status : Nat) : State :=
  if status = stMEMBER_LOST then (s.bump colB COL_LOST.COUNT).colEvent COL_EVENTS.LOST else s

/-- The call closes the step of its die: a vote or a barrier of the run that goes on (R31, R193). -/
def State.closes (s : State) (c : CallX) : Bool :=
  c.own.isNone && decide (c.die < 12) && (s.die c.die).run == c.run && (c.vote || callOp c.words == 1)

/-- The closing barrier or vote of a die's step completes (R31, R192, R193): a late release delays its grain. -/
def State.closeCall (s : State) (c : CallX) (m : ReleaseMsg) : State :=
  if !s.closes c then s
  else
    let cg := max m.cgrain.toNat s.now
    let root := m.cgrain.toNat - 512
    if c.vote then
      s.voteDone c.die m.status (bitOf m.result.toNat 0) (bitOf m.result.toNat 1) root cg m.cgrain.toNat
    else
      (s.modDie c.die fun x => { x with closing := { x.closing with calls := x.closing.calls - 1 } }).closeAt c.die root cg m.cgrain.toNat

/-- A member's call completes: the bitmap first, then the record; one of the package controller ends with it. -/
def State.completeCall (s : State) (c : CallX) (m : ReleaseMsg) : State :=
  let buf := ((s.coll.calls.find? (sameCall c)).bind fun x => x.own).map fun e => e.2
  let s := { s with coll := { s.coll with calls := s.coll.calls.filter fun x => !sameCall x c } }
  let s := s.noteLost m.status
  let s := s.closeCall c m
  let result := if m.status = stOK then m.result.toNat else 0
  match c.own with
  | some e => s.ctlResult e.1 ⟨callOp c.words, callRed c.words, callWord c.words 3, m.status, result, buf.getD []⟩
  | none =>
  if c.vote then s
  else
    let size := ((s.team? c.team).map fun t => t.members.length).getD 0
    let s := if callPair c.words 12 = 0 then s else s.colWrite c.die (callPair c.words 12) (bitmap size m.survivors) false
    s.putRecord c.die c.words (colRecord m.status c.seq m.cgrain.toNat result m.flags m.survivors.length m.sourceLost)

/-- A call that R377 refuses: completed at once at that member alone, with SEQ and CGRAIN 0 (log entry 24). -/
def State.refuseCall (s : State) (die : Nat) (ws : List Word) (vote : Bool) (own : Option (Nat × List Byte)) (status : Nat) :
    State :=
  let s := if status = stDENIED then s.colEvent COL_EVENTS.DENIED else s
  let s := s.noteLost status
  if let some e := own then s.ctlResult e.1 ⟨callOp ws, callRed ws, callWord ws 3, status, 0, e.2⟩
  else if vote then s.voteDone die status false false s.now s.now s.now
  else s.putRecord die ws (colRecord status 0 0 0 0 0 false)

/-! ### Rounds -/

def RoundX.new (team seq : Nat) : RoundX :=
  { team := team, seq := seq, inputs := [], upSent := false, agreed := false, parts := [], sentUp := [], chunks := [],
    written := [], unacked := [], acked := [], done := [], doneSent := false, flags := 0, drifted := [] }

def sameRound (team seq : Nat) (r : RoundX) : Bool := r.team == team && r.seq == seq

def State.round (s : State) (team seq : Nat) : RoundX := (s.coll.rounds.find? (sameRound team seq)).getD (RoundX.new team seq)

def State.setRound (s : State) (r : RoundX) : State :=
  if s.coll.rounds.any (sameRound r.team r.seq) then
    { s with coll := { s.coll with rounds := s.coll.rounds.map fun x => if sameRound r.team r.seq x then r else x } }
  else { s with coll := { s.coll with rounds := s.coll.rounds ++ [r] } }

def State.dropRound (s : State) (team seq : Nat) : State :=
  { s with coll := { s.coll with rounds := s.coll.rounds.filter fun r => !sameRound team seq r } }

/-- Calls of a round at this package, in order of entry. -/
def State.roundCalls (s : State) (team seq : Nat) : List CallX := s.coll.calls.filter fun c => c.team == team && c.seq == seq

/-- The message that a member's own call makes. -/
def callMessage (own : Nat) (c : CallX) : UpMessage :=
  { team := BitVec.ofNat 32 c.team, seq := BitVec.ofNat 32 c.seq, child := own, fingerprint := BitVec.ofNat 64 c.fingerprint,
    mismatches := [], mismatchCount := 0,
    operand := BitVec.ofNat 64 (if callOp c.words = 2 then leNat (colLeaf (callType c.words) (callRed c.words) (toBytes (callPair c.words 14) (colSize (callType c.words)))) else callPair c.words 14),
    flags := 0, ranks := [c.rank], timedOut := false }

/-- Messages ordered by the lowest rank each contains (R385). -/
def insertByRank (m : UpMessage) : List UpMessage → List UpMessage
  | [] => [m]
  | x :: xs => if leastOf m.ranks < leastOf x.ranks then m :: x :: xs else x :: insertByRank m xs

def orderByRank (l : List UpMessage) : List UpMessage := l.foldl (fun acc m => insertByRank m acc) []

/-- What a node passes up for its inputs (R380, R385). -/
def combineInputs (t : TeamX) (ws : List Word) (own : Nat) (chain : Bool) (arrived : List UpMessage) : UpMessage :=
  let ms := orderByRank arrived
  let first : UpMessage := ms.headD (callMessage own ⟨0, 0, 0, 0, 0, ws, 0, 0, false, none, none⟩)
  let differ := fun (m : UpMessage) => decide (m.fingerprint ≠ first.fingerprint)
  let lists := ms.flatMap fun m => (if differ m then [nthD 0 t.members (leastOf m.ranks)] else []) ++ m.mismatches
  let count := ms.foldl (fun n m => n + m.mismatchCount + bit1 (differ m)) 0
  let dt := if callOp ws = 3 then 4 else callType ws
  let red := if callOp ws = 3 then 5 else callRed ws
  let f := foldAll dt red chain ((if chain then arrived else ms).map fun m => toBytes m.operand.toNat (colSize dt))
  let folds := decide (callOp ws = 2 ∨ callOp ws = 3)
  { team := first.team, seq := first.seq, child := own, fingerprint := first.fingerprint, mismatches := lists.take 64,
    mismatchCount := count, operand := if folds then BitVec.ofNat 64 (leNat f.1) else 0,
    flags := ms.foldl (fun fl m => Nat.lor fl m.flags) (if folds then f.2 else 0),
    ranks := ms.flatMap fun m => m.ranks, timedOut := ms.any fun m => m.timedOut }

/-- Counts a node whose arrival order differed, once a round and level (R386). -/
def State.countArrival (s : State) (r : RoundX) (level : Nat) (chain : Bool) (arrived : List Nat) : State × RoundX :=
  let sorted := decide (arrived.zip (arrived.drop 1) |>.all fun e => e.1 ≤ e.2)
  if chain && !sorted && !r.drifted.contains level then
    ((s.bump colB COL_ARRIVAL_FOLDS.COUNT).drift 14 4, { r with drifted := level :: r.drifted })
  else (s, r)

/-- Inputs that a level waits for: at level 0 the live ranks here, above it the own partial and the nodes below. -/
def TeamX.inputsAt (t : TeamX) (own level : Nat) : List Nat :=
  own :: (t.children own).filter fun p => levelOf own p == level

/-- Completes one level where all of its inputs have arrived, or where `force` says that time has run out. -/
def State.levelStep (s : State) (t : TeamX) (ws : List Word) (r : RoundX) (level : Nat) (force : Bool) : State × RoundX :=
  let own := s.place
  if r.inputs.any fun e => e.1 == level + 1 && e.2.child == own then (s, r)
  else
    let here := if level = 0 then (s.roundCalls r.team r.seq).map (callMessage own)
      else (r.inputs.filter fun e => e.1 == level).map fun e => e.2
    let ready := if level = 0 then (t.ranksAt own).all fun k => here.any fun m => m.ranks.contains k
      else (t.inputsAt own level).all fun p => here.any fun m => m.child == p
    if !(ready || force) || here.isEmpty then (s, r)
    else
      let chain := s.arrivalFold t ws && !callBulk ws
      let m := combineInputs t ws own chain here
      let y := s.countArrival r level chain (here.map fun m => leastOf m.ranks)
      (y.1, { y.2 with inputs := y.2.inputs ++ [(level + 1, m)] })

/-- The partial that this package passes up, once it has one. -/
def RoundX.top (r : RoundX) (own : Nat) : Option UpMessage := (r.inputs.find? fun e => e.1 == 4 && e.2.child == own).map fun e => e.2

/-! ### Releases -/

/-- Sends a release to every node below. -/
def State.sendRelease (s : State) (t : TeamX) (m : ReleaseMsg) : State :=
  (t.children s.place).foldl (fun s p => s.colSend (.release p m)) s

/-- A member was lost in the up-pass of the data: bit 3 of the flags that DONE and the release carry (log entry 24). -/
def upLost (flags : Nat) : Bool := bitOf flags 3

/-- Bytes that R392 leaves undefined at a member's destination: everything of a reduction after a loss in the up-pass, else
what was not written. -/
def State.undefineDst (s : State) (r : RoundX) (m : ReleaseMsg) (c : CallX) : State :=
  let n := callChunks c.words
  let all := (List.range n).all r.written.contains
  let has := decide (callOp c.words ≠ 5 ∨ c.rank = callRoot c.words)
  if !callBulk c.words || !has then s
  else
    let whole := decide (callOp c.words ≠ 4) && (upLost m.flags || (!all && !m.sourceLost))
    let lost := (List.range n).filter fun k => whole || !r.written.contains k
    lost.foldl (fun s k =>
      let d := s.draw
      d.2.callWrite c (k * 0x100000) (Config.freeBytes d.1 (chunkLen c.words k))) s

/-- A final release at this package (R382, R384, R392): late or aligned, every member's completion, the team's fault. A late
one that closes a step counts under R31 alone. -/
def State.finalRelease (s : State) (m : ReleaseMsg) : State :=
  let id := m.team.toNat
  let seq := m.seq.toNat
  let r := s.round id seq
  let calls := s.roundCalls id seq
  if calls.isEmpty then s.dropRound id seq else
  let s := if m.status = stCOLL_MISMATCH then (s.bump colB COL_MISMATCH_COUNT.COUNT).colEvent COL_EVENTS.MISMATCH else s
  let s := if m.status = stOK then s else s.modTeam id fun t => { t with faulted := m.status }
  let late := decide (m.cgrain.toNat < s.now) && calls.any fun c => !s.closes c
  let s := if late then
      ((((s.logLate 5 (s.dieUnit 14) 0 m.cgrain.toNat 5).drift 14 5).bump colB COL_LATE.COUNT).colEvent COL_EVENTS.LATE)
    else s
  let s := s.dropRound id seq
  calls.foldl (fun s c =>
    let s := if m.status = stMEMBER_LOST then s.undefineDst r m c else s
    if !c.vote && callAligned c.words && decide (s.now < m.cgrain.toNat) then
      { s with coll := { s.coll with calls := s.coll.calls.map fun x =>
          if x.team = c.team ∧ x.seq = c.seq ∧ x.rank = c.rank then { x with waiting := some m } else x } }
    else s.completeCall c m) s

/-- R549: the detail of a collective fault. -/
def colDetail (id seq cgrain count : Nat) (ids : List Word) : List Word :=
  [BitVec.ofNat 32 id, BitVec.ofNat 32 seq] ++ words64 cgrain ++ [BitVec.ofNat 32 count] ++ (ids ++ [0, 0, 0]).take 3

/-- The root's release of a call that does not go on (R381, R382, R389, R392, R393). -/
def State.rootRelease (s : State) (t : TeamX) (id seq status result flags : Nat) (ranks : List Nat) (srcLost : Bool)
    (count : Nat) (ids : List Word) : State :=
  let m : ReleaseMsg :=
    { team := BitVec.ofNat 32 id, seq := BitVec.ofNat 32 seq, status := status, cgrain := BitVec.ofNat 64 (s.now + 512),
      result := BitVec.ofNat 64 result, flags := flags, sourceLost := srcLost, survivors := ranks, agreement := false }
  let s := if status = stOK then s
    else s.log { status := status, cls := 4, source := if status = stCOLL_MISMATCH then 0 else 5, unit := s.pkgUnit,
                 peer := none, job := t.job, detail := colDetail id seq (s.now + 512) count ids }
  (s.sendRelease t m).finalRelease m

/-! ### Bulk data (R388, R389) -/

/-- Sends the chunks held to a node below, from the lowest, at most 8 unacknowledged. -/
def sendChunks (own id seq child : Nat) (s : State) (r : RoundX) : State × RoundX :=
  r.chunks.foldl (fun (x : State × RoundX) e =>
    let sent := x.2.unacked.contains (child, e.1) || x.2.acked.contains (child, e.1)
    if sent || decide (8 ≤ (x.2.unacked.filter fun u => u.1 == child).length) then x
    else
      (x.1.colSend (.chunk child { team := BitVec.ofNat 32 id, seq := BitVec.ofNat 32 seq, sender := own, up := false,
                                   chunk := e.1, data := e.2 }),
       { x.2 with unacked := x.2.unacked ++ [(child, e.1)] })) (s, r)

def State.sendDown (s : State) (t : TeamX) (r : RoundX) : State :=
  let y := (t.children s.place).foldl (fun (x : State × RoundX) c => sendChunks s.place r.team r.seq c x.1 x.2) (s, r)
  y.1.setRound y.2

/-- A chunk of the result reaches this package: written once to each member with a destination, acknowledged, passed on. One
that was written before only goes to a node that waits for it (R391). -/
def State.chunkDown (s : State) (t : TeamX) (id seq k : Nat) (data : List Byte) : State :=
  let r := s.round id seq
  if r.written.contains k then
    if (t.children s.place).any fun p => !r.unacked.contains (p, k) && !r.acked.contains (p, k) then
      s.sendDown t { r with chunks := mapPut r.chunks k data }
    else s
  else
    let s := (s.roundCalls id seq).foldl (fun s c => s.callWrite c (k * 0x100000) data) s
    let r := { s.round id seq with written := r.written ++ [k] }
    let r := if t.children s.place = [] then r else { r with chunks := mapPut r.chunks k data }
    let s := match t.parent with
      | some p => s.colSend (.chunkAck p id seq k)
      | none => s
    s.sendDown t r

/-- One level of a partial chunk (R385, R388). -/
def State.chunkLevel (s : State) (t : TeamX) (ws : List Word) (r : RoundX) (k level : Nat) : State × RoundX :=
  let own := s.place
  if r.parts.any fun e => e.1 == level + 1 && e.2.1 == own && e.2.2.1 == k then (s, r)
  else
    let here := (r.parts.filter fun e => e.1 == level && e.2.2.1 == k).map fun e => (e.2.1, e.2.2.2)
    if !(t.inputsAt own level).all fun p => here.any fun e => e.1 == p then (s, r)
    else
      let key := fun (e : Nat × List Byte) =>
        match r.inputs.find? fun i => i.1 == level && i.2.child == e.1 with
        | some i => leastOf i.2.ranks
        | none => leastOf (t.ranksAt e.1)
      let chain := s.arrivalFold t ws
      let sorted := ((List.range t.homes.length).flatMap fun k => here.filter fun e => key e == k)
      let f := foldAll (callType ws) (callRed ws) chain ((if chain then here else sorted).map fun e => e.2)
      let y := s.countArrival r level chain (here.map key)
      (y.1, { y.2 with parts := y.2.parts ++ [(level + 1, own, k, f.1)], flags := Nat.lor y.2.flags f.2 })

/-- The package from which the chunks come down is lost: of a BCAST that of the ROOT rank, of an ALLREDUCE the first root of
the tree (R392). -/
def TeamX.sourceLost (t : TeamX) (ws : List Word) : Bool :=
  (callOp ws == 4 && t.lost.contains (nthD (0, 0) t.homes (callRoot ws)).1) ||
    (callOp ws == 6 && t.lost.contains (leastOf t.places))

/-- DONE (R389): passed up, or the final release at the root. -/
def State.doneCheck (s : State) (t : TeamX) (ws : List Word) (id seq : Nat) : State :=
  let r := s.round id seq
  let own := s.place
  let n := callChunks ws
  let kids := t.children own
  let dst := decide (callOp ws ≠ 5) || (s.roundCalls id seq).any fun c => c.rank == callRoot ws
  let local_ := (decide (callOp ws ≠ 5) || (List.range n).all r.sentUp.contains) && (!dst || (List.range n).all r.written.contains)
  let srcLost := t.sourceLost ws
  if !r.agreed || r.doneSent || !(local_ || srcLost) || !kids.all (fun p => r.done.any fun d => d.1 == p) then s
  else
    let ranks := (t.ranksAt own) ++ (r.done.filter fun d => kids.contains d.1).flatMap fun d => d.2
    let s := s.setRound { r with doneSent := true }
    match t.parent with
    | some p => s.colSend (.done p id seq ranks r.flags)
    | none =>
      let lost := decide (ranks.length < t.members.length)
      let gone := (List.range t.members.length).filter fun k => !ranks.contains k
      s.rootRelease t id seq (if lost then stMEMBER_LOST else stOK) 0 r.flags ranks srcLost gone.length (gone.map fun k => nthD 0 t.members k)

/-- Carries partial chunk `k` as far up as its inputs let it. -/
def State.chunkUp (s : State) (t : TeamX) (ws : List Word) (id seq k : Nat) : State :=
  let y := [1, 2, 3].foldl (fun (x : State × RoundX) l => x.1.chunkLevel t ws x.2 k l) (s, s.round id seq)
  let s := y.1.setRound y.2
  let r := y.2
  match r.parts.find? fun e => e.1 == 4 && e.2.1 == s.place && e.2.2.1 == k with
  | none => s
  | some e =>
    if r.sentUp.contains k then s
    else
      let s := s.setRound { r with sentUp := r.sentUp ++ [k] }
      match t.parent with
      | some p =>
        s.colSend (.chunk p { team := BitVec.ofNat 32 id, seq := BitVec.ofNat 32 seq, sender := s.place, up := true,
                              chunk := k, data := e.2.2.2 })
      | none =>
        if callOp ws = 6 then s.chunkDown t id seq k e.2.2.2
        else
          let dst := (s.roundCalls id seq).find? fun c => c.rank == callRoot ws
          match dst with
          | some c =>
            let s := s.callWrite c (k * 0x100000) e.2.2.2
            let r := s.round id seq
            s.setRound { r with written := r.written ++ [k] }
          | none => s.colSend (.chunk (nthD (0, 0) t.homes (callRoot ws)).1
              { team := BitVec.ofNat 32 id, seq := BitVec.ofNat 32 seq, sender := s.place, up := false, chunk := k, data := e.2.2.2 })

/-- Chunk `k` of the members here, folded (R388). -/
def State.localPartial (s : State) (t : TeamX) (ws : List Word) (id seq k : Nat) : State × List Byte × Nat :=
  let byRank := (t.ranksAt s.place).filterMap fun r => (s.roundCalls id seq).find? fun c => c.rank == r
  let chain := s.arrivalFold t ws
  let y := (if chain then s.roundCalls id seq else byRank).foldl (fun (x : State × List (List Byte)) c =>
    let z := x.1.callRead c (k * 0x100000) (chunkLen ws k)
    (z.1, x.2 ++ [colLeaf (callType ws) (callRed ws) (fitBytes (chunkLen ws k) z.2.data)])) (s, [])
  let f := foldAll (callType ws) (callRed ws) chain y.2
  (y.1, f.1, f.2)

/-- The data phase begins at this package (R383, R388). -/
def State.startData (s : State) (t : TeamX) (ws : List Word) (id seq : Nat) : State :=
  let s := s.setRound { s.round id seq with agreed := true }
  let ks := List.range (callChunks ws)
  let s := if callOp ws = 4 then
      match (s.roundCalls id seq).find? fun c => c.rank == callRoot ws with
      | none => s
      | some c =>
        ks.foldl (fun s k =>
          let y := s.callRead c (k * 0x100000) (chunkLen ws k)
          let data := fitBytes (chunkLen ws k) y.2.data
          match t.parent with
          | none => y.1.chunkDown t id seq k data
          | some _ =>
            y.1.colSend (.chunk (leastOf t.live) { team := BitVec.ofNat 32 id, seq := BitVec.ofNat 32 seq, sender := y.1.place,
                                                    up := true, chunk := k, data := data })) s
    else
      ks.foldl (fun s k =>
        let y := s.localPartial t ws id seq k
        let r := y.1.round id seq
        let own := y.1.place
        let c := y.1.countArrival r 0 (y.1.arrivalFold t ws) ((y.1.roundCalls id seq).map fun c => c.rank)
        (c.1.setRound { c.2 with parts := c.2.parts ++ [(1, own, k, y.2.1)], flags := Nat.lor c.2.flags y.2.2 }).chunkUp t ws id seq k) s
  s.doneCheck t ws id seq

/-! ### The round at this package -/

/-- A release reaches this package's nodes: the agreement starts the data phase, any other ends the call. -/
def State.release (s : State) (m : ReleaseMsg) : State :=
  match s.team? m.team.toNat with
  | none => s
  | some t =>
    let s := s.sendRelease t m
    if m.agreement then
      match s.roundCalls m.team.toNat m.seq.toNat with
      | c :: _ => s.startData t c.words m.team.toNat m.seq.toNat
      | [] => s
    else s.finalRelease m

/-- The root holds its result (R381-R383, R392, R393). -/
def State.rootHolds (s : State) (t : TeamX) (ws : List Word) (id seq : Nat) (m : UpMessage) : State :=
  let size := t.members.length
  let gone := (List.range size).filter fun k => !m.ranks.contains k
  let src := m.ranks.contains (callRoot ws)
  if m.mismatchCount ≠ 0 then
    s.rootRelease t id seq stCOLL_MISMATCH 0 0 m.ranks false m.mismatchCount m.mismatches
  else if callBulk ws && !m.timedOut && (gone.isEmpty || (callOp ws == 4 && src)) then
    let a : ReleaseMsg :=
      { team := m.team, seq := m.seq, status := stOK, cgrain := BitVec.ofNat 64 (s.now + 512), result := 0, flags := 0,
        sourceLost := false, survivors := m.ranks, agreement := true }
    (s.sendRelease t a).startData t ws id seq
  else if gone.isEmpty then s.rootRelease t id seq stOK m.operand.toNat m.flags m.ranks false 0 []
  else
    s.rootRelease t id seq stMEMBER_LOST 0 m.flags m.ranks (callOp ws == 4 && !src) gone.length
      (gone.map fun k => nthD 0 t.members k)

/-- Carries a round as far as its inputs let it. -/
def State.advanceRound (s : State) (id seq : Nat) (force : Bool) : State :=
  match s.team? id, s.roundCalls id seq with
  | some t, c :: _ =>
    let r := s.round id seq
    if r.upSent && !force || r.agreed then s
    else
      let own := s.place
      let r := if force then { r with inputs := r.inputs.filter fun e => e.2.child != own } else r
      let y := [0, 1, 2, 3].foldl (fun (x : State × RoundX) l => x.1.levelStep t c.words x.2 l force) (s, r)
      let s := y.1.setRound y.2
      match y.2.top own with
      | none => s
      | some m =>
        let m := { m with timedOut := m.timedOut || force }
        let s := s.setRound { y.2 with upSent := true }
        match t.parent with
        | some p => s.colSend (.up p m)
        | none => s.rootHolds t c.words id seq m
  | _, _ => s

/-! ### Entering a call (R375-R378) -/

/-- R375 and R376 hold. -/
def callOk (ws : List Word) (size : Nat) : Bool :=
  let dt := callType ws
  let red := callRed ws
  let redOk := if dt < 4 then decide (red ≤ 3) else decide (red ≤ 2 ∨ (4 ≤ red ∧ red ≤ 6))
  match callOp ws with
  | 1 => callCount ws == 0
  | 2 => decide (dt < 6) && redOk && callCount ws == 1
  | 4 => decide (dt < 6) && decide (1 ≤ callCount ws) && decide (callRoot ws < size)
  | 5 => decide (dt < 6) && redOk && decide (1 ≤ callCount ws) && decide (callRoot ws < size)
  | 6 => decide (dt < 6) && redOk && decide (1 ≤ callCount ws)
  | _ => false

/-- What a call uses at a member of a team of `size` lies in the own place (R377, R384). -/
def State.callAddrs (s : State) (ws : List Word) (rank size : Nat) : Bool :=
  let atRoot := rank == callRoot ws
  let src := callBulk ws && (callOp ws != 4 || atRoot)
  let dst := callBulk ws && (callOp ws != 5 || atRoot)
  s.ownRange (callPair ws 10) 32 && (!callFill ws || fillOk (callPair ws 10)) &&
    (callPair ws 12 == 0 || s.ownRange (callPair ws 12) ((size + 7) / 8)) &&
    (!src || s.ownRange (callPair ws 6) (callBytes ws)) && (!dst || s.ownRange (callPair ws 8) (callBytes ws))

/-- The fingerprint of a call (R378). -/
def fingerprint (team seq : Nat) (ws : List Word) : Nat :=
  leNat (shake256 (toBytes team 4 ++ toBytes seq 4 ++ toBytes (callCount ws) 4 ++ toBytes (callRoot ws) 4 ++
    toBytes (callOp ws) 1 ++ toBytes (callType ws) 1 ++ toBytes (callRed ws) 1 ++ toBytes (bit1 (callArrival ws)) 1) 8)

/-- A member enters a call (R377, R378); `rec` is where its record lies, `own` the controller's part of a call that it
enters for a member (R415). -/
def State.enterCall (s : State) (die : Nat) (ws : List Word) (vote : Bool) (rec : Option Nat)
    (own : Option (Nat × List Byte)) : State :=
  let id := callWord ws 1
  let member := callWord ws 2
  match s.team? id with
  | none => s.refuseCall die ws vote own stDENIED
  | some t =>
    match (List.range t.members.length).find? fun r => (nthD (0 : Word) t.members r).toNat == member with
    | none => s.refuseCall die ws vote own stDENIED
    | some rank =>
      if s.resolveMember member ≠ some (s.place, die) ∨ (!vote ∧ (!callOk ws t.members.length ∨ (own.isNone ∧ !s.callAddrs ws rank t.members.length))) then
        s.refuseCall die ws vote own stDENIED
      else if 16 ≤ (s.coll.calls.filter fun c => c.team == id && c.rank == rank).length then
        s.refuseCall die ws vote own stQUEUE_FULL
      else if t.faulted ≠ 0 then s.refuseCall die ws vote own t.faulted
      else
        let seq := t.next rank
        let s := s.setTeam id { t with nextSeq := mapPut t.nextSeq rank (seq + 1) }
        let s := match rec with
          | some ga => s.colWrite die (ga + 12) (toBytes seq 4) false
          | none => s
        let closing := decide (die < 12) && own.isNone && (vote || callOp ws == 1)
        let s := if closing && !vote then
            s.modDie die fun x => { x with closing := { x.closing with calls := x.closing.calls + 1 } }
          else s
        let c : CallX :=
          { run := (s.die die).run, team := id, seq := seq, die := die, rank := rank, words := ws, entered := s.now,
            fingerprint := fingerprint id seq ws, vote := vote, waiting := none, own := own }
        let s := (s.bump colB COL_CALLS.COUNT)
        let s := { s with coll := { s.coll with calls := s.coll.calls ++ [c] } }
        let s := if s.coll.rounds.any (sameRound id seq) then s else s.setRound (RoundX.new id seq)
        s.advanceRound id seq false

/-- The engine takes an entry (R377): the record is read in its own place. `op` restricts the entry to records of one OP;
codes that R375 does not list pass every restriction and are refused. -/
def State.takeEntry (s : State) (die rec : Nat) (op : Option Nat) : State :=
  let y := s.colRead die rec 64
  if !s.ownAddr rec ∨ y.2.status ≠ stOK then
    (s.colEvent COL_EVENTS.DENIED).logRefused stDENIED 5 (s.dieUnit 14) s.place 0 (words64 rec)
  else
    let ws := (leWords 4 (fitBytes 64 y.2.data)).map (BitVec.ofNat 32)
    let known := decide (1 ≤ callOp ws) && decide (callOp ws ≤ 6) && callOp ws != 3
    match op with
    | some k => if known && callOp ws != k then s else y.1.enterCall die ws false (some rec) none
    | none => y.1.enterCall die ws false (some rec) none

def execCollBarrier (die : Fin 14) (rec : Word64) (s : State) : Host.Outcome State Fault Refusal :=
  .next (s.takeEntry die rec.toNat (some 1))

def execCollScalar (die : Fin 14) (rec : Word64) (s : State) : Host.Outcome State Fault Refusal :=
  .next (s.takeEntry die rec.toNat (some 2))

def execCollBcast (die : Fin 14) (rec : Word64) (s : State) : Host.Outcome State Fault Refusal :=
  .next (s.takeEntry die rec.toNat (some 4))

def execCollReduce (die : Fin 14) (rec : Word64) (s : State) : Host.Outcome State Fault Refusal :=
  .next (s.takeEntry die rec.toNat (some 5))

def execCollAllreduce (die : Fin 14) (rec : Word64) (s : State) : Host.Outcome State Fault Refusal :=
  .next (s.takeEntry die rec.toNat (some 6))

/-- The record that a refire vote stands for (R191): OP VOTE, I32, OR, operand OVF in bit 0 and UNABLE in bit 1. -/
def voteWords (team member : Nat) (ovf unable : Bool) : List Word :=
  [BitVec.ofNat 32 (3 * 2 ^ 24 + 4 * 2 ^ 20 + 5 * 2 ^ 16), BitVec.ofNat 32 team, BitVec.ofNat 32 member, 0, 0, 1, 0, 0, 0, 0, 0, 0,
    0, 0, BitVec.ofNat 32 (bit1 ovf + 2 * bit1 unable), 0]

/-- The vote of a die that waits for it (R191): team and bits are those of its registers. -/
def State.castVote (s : State) (d team : Nat) (ovf unable : Bool) : State :=
  let b := dsqB d
  let cast := s.coll.calls.any fun c => c.vote && c.die == d && c.run == (s.die d).run
  if !s.flag b TNM_STATUS.VOTING ∨ cast ∨ s.fld b TNM_VOTE_TEAM.TEAM ≠ team ∨ s.flag b TNM_STATUS.STEP_OVF ≠ ovf ∨
      s.flag b TNM_STATUS.UNABLE ≠ unable then s
  else
    let member := match s.team? team with
      | none => 0
      | some t =>
        match (List.range t.members.length).find? fun r => decide (nthD (0, 0) t.homes r = (s.place, d)) with
        | some r => (nthD (0 : Word) t.members r).toNat
        | none => 0
    s.enterCall d (voteWords team member ovf unable) true none none

def execCollVote (d : Fin 12) (team : Word) (ovf unable : Bool) (s : State) : Host.Outcome State Fault Refusal :=
  .next (s.castVote d team.toNat ovf unable)

/-! ### Messages of other nodes -/

/-- A neighbour has been heard (R390). -/
def State.hear (s : State) (id place : Nat) : State := s.modTeam id fun t => { t with heard := mapPut t.heard place s.now }

/-- A node whose message comes without being below by the tree has re-attached here. -/
def State.adopt (s : State) (id child : Nat) : State :=
  s.modTeam id fun t => if (t.children s.place).contains child then t else { t with extra := addNew t.extra child, lost := t.lost.filter (· != child) }

def State.upReceive (s : State) (m : UpMessage) : State :=
  let id := m.team.toNat
  let seq := m.seq.toNat
  match s.team? id with
  | none => s
  | some _ =>
    let s := (s.adopt id m.child).hear id m.child
    let r := s.round id seq
    let level := levelOf s.place m.child
    if r.inputs.any fun e => e.1 == level && e.2.child == m.child && !m.timedOut then s
    else
      let rest := r.inputs.filter fun e => !(e.1 == level && e.2.child == m.child)
      (s.setRound { r with inputs := rest ++ [(level, m)] }).advanceRound id seq m.timedOut

def execUpMessageReceive (m : UpMessage) (s : State) : Host.Outcome State Fault Refusal := .next (s.upReceive m)

def execReleaseReceive (m : ReleaseMsg) (s : State) : Host.Outcome State Fault Refusal :=
  .next (match s.team? m.team.toNat with
    | some t =>
      match t.parent with
      | some p => (s.hear m.team.toNat p).release m
      | none => s
    | none => s)

/-- ALIGNED: the record is written at CGRAIN (R384). -/
def execAlignedCompletion (team seq : Word) (die : Fin 14) (s : State) : Host.Outcome State Fault Refusal :=
  .next (match (s.roundCalls team.toNat seq.toNat).find? fun c => c.die == die.val with
    | none => s
    | some c =>
      match c.waiting with
      | some m => if m.cgrain.toNat ≤ s.now then s.completeCall c m else s
      | none => s)

/-- A chunk on a tree edge (R388): a partial or the source's chunk upward, a chunk of the result downward. -/
def State.chunkReceive (s : State) (m : ChunkMsg) : State :=
  let id := m.team.toNat
  let seq := m.seq.toNat
  match s.team? id, s.roundCalls id seq with
  | some t, c :: _ =>
    let s := s.hear id m.sender
    let r := s.round id seq
    if m.up && callOp c.words != 4 then
      let level := levelOf s.place m.sender
      if r.parts.any fun e => e.1 == level && e.2.1 == m.sender && e.2.2.1 == m.chunk then s
      else
        ((s.setRound { r with parts := r.parts ++ [(level, m.sender, m.chunk, m.data)] }).chunkUp t c.words id seq m.chunk).doneCheck
          t c.words id seq
    else if callOp c.words = 5 then
      match (s.roundCalls id seq).find? fun x => x.rank == callRoot c.words with
      | none => s
      | some x =>
        if r.written.contains m.chunk then s
        else
          let s := s.callWrite x (m.chunk * 0x100000) m.data
          (s.setRound { s.round id seq with written := r.written ++ [m.chunk] }).doneCheck t c.words id seq
    else (s.chunkDown t id seq m.chunk m.data).doneCheck t c.words id seq
  | _, _ => s

def execChunkReceive (m : ChunkMsg) (s : State) : Host.Outcome State Fault Refusal := .next (s.chunkReceive m)

/-- A node below has written chunk `k`; once every node below has, the copy is free (R388). -/
def RoundX.ackChunk (r : RoundX) (kids : List Nat) (child k : Nat) : RoundX :=
  let acked := r.acked ++ [(child, k)]
  { r with unacked := r.unacked.filter (· != (child, k)), acked := acked,
           chunks := if kids.all fun p => acked.contains (p, k) then mapErase r.chunks k else r.chunks }

def execChunkAckReceive (team seq : Word) (child : BitVec 15) (chunk : Nat) (s : State) : Host.Outcome State Fault Refusal :=
  .next (match s.team? team.toNat with
    | none => s
    | some t =>
      let s := s.hear team.toNat child.toNat
      let r := s.round team.toNat seq.toNat
      if r.unacked.contains (child.toNat, chunk) then s.sendDown t (r.ackChunk (t.children s.place) child.toNat chunk) else s)

def execDoneReceive (team seq : Word) (child : BitVec 15) (ranks : List Nat) (flags : Nat) (s : State) :
    Host.Outcome State Fault Refusal :=
  .next (match s.team? team.toNat, s.roundCalls team.toNat seq.toNat with
    | some t, c :: _ =>
      let s := s.hear team.toNat child.toNat
      let r := s.round team.toNat seq.toNat
      if r.done.any fun d => d.1 == child.toNat then s
      else
        (s.setRound { r with done := r.done ++ [(child.toNat, ranks)], flags := Nat.lor r.flags flags }).doneCheck t c.words
          team.toNat seq.toNat
    | _, _ => s)

/-! ### Failure and recovery (R390-R393) -/

/-- A heartbeat of a neighbour, answered in the exchange. -/
def execHeartbeat (team : Word) (peer : BitVec 15) (s : State) : Host.Outcome State Fault Refusal :=
  .next (if (s.team? team.toNat).isSome ∧ s.teamBusy team.toNat then
      (s.hear team.toNat peer.toNat).colSend (.heartbeat peer.toNat team.toNat)
    else s)

/-- A neighbour has been silent for 4,000 grains while a call was outstanding. -/
def State.silent (s : State) (id place : Nat) (t : TeamX) : Bool :=
  let first := leastOf ((s.coll.calls.filter fun c => c.team == id).map fun c => c.entered)
  s.teamBusy id && decide (max (mapGet 0 t.heard place) first + 4000 ≤ s.now)

/-- The parent to turn to with those in `lost` gone (R390): the alternate, then the root, then the root's alternate; none where
this package is the root of what is left. -/
def TeamX.nextParent (t : TeamX) (own : Nat) (lost : List Nat) : Option Nat :=
  match t.alternate own with
  | none => none
  | some a =>
    let root := leastOf t.places
    match [a, root, leastOf (t.places.filter (· != root))].find? fun p => !lost.contains p with
    | some p => if p = own then none else some p
    | none => none

/-- What a node with a new parent sends of a round: RESUME, and its partials and DONE again, where the data phase has begun; the
up-message before (log entry 24). -/
def State.resumeRound (s : State) (id parent : Nat) (r : RoundX) : State :=
  match s.team? id, s.roundCalls id r.seq with
  | some t, c :: _ =>
    if r.agreed then
      let n := callChunks c.words
      let s := s.colSend (.resume parent id r.seq (((List.range n).find? fun k => !r.written.contains k).getD n))
      let s := (r.parts.filter fun e => e.1 == 4 && e.2.1 == s.place && r.sentUp.contains e.2.2.1).foldl (fun s e =>
        s.colSend (.chunk parent { team := BitVec.ofNat 32 id, seq := BitVec.ofNat 32 r.seq, sender := s.place, up := true,
                                   chunk := e.2.2.1, data := e.2.2.2 })) s
      (s.setRound { r with doneSent := false }).doneCheck t c.words id r.seq
    else if r.upSent then
      match r.top s.place with
      | some m => s.colSend (.up parent m)
      | none => s
    else s
  | _, _ => s

/-- A round at the node that is now the root: its own partials are made again with the inputs that come, and a data phase ends
here. -/
def State.takeRoot (s : State) (id : Nat) (r : RoundX) : State :=
  match s.team? id, s.roundCalls id r.seq with
  | some t, c :: _ =>
    if r.agreed then (s.setRound { r with doneSent := false }).doneCheck t c.words id r.seq
    else
      (s.setRound { r with upSent := false, inputs := r.inputs.filter fun e => e.2.child != s.place }).advanceRound id r.seq false
  | _, _ => s

/-- The parent is lost: the node re-attaches (R390). -/
def State.parentLost (s : State) (id : Nat) : State :=
  match s.team? id with
  | none => s
  | some t =>
    match t.parent with
    | none => s
    | some p =>
      if !(s.silent id p t || (s.fabric.unreachable.contains p && s.teamBusy id)) then s
      else
        let lost := addNew t.lost p
        let np := t.nextParent s.place lost
        let s := s.setTeam id { t with parent := np, lost := lost, extra := t.extra.filter (· != p), heard := match np with
            | some q => mapPut t.heard q s.now
            | none => t.heard }
        let s := (s.bump colB COL_REATTACH.COUNT).colEvent COL_EVENTS.REATTACH
        let rounds := s.coll.rounds.filter fun r => r.team == id
        match np with
        | some q => rounds.foldl (fun s r => s.resumeRound id q r) s
        | none => rounds.foldl (fun s r => s.takeRoot id r) s

def execParentLost (team : Word) (s : State) : Host.Outcome State Fault Refusal := .next (s.parentLost team.toNat)

/-- A round after an input was dropped: in its data phase, chunks that the input had not passed up are folded without it, which
is a loss in the up-pass (R392). -/
def State.roundWithout (s : State) (id child : Nat) (r : RoundX) : State :=
  let s := s.advanceRound id r.seq false
  match s.team? id, s.roundCalls id r.seq with
  | some t, c :: _ =>
    if r.agreed then
      let ks := List.range (callChunks c.words)
      let s :=
        if callOp c.words = 4 then s
        else
          let short := ks.any fun k => !r.parts.any fun (e : Nat × Nat × Nat × List Byte) => e.2.1 == child && e.2.2.1 == k
          let q := s.round id r.seq
          let s := if short then s.setRound { q with flags := Nat.lor q.flags 8 } else s
          ks.foldl (fun s k => s.chunkUp t c.words id r.seq k) s
      s.doneCheck t c.words id r.seq
    else s
  | _, _ => s

/-- An input is dropped: its package's members are lost, the nodes below it have 4,000 grains to re-attach, and every round goes
on with what is left (R390). -/
def State.inputLost (s : State) (id child : Nat) : State :=
  match s.team? id with
  | none => s
  | some t =>
    if !(t.children s.place).contains child ∨ !s.silent id child t then s
    else
      let u := { t with lost := addNew t.lost child, extra := t.extra.filter (· != child) }
      let heard := ((u.children s.place).filter fun p => !(t.children s.place).contains p).foldl (fun m p => mapPut m p s.now) u.heard
      let s := s.setTeam id { u with heard := heard }
      (s.coll.rounds.filter fun r => r.team == id).foldl (fun s r => s.roundWithout id child r) s

def execInputLost (team : Word) (child : BitVec 15) (s : State) : Host.Outcome State Fault Refusal :=
  .next (s.inputLost team.toNat child.toNat)

/-- Chunk `k` of a round for the nodes below, where it is held no longer (R391): read again from SRC of the ROOT member where
that is here, from DST of a member here where the call reduces, else asked of the ROOT member's package. -/
def State.fetchChunk (s : State) (t : TeamX) (id seq k : Nat) : State :=
  match s.roundCalls id seq with
  | [] => s
  | c :: _ =>
    let n := chunkLen c.words k
    if callOp c.words = 4 then
      match (s.roundCalls id seq).find? fun c => c.rank == callRoot c.words with
      | some x =>
        let y := s.callRead x (k * 0x100000) n
        y.1.chunkDown t id seq k (fitBytes n y.2.data)
      | none => s.colSend (.fetch (nthD (0, 0) t.homes (callRoot c.words)).1 id seq k)
    else
      let y := s.callBack c (k * 0x100000) n
      y.1.chunkDown t id seq k (fitBytes n y.2.data)

/-- A node that re-attached gets the chunks from the named number onward (R391). -/
def State.resume (s : State) (id seq child chunk : Nat) : State :=
  let s := (s.adopt id child).hear id child
  match s.team? id with
  | none => s
  | some t =>
    if !s.coll.rounds.any (sameRound id seq) then s
    else
      let r := s.round id seq
      let old := (List.range chunk).map fun k => (child, k)
      let others := fun (l : List (Nat × Nat)) => l.filter fun e => e.1 != child
      let r := { r with unacked := others r.unacked, acked := others r.acked ++ old }
      let gone := r.written.filter fun k => decide (chunk ≤ k) && (mapGet? r.chunks k).isNone
      gone.foldl (fun s k => s.fetchChunk t id seq k) (s.sendDown t r)

/-- A package asks for one chunk of SRC of the ROOT member here (R391). -/
def State.serveChunk (s : State) (id seq asker k : Nat) : State :=
  match (s.roundCalls id seq).find? fun c => callOp c.words == 4 && c.rank == callRoot c.words with
  | none => s
  | some c =>
    let n := chunkLen c.words k
    let y := s.callRead c (k * 0x100000) n
    y.1.colSend (.chunk asker { team := BitVec.ofNat 32 id, seq := BitVec.ofNat 32 seq, sender := y.1.place, up := true, chunk := k,
                                data := fitBytes n y.2.data })

/-- RESUME_RECEIVE (R391). -/
def execResumeReceive (team seq : Word) (child : BitVec 15) (ask : ResumeAsk) (s : State) : Host.Outcome State Fault Refusal :=
  .next (if (s.team? team.toNat).isNone then s
    else if ask.fetch then s.serveChunk team.toNat seq.toNat child.toNat ask.chunk
    else s.resume team.toNat seq.toNat child.toNat ask.chunk)

/-- TIMEOUT grains after a member entered (R393): what has entered goes up at once. -/
def State.callTimeout (s : State) (id seq die : Nat) : State :=
  match s.team? id, (s.roundCalls id seq).find? fun c => c.die == die with
  | some t, some c =>
    let r := s.round id seq
    if s.now < c.entered + t.timeout ∨ c.waiting.isSome ∨ r.agreed then s else s.advanceRound id seq true
  | _, _ => s

def execCallTimeout (team seq : Word) (die : Fin 14) (s : State) : Host.Outcome State Fault Refusal :=
  .next (s.callTimeout team.toNat seq.toNat die)

end Sys2Proof.Machine
end

