-- ==== Sys2Proof/Machine/Walk.lean ====
section
/-! DEFINITION. The walk of the load check (R117, R580 step 6): every tile's micro-program from issue cycle 0 without
tag waits, with the port bytes of each cycle (R71), adapter drives (R89), switch arrivals (R82, R86), overlaps
(R115, R143) and seed coverage (R151). -/

namespace Sys2Proof.Machine

/-- A fault of a load: reason, tile (0x3FF for a die-wide one), entry index (R122). -/
structure LoadFault where
  reason : Nat
  tile : Nat
  index : Nat
  deriving DecidableEq, Repr

/-- A tile's part of an image, as the walk reads it. -/
structure WImage where
  tile : Nat
  prog : List Nat
  routes : List Word
  mmas : List MmaDesc
  vprogs : List VProg
  deriving DecidableEq, Repr

/-- A matrix operation in the walk: `fresh` in its issue cycle, its place in the schedule, and cycles of the drain. -/
structure WMma where
  desc : MmaDesc
  bank : Nat
  fresh : Bool
  pos : MmaPos
  drain : Nat
  deriving DecidableEq, Repr

/-- A vector program in the walk: S0, its plan, end cycle. -/
structure WVec where
  s0 : Nat
  sched : List VSched
  instrs : List VInstr
  stop : Nat
  deriving DecidableEq, Repr

/-- A tile in the walk. -/
structure WTile where
  img : WImage
  pc : Nat
  at_ : Nat
  loops : List (Nat × Nat)
  idle : Nat
  ended : Bool
  route : Nat
  mma : Option WMma
  vec : Option WVec
  /-- first and last cycle of the SEND and RECV streams -/
  snd : Option (Nat × Nat)
  rcv : Option (Nat × Nat)
  issues : FMap Nat
  regions : Regions
  seeds : List (Nat × Nat)
  /-- words on the switch inputs this cycle, and on the local output -/
  ins : List SwPort
  out : Bool
  deriving DecidableEq, Repr

def WTile.init (i : WImage) : WTile :=
  { img := i, pc := 0, at_ := 0, loops := [], idle := 0, ended := false, route := 0, mma := none, vec := none,
    snd := none, rcv := none, issues := [], regions := [], seeds := [], ins := [], out := false }

/-! ### Issue -/

/-- Blocks of 65,536 logical elements that a conversion of issue k reaches (R150, R151). -/
def seedBlocks (p : VProg) (r : VecRun) (i : VInstr) : List Nat :=
  let lo := p.indexBase + r.k * p.indexStride + r.indexOfs
  (List.range' (lo / 65536) ((lo + i.len - 1) / 65536 + 1 - lo / 65536)).map fun b => b % 2 ^ 32

/-- The walk issues a VEC: plan, overlaps and seeds (R115, R143, R151). `have_` says whether SEEDS covers a pair. -/
def walkVec (have_ : Nat → Nat → Bool) (used c : Nat) (w : BitVec 128) (x : WTile) : WTile × Option Nat :=
  let n := bitsOf (microA w) 31 24
  match x.img.vprogs[n]? with
  | none => (x, some 0x5)
  | some p =>
    let k := mapGet 0 x.issues n
    let r : VecRun := ⟨n, k, bitsOf (microB w) 31 19, microC w, 0, 0, 0, [], []⟩
    let plan := planProg p k x.regions
    let pairs := ((p.instrs.filter fun i => i.vop == 0x20 && i.round == 4).flatMap (seedBlocks p r)).map fun b => (p.tensor, b)
    let seeds := (x.seeds ++ pairs).eraseDups
    if used < p.slotEnd r then (x, some 0x5)
    else if (match x.vec with
             | some v => decide (c ≤ v.stop)
             | none => false) || plan.fault.isSome || pairs.any (fun e => !have_ e.1 e.2) || decide (16 < seeds.length)
    then (x, some (plan.fault.getD 0xC))
    else
      let stop := c + 1 + plan.sched.foldl (fun m s => max m s.last) 0
      ({ x with vec := some ⟨c + 1, plan.sched, p.instrs, stop⟩, issues := mapPut x.issues n (k + 1), regions := plan.regions,
                seeds := seeds }, none)

/-- A stream that the last one still overlaps. -/
def busyUntil (o : Option (Nat × Nat)) (c : Nat) : Bool :=
  match o with
  | some (_, e) => decide (c < e)
  | none => false

/-- One issue of a tile: the tile after it, and a fault. -/
def walkIssue (have_ : Nat → Nat → Bool) (used c : Nat) (x : WTile) : WTile × Option LoadFault :=
  if x.ended then ({ x with route := 0 }, none)
  else if 0 < x.idle then ({ x with idle := x.idle - 1 }, none)
  else
    match x.img.prog[x.pc]? with
    | none => (x, some ⟨0x5, x.img.tile, x.pc⟩)
    | some word =>
      let w : BitVec 128 := BitVec.ofNat 128 word
      let y := { x with route := microRoute w, pc := x.pc + 1, at_ := x.pc }
      let bad := fun (r : Nat) => (y, some (⟨r, x.img.tile, x.pc⟩ : LoadFault))
      let a := microA w
      let ctr := bitsOf a 31 29
      match microOp w with
      | 0x01 => ({ y with ended := true }, none)
      | 0x02 => ({ y with idle := bitsOf a 15 0 }, none)
      | 0x03 => ({ y with loops := (ctr, microB w) :: y.loops.filter fun e => e.1 != ctr }, none)
      | 0x04 =>
        match y.loops.find? fun e => e.1 == ctr with
        | none => bad 0x5
        | some (_, 0) => (y, none)
        | some (_, v + 1) => ({ y with pc := bitsOf a 9 0, loops := (ctr, v) :: y.loops.filter fun e => e.1 != ctr }, none)
      | 0x10 =>
        match y.img.mmas[bitsOf a 31 24]? with
        | none => bad 0x5
        | some m =>
          if y.mma.isSome then bad 0x5
          else ({ y with mma := some ⟨m, bitsOf a 23 23, true, ⟨0, none, 0⟩, 0⟩ }, none)
      | 0x20 =>
        match walkVec have_ used c w y with
        | (z, none) => (z, none)
        | (_, some r) => bad r
      | 0x30 =>
        let n := bitsOf a 18 6
        if busyUntil y.snd c then bad 0x5 else ({ y with snd := some (c + 1, c + 2 * n) }, none)
      | 0x31 =>
        let n := bitsOf a 18 6
        if busyUntil y.rcv c then bad 0x5 else ({ y with rcv := some (c + 1, c + 2 * n) }, none)
      | _ => (y, none)

/-! ### What a cycle uses -/

def streaming (o : Option (Nat × Nat)) (c : Nat) : Bool :=
  match o with
  | some (s, e) => decide (s ≤ c) && decide (c ≤ e)
  | none => false

/-- The program takes a word of the local output in the cycle; it places one on the local input (R140). -/
def vecWords (v : WVec) (c : Nat) : Bool × Bool :=
  v.sched.foldl (fun acc s =>
    let takes := decide (v.s0 + s.s ≤ c) && decide (c < v.s0 + s.s + s.c) && s.takes (c - v.s0 - s.s)
    let puts := decide (v.s0 + s.s + s.l ≤ c) && decide (c < v.s0 + s.s + s.c + s.l) && s.puts (c - v.s0 - s.s - s.l)
    (acc.1 || takes, acc.2 || puts)) (false, false)

/-- A row enters the array; a W block loads. -/
def WMma.rowNow (m : WMma) : Bool := m.pos.row m.desc
def WMma.loads (m : WMma) : Bool := !m.fresh && m.pos.loads m.desc

/-- Advances the operation by a cycle in which the port lets it have `spare` bytes beside the others; none once it is
over (R83, R84). -/
def WMma.tick (m : WMma) (spare : Nat) : Option WMma :=
  if m.fresh then some { m with fresh := false }
  else if !m.pos.done m.desc then some { m with pos := m.pos.next m.desc spare }
  else if m.drain + 1 < latencyOf m.desc.fmt m.desc.step then some { m with drain := m.drain + 1 }
  else none

/-- A program that writes the bank reads or writes it in the cycle (R85, R143): reads in the cycles of their chunks, writes L
cycles later. -/
def WVec.usesBank (v : WVec) (bank c : Nat) : Bool :=
  let ops := List.zip v.instrs v.sched
  let writes := fun (i : VInstr) => !scalarResult i.vop && i.dst == 4 + bank
  (ops.any fun e => writes e.1) && ops.any fun e =>
    (e.1.sources.contains (4 + bank) && decide (v.s0 + e.2.s ≤ c) && decide (c < v.s0 + e.2.s + e.2.c)) ||
      (writes e.1 && decide (v.s0 + e.2.s + e.2.l ≤ c) && decide (c ≤ v.s0 + e.2.last))

/-- The faults of a tile's cycle: words owed (R82), ports (R71), bank use (R143). -/
def walkCheck (c : Nat) (x : WTile) : Option LoadFault :=
  let bad := fun (r : Nat) => some (⟨r, x.img.tile, x.at_⟩ : LoadFault)
  let vp := match x.vec with
    | some v => vecPorts v.s0 v.sched c
    | none => (0, 0)
  let vw := match x.vec with
    | some v => vecWords v c
    | none => (false, false)
  let send := if streaming x.snd c then 128 else 0
  let row := match x.mma with
    | some m => if m.rowNow && m.desc.aSrc == 0 then m.desc.rowBytes else 0
    | none => 0
  let owed := match x.mma with
    | some m =>
      (m.rowNow && m.desc.aSrc != 0 && !(x.ins.any fun p => p.code == m.desc.aSrc)) ||
        (m.loads && m.desc.wSrc != 0 && !(x.ins.any fun p => p.code == m.desc.wSrc))
    | none => false
  let banks := match x.mma, x.vec with
    | some m, some v => !m.fresh && v.usesBank m.bank c
    | _, _ => false
  if 256 < row + send + vp.1 ∨ 256 < (if streaming x.rcv c then 128 else 0) + vp.2 then bad 0x8
  else if owed || ((streaming x.rcv c || vw.1) && !x.out) then bad 0xA
  else if banks then bad 0xC
  else none

/-! ### Words and adapters -/

/-- The inputs that carry a word this cycle: what neighbours sent and what SEND or the engine places. -/
def localIn (c : Nat) (x : WTile) : Bool :=
  streaming x.snd c || (match x.vec with
    | some v => (vecWords v c).2
    | none => false)

/-- The words that leave a tile: neighbours' inputs, and whether its local output carries one next cycle. -/
def walkMoves (x : WTile) : List (Nat × SwPort) × Bool :=
  let r := nthD 0 x.img.routes x.route
  let outs := x.ins.flatMap fun p => routeOuts r p.code
  (outs.filterMap (neighbour x.img.tile), outs.contains .loc)

/-- More than 15 edge tiles drive one adapter (R89). -/
def overDriven (xs : List WTile) : Option Nat :=
  let drives := fun (p : WTile → Bool) => xs.filter p
  let sel := fun (x : WTile) (o : SwPort) => routeSel (nthD 0 x.img.routes x.route) o != 0
  let sets := [drives fun x => x.img.tile % 32 == 0 && sel x .w, drives fun x => x.img.tile % 32 == 31 && sel x .e,
    drives fun x => decide (736 ≤ x.img.tile) && sel x .s]
  (sets.find? fun l => decide (15 < l.length)).bind fun l => l.head?.map fun x => x.img.tile

/-- The fault with the lowest reason, then the lowest tile (R580). -/
def worstFault (fs : List LoadFault) : Option LoadFault :=
  fs.foldl (fun b f => match b with
    | none => some f
    | some g => if f.reason < g.reason ∨ (f.reason = g.reason ∧ f.tile < g.tile) then some f else some g) none

/-- A tile goes on to the next cycle with the words that reach it. -/
def walkNext (c : Nat) (moves : List (Nat × SwPort)) (x : WTile) : WTile :=
  let vp := match x.vec with
    | some v => (vecPorts v.s0 v.sched c).1
    | none => 0
  let send := if streaming x.snd c then 128 else 0
  { x with
    ins := (moves.filter fun e => e.1 == x.img.tile).map (·.2), out := (walkMoves x).2,
    mma := x.mma.bind fun m => m.tick (256 - vp - send),
    vec := x.vec.bind fun v => if v.stop ≤ c then none else some v }

/-- The result of a walk: the first fault, or the issue cycle of the last END and the tiles. -/
structure WalkEnd where
  fault : Option LoadFault
  count : Nat
  tiles : List WTile
  deriving DecidableEq, Repr

def walkBusy (c : Nat) (x : WTile) : Bool :=
  !x.ended || x.mma.isSome || x.vec.isSome || streaming x.snd c || streaming x.rcv c

/-- Walks from cycle `c`. `left` bounds the cycles in which a tile may still issue (R117), `fuel` all cycles. -/
def walkFrom (have_ : Nat → Nat → Bool) (used bound : Nat) : Nat → Nat → Nat → List WTile → WalkEnd
  | 0, _, count, xs => ⟨none, count, xs⟩
  | fuel + 1, c, count, xs =>
    if bound < c ∧ xs.any (fun x => !x.ended) then
      ⟨(xs.find? fun x => !x.ended).map fun x => ⟨0xB, x.img.tile, 0⟩, count, xs⟩
    else
      let issued := xs.map (walkIssue have_ used c)
      let ys := (issued.map (·.1)).map fun x => if localIn c x then { x with ins := .loc :: x.ins } else x
      let excess := match overDriven ys with
        | some t => [LoadFault.mk 0x9 t 0]
        | none => []
      let faults := issued.filterMap (·.2) ++ ys.filterMap (walkCheck c) ++ excess
      match worstFault faults with
      | some f => ⟨some f, count, ys⟩
      | none =>
        let count := if (List.zip xs ys).any (fun p => !p.1.ended && p.2.ended) then c else count
        let moves := ys.flatMap fun x => (walkMoves x).1
        let zs := ys.map (walkNext c moves)
        if zs.any (walkBusy (c + 1)) then walkFrom have_ used bound fuel (c + 1) count zs else ⟨none, count, zs⟩

/-- The walk of an image's tiles; a load never needs more cycles than this fuel for a step of at most 2^40. -/
def walk (have_ : Nat → Nat → Bool) (used steps : Nat) (is : List WImage) : WalkEnd :=
  walkFrom have_ used steps (steps + 2 ^ 42) 0 0 (is.map WTile.init)

end Sys2Proof.Machine
end

