-- ==== Sys2Proof/Machine/LoadCheck.lean ====
section
/-! DEFINITION. The load-time checks of a mould image (R106-R110, R115, R117, R122, R578-R580) up to the seeds of a
slot (R59, R151). A fault is a reason with the tile and the entry index that R122 reports. -/

namespace Sys2Proof.Machine

/-! ### The header and the digests (R106, R580 steps 1 and 2) -/

def noTile : Nat := 0x3FF

/-- STEP_CYCLES of an image. -/
def imgSteps (img : List Byte) : Nat := wordAt img 24 + wordAt img 28 * 2 ^ 32
def imgId (img : List Byte) : Nat := wordAt img 32 + wordAt img 36 * 2 ^ 32
def imgTrailer (img : List Byte) : List Byte := img.drop (img.length - 32)

/-- R106: the header of an image of `total` bytes as the command gives it; a reason, or none. TOTAL_BYTES below 96, a header
and a trailer, is out of range too (DESIGN CHOICE, log entry 37). -/
def headerFault (img : List Byte) (total : Nat) : Option Nat :=
  let w := fun i => wordAt img (4 * i)
  if w 0 ≠ 0x4D4C4431 ∨ w 1 ≠ 0x00010010 ∨ w 4 / 8192 ≠ 0 ∨ w 5 ≠ 0 ∨ (List.range 5).any (fun i => w (11 + i) != 0) then
    some 0x1
  else if w 2 ≠ total ∨ total < 96 ∨ 768 < w 3 % 65536 ∨ w 4 = 0 ∨ 5120 < w 4 ∨ imgSteps img = 0 ∨ 2 ^ 40 < imgSteps img
  then some 0x2
  else none

/-- The trailer digest, then the expected digest (R106, R119). -/
def digestFault (img expect : List Byte) : Option Nat :=
  if shake256 (img.take (img.length - 32)) 32 ≠ imgTrailer img then some 0x3
  else if expect.any (· != 0) && expect != imgTrailer img then some 0x4
  else none

/-! ### The section table (R107, R580 step 3) -/

/-- Per tile, entry size (0 by entry), least and most entries. -/
def sectionSpec (ty : Nat) : Option (Bool × Nat × Nat × Nat) :=
  match ty with
  | 1 => some (true, 16, 1, 1024)
  | 2 => some (true, 4, 1, 16)
  | 3 => some (true, 32, 0, 256)
  | 4 => some (true, 0, 0, 256)
  | 5 => some (true, 32, 0, 256)
  | 6 => some (false, 16, 0, 4096)
  | 7 => some (false, 16, 0, 4096)
  | _ => none

/-- The sum of ENTRY_BYTES of `n` entries; none where an entry runs past the body. -/
def entrySum : Nat → List Byte → Option Nat
  | 0, _ => some 0
  | n + 1, bs =>
    let e := entryBytes bs
    if bs.length < 4 ∨ e = 0 ∨ bs.length < e then none else (entrySum n (bs.drop e)).map (e + ·)

/-- Section `i` of the table. -/
def sectionAt (img : List Byte) (i : Nat) : Section :=
  let o := wordAt img 40 + 16 * i
  { ty := wordAt img o / 65536, tile := wordAt img o % 65536, ofs := wordAt img (o + 4), len := wordAt img (o + 8),
    count := wordAt img (o + 12) }

def sectionOk (img : List Byte) (before : List Section) (e : Section) : Bool :=
  match sectionSpec e.ty with
  | none => false
  | some (perTile, size, lo, hi) =>
    (if perTile then decide (e.tile < 768) else e.tile == 0xFFFF) && decide (lo ≤ e.count) && decide (e.count ≤ hi) &&
      decide (64 ≤ e.ofs) && decide (e.ofs + e.len + 32 ≤ img.length) &&
      !before.any (fun b => b.ty == e.ty && b.tile == e.tile) &&
      (if size = 0 then decide (entrySum e.count ((img.drop e.ofs).take e.len) = some e.len) else e.len == size * e.count)

/-- The sections from entry `i` on after `before`, or the first fault. -/
def readTable (img : List Byte) : Nat → Nat → List Section → Except LoadFault (List Section)
  | 0, _, acc => .ok acc
  | n + 1, i, acc =>
    let e := sectionAt img i
    if sectionOk img acc e then readTable img n (i + 1) (acc ++ [e])
    else .error ⟨0x2, if e.tile < 768 then e.tile else noTile, i⟩

/-- The table of an image, and TILE_COUNT. A table that begins in the header or reaches into the trailer is a section-table
fault of entry 0 (DESIGN CHOICE, log entry 37). -/
def sectionTable (img : List Byte) : Except LoadFault (List Section) :=
  let n := wordAt img 12 / 65536
  let ofs := wordAt img 40
  if ofs < 64 ∨ img.length < ofs + 16 * n + 32 then .error ⟨0x2, noTile, 0⟩
  else
    match readTable img n 0 [] with
    | .error f => .error f
    | .ok es =>
      if ((es.filter fun e => e.ty ≤ 5).map (·.tile)).eraseDups.length = wordAt img 12 % 65536 then .ok es
      else .error ⟨0x2, noTile, 0⟩

/-! ### Die-wide sections (R579, R580 step 4) -/

def layoutEntryOk (used : Nat) (b : List Byte) : Bool :=
  let w1 := wordAt b 4
  let w2 := wordAt b 8
  w1 % 8 == 0 && w2 % 4096 == 0 && wordAt b 12 == 0 && bitsOf w1 5 4 != 3 && bitsOf w1 18 6 != 0 &&
    decide (bitsOf w1 31 19 + bitsOf w1 18 6 ≤ used) && decide (bitsOf w2 31 22 ≤ bitsOf w2 21 12) &&
    decide (bitsOf w2 21 12 < 768)

def seedEntryOk (b : List Byte) : Bool :=
  wordAt b 12 == 0 && wordAt b 8 != 0 && decide (wordAt b 4 + wordAt b 8 ≤ 2 ^ 32)

/-- The first entry of a section that fails `ok`. -/
def SlotX.firstBad (x : SlotX) (ty tile size : Nat) (ok : List Byte → Bool) : Option Nat :=
  match x.sec? ty tile with
  | none => none
  | some e => (List.range e.count).find? fun i => !ok (x.entry e size i)

def SlotX.dieWideFault (x : SlotX) : Option LoadFault :=
  match x.firstBad 6 0xFFFF 16 (layoutEntryOk x.slotsUsed) with
  | some i => some ⟨0xD, noTile, i⟩
  | none => (x.firstBad 7 0xFFFF 16 seedEntryOk).map fun i => ⟨0xD, noTile, i⟩

/-! ### Per-tile sections (R580 step 5) -/

/-- The first of several checks that faults. -/
def firstFault {α β : Type} (f : α → Option β) : List α → Option β
  | [] => none
  | x :: r => match f x with
    | some y => some y
    | none => firstFault f r

/-- An input that carries nothing at a tile, as selector or source code (R88). -/
def deadInput (t sel : Nat) : Bool :=
  (sel == 1 && decide (t < 32)) || (sel == 4 && t % 32 == 0) || (sel == 2 && t % 32 == 31) || (sel == 3 && decide (736 ≤ t))

/-- R88, R108. -/
def routeOk (t w : Nat) : Bool :=
  let sels := [bitsOf w 14 12, bitsOf w 11 9, bitsOf w 8 6, bitsOf w 5 3, bitsOf w 2 0]
  decide (w < 2 ^ 15) && sels.all (fun x => decide (x < 6) && !deadInput t x) && !(decide (t < 32) && bitsOf w 14 12 != 0)

/-- Bytes of packed elements (R36). -/
def packedOf (f : Fmt) (n : Nat) : Nat := packedLen f n

/-- One past the highest slot that the read of a descriptor touches, without listing every row: each of its ranges
grows with the row or block number (R578). -/
def MmaDesc.slotEnd (x : MmaDesc) : Nat :=
  let ends := fun (base stride n len : Nat) => if n = 0 ∨ len = 0 then 0 else (base * 256 + stride * (n - 1) + len - 1) / 256 + 1
  max (max (if x.aSrc = 0 then ends x.aSlot x.aStride x.m (x.kBlocks * x.rowElems) else 0)
        (if x.aSrc = 0 ∧ x.scaled then ends x.aScaleSlot x.aScaleStride x.m (x.kBlocks * x.rowScales) else 0))
    (max (if x.wSrc = 0 then ends x.wSlot x.wStride x.passes x.blockElems else 0)
      (if x.wSrc = 0 ∧ x.scaled then ends x.wScaleSlot x.wScaleStride x.passes x.blockScales else 0))

/-- R110, R578: the reason of a descriptor of tile `t`, or none. -/
def mmaFault (t used : Nat) (b : List Byte) : Option Nat :=
  let w := fun i => wordAt b (4 * i)
  let x := mmaDesc ((List.range 8).map fun i => BitVec.ofNat 32 (w i))
  let ac := bitsOf (w 0) 31 28
  let scaleOk := x.fmt == .e5m2 || x.fmt == .e4m3 || x.fmt == .e2m1
  if ac ≠ bitsOf (w 0) 27 24 ∨ bitOf (w 0) 23 ≠ bitOf (w 0) 22 ∨ 8 < ac ∨ bitsOf (w 0) 11 0 ≠ 0 ∨ w 3 % 64 ≠ 0 ∨
      w 4 % 64 ≠ 0 ∨ w 6 ≠ 0 ∨ w 7 ≠ 0 ∨ (x.step ∧ (x.fmt = .i8 ∨ x.fmt = .i4)) ∨ (x.scaled ∧ !scaleOk) then some 0x6
  else if x.m = 0 ∨ 2048 < x.m ∨ x.n = 0 ∨ bankEntries x.fmt < x.m * ncOf x.fmt ∨ (x.scaled ∧ x.kStart % 32 ≠ 0) then some 0x6
  else if 5 ≤ x.aSrc ∨ 5 ≤ x.wSrc ∨ deadInput t x.aSrc ∨ deadInput t x.wSrc then some 0x6
  else if (x.aSrc = 0 ∧ (x.aStride < packedOf x.fmt x.k ∨ (x.scaled ∧ x.aStride * x.perByte % 32 ≠ 0))) ∨
      (x.wSrc = 0 ∧ (x.wStride < x.blockElems ∨ (x.scaled ∧ x.wStride * x.perByte % 32 ≠ 0))) ∨ used < x.slotEnd then some 0x6
  else if 4 ≤ bitsOf (w 0) 20 18 then some 0x7
  else none

/-- R132-R143: the reason of a vector program taken alone, or none; of several the lowest (R580). -/
def vprogFault (bs : List Byte) : Option Nat :=
  if (vProg bs).instrs.any (·.badRound) then some 0x7
  else if !progLayoutOk bs then some 0xC else (planProg (vProg bs) 0 []).fault

/-- Slots that a REQ names from SLOT (R357). -/
def ReqDesc.slots (x : ReqDesc) : Nat :=
  if x.op = opREAD then ceilDiv x.len 256 else if x.op = opWRITE then 2 else 1

/-- Operand bits that each opcode names (R111, R114, R134); none for a reserved opcode. -/
def operandBits (op : Nat) : Option (Nat × Nat × Nat) :=
  match op with
  | 0x00 | 0x01 => some (0, 0, 0)
  | 0x02 => some (0x0000FFFF, 0, 0)
  | 0x03 => some (0xE0000000, 0xFFFFFFFF, 0)
  | 0x04 => some (0xE00003FF, 0, 0)
  | 0x10 => some (0xFFC00000, 0, 0)
  | 0x20 => some (0xFF000000, 0xFFF80000, 0xFFFFFFFF)
  | 0x30 | 0x31 => some (0xFFFFFFC0, 0, 0)
  | 0x38 => some (0xFFFFF800, 0xFFFFFFFF, 0)
  | 0x3C => some (0xFFFFFFC3, 0, 0)
  | _ => none

/-- Entries of a section of a tile. -/
def SlotX.countOf (x : SlotX) (ty t : Nat) : Nat := match x.sec? ty t with
  | none => 0
  | some e => e.count

/-- The micro-instructions of a tile; one END where the tile has no PROGRAM (R108). -/
def SlotX.progOf (x : SlotX) (t : Nat) : List Nat :=
  match x.sec? 1 t with
  | none => [2 ^ 120]
  | some e => (List.range e.count).map fun i => leNat (x.entry e 16 i)

/-- R115, what an entry of a program decides: true where it is well formed. -/
def SlotX.microOk (x : SlotX) (t : Nat) (prog : List Nat) (word : Nat) : Bool :=
  let w : BitVec 128 := BitVec.ofNat 128 word
  let a := microA w
  let used := x.slotsUsed
  let extra := fun (v mask : Nat) => Nat.land v (Nat.xor mask 0xFFFFFFFF) == 0
  match operandBits (microOp w) with
  | none => false
  | some (ma, mb, mc) =>
    extra a ma && extra (microB w) mb && extra (microC w) mc && bitsOf word 112 96 == 0 && decide (bitsOf word 114 113 < 2) &&
      (match microOp w with
       | 0x04 => decide (bitsOf a 9 0 < prog.length) &&
           prog.any fun v => v / 2 ^ 120 == 3 && bitsOf v 95 93 == bitsOf a 31 29
       | 0x10 => decide (bitsOf a 31 24 < x.countOf 3 t)
       | 0x20 => decide (bitsOf a 31 24 < x.countOf 4 t)
       | 0x30 | 0x31 => decide (bitsOf a 31 19 + max 1 (bitsOf a 18 6) ≤ used)
       | 0x3C => decide (a % 4 < 2) && decide (bitsOf a 31 19 + max 1 (bitsOf a 18 6) ≤ used)
       | 0x38 =>
         match x.reqWords t (bitsOf a 31 24) with
         | none => false
         | some ws => decide (bitsOf a 23 11 + (reqDesc ws).slots ≤ used)
       | _ => true)

/-- The vector programs of a tile as byte strings. -/
def SlotX.vprogBytes (x : SlotX) (t : Nat) : List (List Byte) :=
  match x.sec? 4 t with
  | none => []
  | some e => (List.range e.count).map fun i => progBytes i ((x.image.drop e.ofs).take e.len)

def SlotX.entriesOf (x : SlotX) (ty t size : Nat) : List (List Byte) :=
  match x.sec? ty t with
  | none => []
  | some e => (List.range e.count).map (x.entry e size)

/-- The first fault of a list of entries. -/
def entryFault (t : Nat) (f : List Byte → Option Nat) (bs : List (List Byte)) : Option LoadFault :=
  firstFault (fun p : List Byte × Nat => (f p.1).map fun r => ⟨r, t, p.2⟩) bs.zipIdx

/-- The checks of one tile in the order of R580. -/
def SlotX.tileFault (x : SlotX) (t : Nat) : Option LoadFault :=
  let prog := x.progOf t
  (entryFault t (fun b => if routeOk t (leNat b) then none else some 0x9) (x.entriesOf 2 t 4)).or <|
  (entryFault t (mmaFault t x.slotsUsed) (x.entriesOf 3 t 32)).or <|
  (entryFault t vprogFault (x.vprogBytes t)).or <|
  (entryFault t (fun b => if (reqDesc ((leWords 4 b).map (BitVec.ofNat 32))).accepted true then none else some 0xC)
    (x.entriesOf 5 t 32)).or
  (firstFault (fun p : Nat × Nat => if x.microOk t prog p.1 then none else some ⟨0x5, t, p.2⟩) prog.zipIdx)

/-- Tiles with a section, ascending. -/
def SlotX.tilesOf (x : SlotX) : List Nat :=
  (List.range 768).filter fun t => x.sections.any fun e => decide (e.ty ≤ 5) && e.tile == t

/-! ### The walk (R580 steps 6 and 7) -/

def SlotX.walkImage (x : SlotX) (t : Nat) : WImage :=
  { tile := t, prog := x.progOf t, routes := x.routesOf t,
    mmas := (x.entriesOf 3 t 32).map fun b => mmaDesc ((leWords 4 b).map (BitVec.ofNat 32)),
    vprogs := (x.vprogBytes t).map vProg }

/-- SEEDS covers a (tensor, block) pair (R151). -/
def SlotX.covers (x : SlotX) (tensor block : Nat) : Bool :=
  (x.entriesOf 7 0xFFFF 16).any fun b =>
    wordAt b 0 == tensor && decide (wordAt b 4 ≤ block) && decide (block < wordAt b 4 + wordAt b 8)

/-- The tiles that the walk follows; a tile without PROGRAM issues its one END in cycle 0. -/
def SlotX.walked (x : SlotX) : List Nat := match x.tilesOf with
  | [] => [0]
  | ts => ts

def SlotX.walkResult (x : SlotX) : WalkEnd := walk x.covers x.slotsUsed (imgSteps x.image) (x.walked.map x.walkImage)

/-- The seeds that a tile's conversions reach (R59, R151). -/
def seedsOf (job : Nat) (w : WTile) : List SeedEntry :=
  w.seeds.map fun e =>
    { tile := w.img.tile, tensor := e.1, block := e.2, seeds := (List.range 64).map (seedOf job e.1 e.2) }

/-- Every check of CHECKING: the slot with sections and seeds and the checked count, or the first fault with the count
where the walk gave one. `stay` names the die where R197 applies: its conditions are checked after step 5 of every tile and
before the walk. A STEP_CYCLES mismatch is reported with TILE 0x3FF and INDEX 0, the END bound with the first tile that has
not ended and INDEX 0, an overdriven adapter with the lowest tile that drives it and INDEX 0 (DESIGN CHOICE, log entry 37). -/
def SlotX.check (x : SlotX) (stay : Option (Nat × Nat)) : Except (LoadFault × Nat) (SlotX × Nat) :=
  match sectionTable x.image with
  | .error f => .error (f, 0)
  | .ok es =>
    let x := { x with sections := es }
    match x.dieWideFault.or (firstFault x.tileFault x.tilesOf) with
    | some f => .error (f, 0)
    | none =>
      match stay.bind fun p => x.leaves p.1 p.2 with
      | some f => .error (⟨f.1, f.2.1, f.2.2⟩, 0)
      | none =>
        let r := x.walkResult
        match r.fault with
        | some f => .error (f, r.count)
        | none =>
          if r.count ≠ imgSteps x.image then .error (⟨0xB, noTile, 0⟩, r.count)
          else .ok ({ x with seeds := r.tiles.flatMap (seedsOf x.jobSeed) }, r.count)

/-- The status that R122 gives a reason. -/
def reasonStatus (reason : Nat) : Nat :=
  if reason = 1 ∨ reason = 2 then stBAD_LENGTH else if reason = 3 ∨ reason = 4 then stDIGEST_BAD else stDENIED

/-- Reply parameters of R122. -/
def mouldReply (reason tile index cycles : Nat) : List Word64 :=
  [BitVec.ofNat 64 (reason * 2 ^ 48 + tile % 1024 * 2 ^ 38 + index % 8192 * 2 ^ 25), BitVec.ofNat 64 cycles]

end Sys2Proof.Machine
end

