-- ==== Sys2Proof/Machine/Mould.lean ====
section
/-! DEFINITION. Moulds in their slots: MOULD_LOAD and its phases (R119-R122), MOULD_EVICT (R123) and MOULD_SWITCH
(R128). -/

namespace Sys2Proof.Machine

/-- A valid task names the slot. -/
def State.slotNamed (s : State) (d sl : Nat) : Bool :=
  (List.range 16).any fun n => s.taskValid d n && s.tsk d n TSK_CFG.SLOT == sl

def State.slotBusy (s : State) (d sl : Nat) : Bool :=
  s.slotState d sl == slACTIVE || s.slotState d sl == slLOADING || s.slotState d sl == slCHECKING

/-- A verified slot (R119 phase 4): READY, with its cycle count and MOULD_ID; REASON stays that of the last failed load
(R122). -/
def State.slotReady (s : State) (d sl : Nat) (x : SlotX) (cycles : Nat) : State :=
  let s := s.modSlot d sl fun _ => { x with load := none }
  let s := s.setSlotState d sl slREADY
  let s := s.setReg (mldB d sl + MLD_SLOT_CYCLES.off) (BitVec.ofNat 32 (sat32 cycles))
  s.setReg64 (mldB d sl + MLD_SLOT_ID_LO.off) (imgId x.image)

/-- A rejected load (R122). MLD_SLOT_ID and MLD_SLOT_CYCLES keep what they held, as while a slot is LOADING (DESIGN CHOICE,
log entry 37). -/
def State.slotFailed (s : State) (d sl reason : Nat) : State :=
  let s := s.modSlot d sl fun _ => SlotX.init
  s.setReg (mldB d sl + MLD_SLOT_STATE.off) (BitVec.ofNat 32 (reason * 65536 + slFAILED))

/-- A slot of the die that holds the same image under the same job seed (R120). -/
def State.sameMould (s : State) (d : Nat) (mouldId : Nat) (trailer : List Byte) (seed : Nat) : Option Nat :=
  (List.range 4).find? fun i =>
    let x := (s.die d).slot i
    (s.slotState d i == slREADY || s.slotState d i == slACTIVE) && imgId x.image == mouldId &&
      imgTrailer x.image == trailer && x.jobSeed == seed

/-- MOULD_LOAD at one die: refused, copied from another slot (R120) where R197 lets it into this one, or streaming. The header
and the trailer of the image, wherever it lies, say whether R120 applies. -/
def State.loadMould (h : CmdHdr) (ps : List Word64) (s : State) (d : Nat) : State × Option (Nat × List Word64) :=
  let p := fun i => (nthD (0 : Word64) ps i).toNat
  let sl := p 1 % 4
  let total := p 1 / 2 ^ 32
  let expect := word64Bytes ((ps.drop 3).take 4)
  if s.slotBusy d sl || (s.slotNamed d sl && (s.dieState d != dsSTOPPED || s.dieLoading d)) then
    (s, some (stBUSY, []))
  else
    let head := if 96 ≤ total then (s.readFor h (p 0) 64).2 else Reply.denied
    let tail := if 96 ≤ total then (s.readFor h (p 0 + total - 32) 32).2 else Reply.denied
    let same := if head.status = stOK ∧ tail.status = stOK ∧ !(expect.any (· != 0) && expect != tail.data) then
        s.sameMould d (imgId head.data) tail.data (p 2)
      else none
    match same with
    | some i =>
      let x := (s.die d).slot i
      let cycles := imgSteps x.image
      (match if s.mustStay d sl then x.leaves s.place d else none with
       | some f => (s.slotFailed d sl f.1, some (reasonStatus f.1, mouldReply f.1 f.2.1 f.2.2 0))
       | none => (s.slotReady d sl x cycles, some (stOK, mouldReply 0 noTile 0 cycles)))
    | none =>
      let s := s.modSlot d sl fun _ =>
        { SlotX.init with jobSeed := p 2, load := some (h, p 0, total, expect) }
      (s.setSlotState d sl slLOADING, none)

def bodyMouldLoad (s : State) (h : CmdHdr) (ps : List Word64) : State := s.onDies h 0x0110 (State.loadMould h ps)

def execMouldLoad (h : CmdHdr) (ps : List Word64) (s : State) : Host.Outcome State Fault Refusal :=
  .next (s.command h 0x0110 ps bodyMouldLoad)

/-- The image has streamed in: header and digests, then CHECKING (R119, R580 steps 1 and 2). An image that cannot be
read fails with DENIED and no reason of the table. -/
def State.streamDone (s : State) (d sl : Nat) : State :=
  let x := (s.die d).slot sl
  match x.load with
  | none => s
  | some (h, addr, total, expect) =>
    if s.slotState d sl ≠ slLOADING then s
    else
      let u := s.dieUnit d
      let fail := fun (s : State) (reason st : Nat) =>
        (s.slotFailed d sl reason).partDone h 0x0110 u st (mouldReply reason noTile 0 0)
      let r := s.readFor h addr total
      if r.2.status ≠ stOK then fail r.1 0 r.2.status
      else
        match (headerFault r.2.data total).or (digestFault r.2.data expect) with
        | some reason => fail r.1 reason (reasonStatus reason)
        | none => (r.1.modSlot d sl fun x => { x with image := r.2.data }).setSlotState d sl slCHECKING

def execMouldStreamDone (d : Fin 12) (slot : Fin 4) (s : State) : Host.Outcome State Fault Refusal :=
  .next (s.streamDone d slot)

/-- The checks and the seeds are done: READY or FAILED, and the reply (R119, R122). -/
def State.checkDone (s : State) (d sl : Nat) : State :=
  let x := (s.die d).slot sl
  match x.load with
  | none => s
  | some (h, _, _, _) =>
    if s.slotState d sl ≠ slCHECKING then s
    else
      let u := s.dieUnit d
      match x.check (if s.mustStay d sl then some (s.place, d) else none) with
      | .ok (y, cycles) => (s.slotReady d sl y cycles).partDone h 0x0110 u stOK (mouldReply 0 noTile 0 cycles)
      | .error (f, cycles) =>
        (s.slotFailed d sl f.reason).partDone h 0x0110 u (reasonStatus f.reason) (mouldReply f.reason f.tile f.index cycles)

def execMouldCheckDone (d : Fin 12) (slot : Fin 4) (s : State) : Host.Outcome State Fault Refusal :=
  .next (s.checkDone d slot)

/-- RWS writes of some bits of registers that die `d` owns, as one: offset, mask and value of each (R6, R8). -/
def State.writeRwsAll (s : State) (d : Nat) (ws : List (Nat × Nat × Nat)) : State :=
  if s.dieRuns d then
    ws.foldl (fun s w =>
      let m := BitVec.ofNat 32 w.2.1
      let v := BitVec.ofNat 32 w.2.2
      let old := mapGet ⟨0, 0⟩ s.shadow w.1
      { s with shadow := mapPut s.shadow w.1 ⟨old.mask ||| m, (old.val &&& ~~~m) ||| (v &&& m)⟩ }) s
  else
    let t := ws.foldl (fun s w =>
      let m := BitVec.ofNat 32 w.2.1
      s.setReg w.1 ((s.reg w.1 &&& ~~~m) ||| (BitVec.ofNat 32 w.2.2 &&& m))) s
    noteHolders (tasksChanged s t d) d

/-- One such write. -/
def State.writeRws (s : State) (d a mask v : Nat) : State := s.writeRwsAll d [(a, mask, v)]

/-- MOULD_SWITCH at one die (R128). -/
def State.switchMould (ps : List Word64) (s : State) (d : Nat) : State × Option (Nat × List Word64) :=
  let p := (nthD (0 : Word64) ps 0).toNat
  let sl := p % 4
  if s.slotState d sl == slREADY || s.slotState d sl == slACTIVE then
    (s.writeRws d (tskB d (bitsOf p 7 4) + TSK_CFG.off) 0x00300000 (sl * 2 ^ 20), some (stOK, []))
  else (s, some (stBUSY, []))

def bodyMouldSwitch (s : State) (h : CmdHdr) (ps : List Word64) : State := s.onDies h 0x0111 (State.switchMould ps)

def execMouldSwitch (h : CmdHdr) (ps : List Word64) (s : State) : Host.Outcome State Fault Refusal :=
  .next (s.command h 0x0111 ps bodyMouldSwitch)

/-- MOULD_EVICT at one die (R123). REASON, MLD_SLOT_ID and MLD_SLOT_CYCLES keep what they held (DESIGN CHOICE, log entry 37). -/
def State.evictMould (ps : List Word64) (s : State) (d : Nat) : State × Option (Nat × List Word64) :=
  let sl := (nthD (0 : Word64) ps 0).toNat % 4
  if s.slotBusy d sl || s.slotNamed d sl then (s, some (stBUSY, []))
  else
    let s := s.modSlot d sl fun _ => SlotX.init
    (s.setSlotState d sl slEMPTY, some (stOK, []))

def bodyMouldEvict (s : State) (h : CmdHdr) (ps : List Word64) : State := s.onDies h 0x0112 (State.evictMould ps)

def execMouldEvict (h : CmdHdr) (ps : List Word64) (s : State) : Host.Outcome State Fault Refusal :=
  .next (s.command h 0x0112 ps bodyMouldEvict)

end Sys2Proof.Machine
end

