-- ==== Sys2Proof/Machine/Security.lean ====
section
/-! DEFINITION. Identity, keys, sessions and protection (R462-R465, R475-R494, R531): sessions and their proofs, key slots,
rights, partition, ownership, attestation. -/

namespace Sys2Proof.Machine

/-- Bits [hi..lo] of parameter word `i`. -/
def paramBits (ps : List Word64) (i hi lo : Nat) : Nat := bitsOf (nthD (0 : Word64) ps i).toNat hi lo

/-- The bytes of `n` parameter words from word `i`. -/
def paramBytes (ps : List Word64) (i n : Nat) : List Byte := word64Bytes ((ps.drop i).take n)

/-! ### Identity (R475-R478) -/

/-- IDENTITY_READ (R478). -/
def bodyIdentityRead (s : State) (h : CmdHdr) (_ : List Word64) : State :=
  s.finish h 0x0807 stOK
    (bytesToWords64 (fitBytes 64 s.identityKey) ++ [BitVec.ofNat 64 (s.fld secB SEC_STATUS.PUF), 0xA1])

def execIdentityRead (h : CmdHdr) (ps : List Word64) (s : State) : Host.Outcome State Fault Refusal :=
  .next (s.command h 0x0807 ps bodyIdentityRead)

/-! ### Sessions (R462-R465) -/

def slotVERIFY : Nat := 1
def slotSIGN : Nat := 2

/-- The class of a channel in a slot's CHANNELS (R449, R480). -/
def chanClass (n : Nat) : Nat :=
  if n < 0x10 then 0 else if n = 0x10 then 1 else if n = 0x11 then 2 else if n < 0x80 then 3 else if n < 0x100 then 4 else 5

/-- SESSION_CHALLENGE (R462): a nonce for this channel. -/
def bodySessionChallenge (s : State) (h : CmdHdr) (_ : List Word64) : State :=
  let n := s.draw
  let nonce := Config.freeBytes n.1 32
  let s := n.2.modChan h.chan fun c => { c with nonce := some (nonce, s.now) }
  s.finish h 0x0001 stOK (bytesToWords64 nonce)

def execSessionChallenge (h : CmdHdr) (ps : List Word64) (s : State) : Host.Outcome State Fault Refusal :=
  .next (s.command h 0x0001 ps bodySessionChallenge)

/-- The message that a session proof signs (R463). -/
def proofMessage (chan slot role : Nat) (nonce key : List Byte) : List Byte :=
  toBytes chan 2 ++ [BitVec.ofNat 8 slot, BitVec.ofNat 8 role] ++ nonce ++ shake256 key 32

/-- The verdict on a session proof (R463, R477). -/
def State.proofStatus (s : State) (chan slot role : Nat) (sig : List Byte) : Nat :=
  match (s.chan chan).nonce, mapGet? s.sec.slots slot with
  | some (nonce, at_), some k =>
    if at_ + 200000000 < s.now ∨ role = 0 ∨ k.maxRole < role ∨ !bitOf k.channels (chanClass chan) then stDENIED
    else if k.ty = slotSIGN ∧ s.pufFail then stINTERNAL
    else if (k.ty = slotVERIFY ∨ k.ty = slotSIGN) ∧ edVerify (k.key.take 57) (proofMessage chan slot role nonce s.identityKey) sig then
      stOK
    else stDENIED
  | _, _ => stDENIED

/-- SESSION_OPEN (R463, R465). -/
def bodySessionOpen (s : State) (h : CmdHdr) (ps : List Word64) : State :=
  let slot := paramBits ps 0 11 8
  let role := paramBits ps 0 2 0
  let st := s.proofStatus h.chan slot role ((paramBytes ps 1 15).take 114)
  let s := s.modChan h.chan fun c => { c with nonce := none }
  if st = stOK then
    let s := s.closeSession h.chan
    let s := s.modChan h.chan fun c =>
      { c with session := some { role := role, slot := slot, job := 0, last := s.now, standing := false } }
    s.finish h 0x0002 stOK []
  else s.finish h 0x0002 st []

def execSessionOpen (h : CmdHdr) (ps : List Word64) (s : State) : Host.Outcome State Fault Refusal :=
  .next (s.command h 0x0002 ps bodySessionOpen)

/-- SESSION_CLOSE (R465). -/
def bodySessionClose (s : State) (h : CmdHdr) (_ : List Word64) : State := (s.closeSession h.chan).finish h 0x0003 stOK []

def execSessionClose (h : CmdHdr) (ps : List Word64) (s : State) : Host.Outcome State Fault Refusal :=
  .next (s.command h 0x0003 ps bodySessionClose)

/-- SESSION_INFO (R471): role, slot and job, then the idle time left in ms. -/
def bodySessionInfo (s : State) (h : CmdHdr) (_ : List Word64) : State :=
  match (s.chan h.chan).session with
  | none => s.finish h 0x0004 stOK [0, 0]
  | some x =>
    s.finish h 0x0004 stOK
      [BitVec.ofNat 64 (x.role + x.slot * 2 ^ 8 + s.sessionJob h.chan * 2 ^ 32), BitVec.ofNat 64 (x.idleLeft s.now)]

def execSessionInfo (h : CmdHdr) (ps : List Word64) (s : State) : Host.Outcome State Fault Refusal :=
  .next (s.command h 0x0004 ps bodySessionInfo)

/-! ### Key slots (R479-R483) -/

/-- Closes every session opened against a slot (R465, R483). -/
def State.closeSlot (s : State) (slot : Nat) : State :=
  (s.chans.filter fun e => match e.2.session with
    | some x => !x.standing && x.slot == slot
    | none => false).foldl (fun s e => s.closeSession e.1) s

/-- The fields of a KEY_WRITE are as R480 allows. -/
def keyFieldsOk (ps : List Word64) : Bool :=
  let ty := paramBits ps 0 6 4
  let role := paramBits ps 0 10 8
  let gen := paramBits ps 0 11 11 == 1
  let zero := ((ps.drop 2).take 8).all (· == 0)
  paramBits ps 0 63 13 == 0 && !bitOf (paramBits ps 0 7 0) 7 && paramBits ps 1 63 7 == 0 && ((ps.drop 10).all (· == 0)) &&
    decide (1 ≤ ty) && decide (ty ≤ 3) && decide (1 ≤ role) && decide (role ≤ 4) &&
    (if ty = slotSIGN then gen && zero else !gen)

/-- The channels that may write a MAC key: local and secure (R480). -/
def State.macPath (s : State) (h : CmdHdr) : Bool :=
  (h.chan == 0x10 || (decide (0x100 ≤ h.chan) && decide (h.chan < 0x180))) && (!h.member || h.entry == s.place)

/-- KEY_WRITE (R477, R480, R481, R483). -/
def bodyKeyWrite (s : State) (h : CmdHdr) (ps : List Word64) : State :=
  let slot := paramBits ps 0 3 0
  let ty := paramBits ps 0 6 4
  let role := paramBits ps 0 10 8
  if !keyFieldsOk ps ∨ (h.role = 0 ∧ !(s.unclaimed ∧ ty = slotVERIFY ∧ role = 4)) ∨ (ty = slotMAC ∧ !s.macPath h) then
    s.finish h 0x0801 stDENIED []
  else if ty ≠ slotVERIFY ∧ s.pufFail then s.finish h 0x0801 stINTERNAL []
  else
    let n := s.draw
    let secret := if ty = slotSIGN then Config.freeBytes n.1 57 else []
    let key := if ty = slotSIGN then edPublic secret else (paramBytes ps 2 8).take (if ty = slotMAC then 32 else 57)
    let k : KeySlot := { ty := ty, maxRole := role, channels := paramBits ps 1 6 0, tx := paramBits ps 0 12 12 == 1, key := key,
                         secret := secret }
    let s := if ty = slotSIGN then n.2 else s
    let s := ({ s with sec := { s.sec with slots := mapPut s.sec.slots slot k } }).closeSlot slot
    s.finish h 0x0801 stOK (if ty = slotSIGN then bytesToWords64 (fitBytes 64 key) else [])

def execKeyWrite (h : CmdHdr) (ps : List Word64) (s : State) : Host.Outcome State Fault Refusal :=
  .next (s.command h 0x0801 ps bodyKeyWrite)

/-- KEY_REVOKE (R483). -/
def bodyKeyRevoke (s : State) (h : CmdHdr) (ps : List Word64) : State :=
  let slot := paramBits ps 0 3 0
  (({ s with sec := { s.sec with slots := mapErase s.sec.slots slot } }).closeSlot slot).finish h 0x0802 stOK []

def execKeyRevoke (h : CmdHdr) (ps : List Word64) (s : State) : Host.Outcome State Fault Refusal :=
  .next (s.command h 0x0802 ps bodyKeyRevoke)

/-! ### Protection (R490-R494) -/

/-- RIGHTS_SET (R491). -/
def bodyRightsSet (s : State) (h : CmdHdr) (ps : List Word64) : State :=
  let n := paramBits ps 0 8 0
  let count := paramBits ps 0 21 16
  let es := ps.drop 1
  if !chanExists n ∨ count = 0 ∨ es.length ≠ count ∨ es.any (fun e => decide (1 < bitsOf e.toNat 63 62)) then
    s.finish h 0x0803 stDENIED []
  else ({ s with sec := { s.sec with rights := mapPut s.sec.rights n es } }).finish h 0x0803 stOK []

def execRightsSet (h : CmdHdr) (ps : List Word64) (s : State) : Host.Outcome State Fault Refusal :=
  .next (s.command h 0x0803 ps bodyRightsSet)

/-- PARTITION_SET (R490): both bounds package-local and aligned to 16 MiB. -/
def bodyPartitionSet (s : State) (h : CmdHdr) (ps : List Word64) : State :=
  let base := paramBits ps 0 63 0
  let limit := paramBits ps 1 63 0
  if base % 2 ^ 24 ≠ 0 ∨ limit % 2 ^ 24 ≠ 0 ∨ 2 ^ 45 ≤ limit ∨ limit < base then s.finish h 0x0804 stDENIED []
  else ({ s with sec := { s.sec with partBase := base, partLimit := limit } }).finish h 0x0804 stOK []

def execPartitionSet (h : CmdHdr) (ps : List Word64) (s : State) : Host.Outcome State Fault Refusal :=
  .next (s.command h 0x0804 ps bodyPartitionSet)

/-- OWNERSHIP_SET (R492). A die of another package is BAD_UNIT here. -/
def bodyOwnershipSet (s : State) (h : CmdHdr) (ps : List Word64) : State :=
  let u := paramBits ps 0 31 0
  let n := paramBits ps 0 56 48
  if !s.unitOk u ∨ unitLevel u ≠ 1 ∨ 13 < unitDie u ∨ unitPlace u ≠ s.place then s.finish h 0x0805 stBAD_UNIT []
  else if paramBits ps 0 57 57 = 1 then
    ({ s with sec := { s.sec with owners := mapErase s.sec.owners (unitDie u) } }).finish h 0x0805 stOK []
  else if !chanExists n then s.finish h 0x0805 stDENIED []
  else ({ s with sec := { s.sec with owners := mapPut s.sec.owners (unitDie u) n } }).finish h 0x0805 stOK []

def execOwnershipSet (h : CmdHdr) (ps : List Word64) (s : State) : Host.Outcome State Fault Refusal :=
  .next (s.command h 0x0805 ps bodyOwnershipSet)

/-! ### Attestation (R489) -/

/-- What KEYS_DIGEST covers: slot, type, role, channels, TX and public part of each of the 16 slots. -/
def State.keysParts (s : State) : List (Nat × Nat × Nat × Nat × Bool × List Byte) :=
  (List.range 16).map fun i =>
    match mapGet? s.sec.slots i with
    | none => (i, 0, 0, 0, false, [])
    | some k => (i, k.ty, k.maxRole, k.channels, k.tx, if k.ty = slotMAC then shake256 (k.key.take 32) 32 else k.key)

/-- The rights entries in force of a channel; unlisted, the two of R491. -/
def State.rightsOf (s : State) (n : Nat) : List Word64 :=
  match mapGet? s.sec.rights n with
  | some es => es
  | none => [0x00014000, BitVec.ofNat 64 (2 ^ 62 + 2 ^ 61 + 2 ^ 60 + 0x1FFFFF)]

/-- What PROT_DIGEST covers. -/
def State.protMessage (s : State) : List Byte :=
  Config.protMessage (s.sec.partBase, s.sec.partLimit) (allChans.map fun n => (n, s.rightsOf n))
    ((List.range 14).map fun d => (d, mapGet? s.sec.owners d))

/-- Words 0 to 37 of the report, as bytes. -/
def State.report (s : State) (nonce : List Byte) : List Byte :=
  wordBytes [0x41545354, BitVec.ofNat 32 (0x0001A100 + s.fld secB SEC_STATUS.PUF), BitVec.ofNat 32 (s.place * 2 ^ 17),
      BitVec.ofNat 32 (s.fld fwB FW_STATUS.SVN * 2 ^ 16 + s.sec.minSvn)] ++ toBytes s.now 8 ++ fitBytes 32 nonce ++
    fitBytes 32 s.sec.fwDigest ++ shake256 (Config.keysMessage s.keysParts) 32 ++ shake256 s.protMessage 32

/-- ATTEST (R477, R489). -/
def bodyAttest (s : State) (h : CmdHdr) (ps : List Word64) : State :=
  if s.pufFail then s.finish h 0x0806 stINTERNAL []
  else
    let r := s.report (paramBytes ps 0 4)
    s.finish h 0x0806 stOK (bytesToWords64 (fitBytes 272 (r ++ edSign s.sec.identitySecret r)))

def execAttest (h : CmdHdr) (ps : List Word64) (s : State) : Host.Outcome State Fault Refusal :=
  .next (s.command h 0x0806 ps bodyAttest)

end Sys2Proof.Machine
end

