-- ==== Sys2Proof/Machine/RegAccess.lean ====
section
/-! DEFINITION. Reads and writes of registers (R4-R13, R515, R516): values that are computed when read, the access codes,
and the actions of the fields that have one. -/

namespace Sys2Proof.Machine

/-! ### Units and owners -/

/-- The unit address of the block at a control-space offset. -/
def State.blkUnit (s : State) (b : Blk) (u : Nat) : Nat :=
  match b with
  | .dsq | .scr | .mem => s.dieUnit u
  | .cpe => s.dieUnit (if u < 12 then u else 12 + (u - 12) / 4)
  | .tve => s.tileUnit (u / 768) (u % 768)
  | .ctl => s.dieUnit u
  | .cpc => s.dieUnit (12 + u / 64)
  | .slv => s.dieUnit (12 + u / 4)
  | _ => s.dieUnit 14

/-- SOURCE of R549 for an event of a block. -/
def blkSource : Blk → Nat
  | .dsq => 1
  | .tve => 2
  | .scr => 3
  | .mem => 4
  | .col => 5
  | .prt => 6
  | .slv => 7
  | .cpe => 8
  | .cpc => 9
  | .hst => 10
  | .ft => 11
  | .mgt => 12
  | .pwr => 13
  | .tb => 14
  | .rmt => 15
  | _ => 0

/-- The owner of the register at offset `o` of a block runs (R6, and each chapter's register section). -/
def State.ownerRuns (s : State) (b : Blk) (u o : Nat) : Bool :=
  match b with
  | .dsq =>
    if 0x500 ≤ o ∧ o < 0x600 then s.memOpen u
    else if 0x600 ≤ o ∧ o < 0x700 then s.scrOpen u
    else s.dieRuns u
  | .scr => if 0x800 ≤ o then s.scrOpen u else s.dieRuns u
  | .mem => s.memOpen u
  | .tve => s.dieRuns (u / 768)
  | .cpc => s.coreState u != csHELD
  | .prt => s.portState u == psTRAINING || s.portState u == psUP
  | .ft =>
    if o = FT_ILV.off then (List.range 4).any fun i => s.flag (ftB + FT_DEV.stride * i) FT_DEV.COMMIT
    else s.flag (ftB + FT_DEV.stride * ((o - FT_DEV.off) / FT_DEV.stride)) FT_DEV.COMMIT
  | .tb => s.tb.locked
  | .ch => !(s.chan u).outstanding.isEmpty
  | .hst => s.host.memEnable.contains ((o - HST_WIN_BASE.off) / HST_WIN_BASE.stride)
  | _ => true

/-! ### Values computed when read -/

/-- A condition as bit `i` of a word. -/
def bitIf (c : Bool) (i : Nat) : Nat := if c then 2 ^ i else 0

/-- SLV_STATUS.STATE: a redo, a running batch, or a descriptor that waits for its LAUNCH. -/
def SolverX.state (x : SolverX) : Nat :=
  if x.redo then 3 else if x.batch.isSome then 2 else if !x.queue.isEmpty then 1 else 0

/-- CPE_STATUS2.STATE: the descriptor in front waits for its LAUNCH, or descriptors run (R365). -/
def CopyX.state (x : CopyX) : Nat := if !x.running.isEmpty then 2 else if !x.queue.isEmpty then 1 else 0

/-- The oldest SEQ that the journal holds, the next one where it holds none (R553). -/
def JrnX.oldest (j : JrnX) : Nat :=
  match j.ring with
  | e :: _ => e.seq
  | [] =>
    match j.buf.reverse with
    | e :: _ => e.seq
    | [] => j.next

def State.viewDsq (s : State) (d o : Nat) : Nat :=
  let v := (s.reg (dsqB d + o)).toNat
  if o = DSQ_STATUS.off ∧ s.dieLoading d then v + dsLOADING
  else if o = DSQ_HOLD_CYCLES.off then
    min (v + (s.die d).heldFor) 0xFFFFFFFF
  else if o = STR_STATUS.off then bitIf (s.scrOpen d) 1 + bitIf (s.memOpen d) 0
  else v

def State.viewScr (s : State) (d o : Nat) : Nat :=
  if o = SCR_CLEAR.off then (s.reg (scrB d + o)).toNat + bitIf (s.die d).clear.isSome 1
  else if o = SCR_DIRTY_COUNT.off then (s.die d).sDirty.size scrGranules
  else if o = SCR_CUT_COUNT.off then (s.die d).sCut.size scrGranules
  else if o = SCR_RSV_USED.off then ((s.die d).sRsv.filter fun e => !e.2.2.isEmpty).length
  else (s.reg (scrB d + o)).toNat

def State.viewMem (s : State) (k o : Nat) : Nat :=
  if o = MEM_DIRTY_COUNT.off then (s.stack k).dirty.size memGranules
  else if o = MEM_CUT_COUNT.off then (s.stack k).cut.size memGranules
  else if o = MEM_RESERVE_USED.off then (s.stack k).rsv.length
  else (s.reg (memB k + o)).toNat

def State.viewCpe (s : State) (e o : Nat) : Nat :=
  let x := s.copy e
  if o = CPE_STATUS.off then x.queue.length % 512 * 2 ^ 16 + x.out % 1024
  else if o = CPE_STATUS2.off then x.state
  else (s.reg (cpeB e + o)).toNat

def State.viewSlv (s : State) (e o : Nat) : Nat :=
  let x := s.solver e
  if o = SLV_STATUS.off then x.queue.length % 32 * 2 ^ 16 + x.state
  else (s.reg (slvB e + o)).toNat

def State.viewTve (s : State) (d t o : Nat) : Nat :=
  let x := s.tile d t
  if TVE_AMAX.off ≤ o ∧ o < TVE_AMAX.off + 16 then x.amx ((o - TVE_AMAX.off) / 4)
  else if TVE_VS_LO.off ≤ o ∧ o < TVE_VS_LO.off + 64 then
    x.vs ((o - TVE_VS_LO.off) / 8) / 2 ^ (if o % 8 = 0 then 0 else 32) % 2 ^ 32
  else if o = TVE_SEEDS.off then ((s.active d).seeds.filter fun e => e.tile == t).length % 32
  else (s.reg (tveB d t + o)).toNat

def State.viewCpc (s : State) (c o : Nat) : Nat :=
  if CPC_IRQ_PEND.off ≤ o ∧ o < CPC_IRQ_PEND.off + 12 then
    let w := (o - CPC_IRQ_PEND.off) / 4
    (List.range 32).foldl (fun v b => v + bitIf (s.irqPends c (32 * w + b)) b) 0
  else (s.reg (cpcB c + o)).toNat

/-- SEC_SLOT_n (R480). -/
def slotWord : Option KeySlot → Nat
  | none => 0
  | some k => bitIf k.tx 13 + k.channels * 2 ^ 6 + k.maxRole * 2 ^ 3 + k.ty

def State.viewSec (s : State) (o : Nat) : Nat :=
  if o = SEC_STATUS.off then s.sec.minSvn * 2 ^ 16 + bitIf (!s.unclaimed) 2 + s.fld secB SEC_STATUS.PUF
  else if SEC_SLOT.off ≤ o ∧ o < SEC_SLOT.off + 64 then slotWord (mapGet? s.sec.slots ((o - SEC_SLOT.off) / 4))
  else if o = SEC_PART_BASE.off then s.sec.partBase / 2 ^ 24
  else if o = SEC_PART_LIMIT.off then s.sec.partLimit / 2 ^ 24
  else 0

def State.viewFw (s : State) (o : Nat) : Nat :=
  if o = JRN_NEXT.off then s.jrn.next
  else if o = JRN_OLDEST.off then s.jrn.oldest
  else if o = JRN_LOST.off then s.jrn.lost
  else if o = JRN_PENDING.off then s.jrn.buf.length
  else (s.reg (fwB + o)).toNat

/-- CH_SESSION. -/
def sessionWord (x : Option Session) (now : Nat) : Nat :=
  match x with
  | none => 0
  | some x => x.role * 2 ^ 29 + x.slot * 2 ^ 24 + x.idleLeft now

def State.viewCh (s : State) (n o : Nat) : Nat :=
  let c := s.chan n
  if o = CH_QSTAT.off then
    c.outstanding.length % 128 * 2 ^ 24 + (8 - c.reqQ.length) * 2 ^ 16 + min 8 c.rspQ.length * 2 ^ 8 + bitIf c.discard 1 +
      bitIf c.session.isSome 0
  else if o = CH_SESSION.off then sessionWord c.session s.now
  else if o = CH_RSP_HI.off then c.rspHi.toNat
  else (s.reg (chB n + o)).toNat

def State.viewTb (s : State) (o : Nat) : Nat :=
  if o = TB_NOW_LO.off then s.now % 2 ^ 32
  else if o = TB_NOW_HI.off then s.tb.hiLatch.toNat
  else if o = TB_PENDING.off then s.heldCount % 512
  else (s.reg (tbB + o)).toNat

def State.viewFabric (s : State) (b : Blk) (o : Nat) : Nat :=
  match b with
  | .rmt =>
    if o = RMT_STORE_USED.off then (s.fabric.sent.length + 1) / 2 * 2 ^ 16 + (s.fabric.resp.length + 3) / 4
    else (s.reg (rmtB + o)).toNat
  | .col =>
    if o = COL_STATUS.off then s.coll.teams.length % 2048 * 2 ^ 16 + s.coll.calls.length % 65536
    else (s.reg (colB + o)).toNat
  | .ft => if o = FT_CFG.off then s.straps.ftBifur.toNat else (s.reg (ftB + o)).toNat
  | .mgt =>
    if o = MGT_STATUS.off ∧ !s.flag mgtB MGT_STATUS.DA_VALID then (0x30 + s.straps.mgtAddr.toNat) * 2
    else (s.reg (mgtB + o)).toNat
  | _ => 0

/-- The value that a read of the register at control-space offset `a` returns (R5, R8, R12, R516); the firmware store reads
zero (R521). -/
def State.view (s : State) (a : Nat) : Word :=
  match locate a with
  | none => 0
  | some (b, u, o) =>
    BitVec.ofNat 32 (match b with
      | .dsq => s.viewDsq u o
      | .scr => s.viewScr u o
      | .mem => s.viewMem u o
      | .cpe => s.viewCpe u o
      | .slv => s.viewSlv u o
      | .tve => s.viewTve (u / 768) (u % 768) o
      | .cpc => s.viewCpc u o
      | .sec => s.viewSec o
      | .fw => s.viewFw o
      | .ch => s.viewCh u o
      | .tb => s.viewTb o
      | .rmt => if o < 0x100 then s.viewFabric .rmt o else (s.reg a).toNat
      | .col => s.viewFabric .col o
      | .ft => s.viewFabric .ft o
      | .mgt => s.viewFabric .mgt o
      | .store => 0
      | .glp | .prt | .pwr | .hst | .ctl => (s.reg a).toNat)

/-- A read of one register by an agent with what the read itself does: TB_NOW_LO latches (R401), CH_RSP_LO takes a reply
word (R458), and another sender's channel reads zero (R450). -/
def State.regRead (s : State) (who : Agent) (a : Nat) : State × Word :=
  match locate a with
  | some (.ch, n, o) =>
    if !s.ownsChan who n then (s, 0)
    else if o = CH_RSP_LO.off then s.readReply n
    else (s, s.view a)
  | some (.tb, _, o) => if o = TB_NOW_LO.off then s.readNow else (s, s.view a)
  | _ => (s, s.view a)

/-! ### Writes -/

/-- A write by the access codes of R6: the new value, and whether an RWL field was rejected. -/
def State.codedWrite (s : State) (a : Nat) (r : RegDesc) (runs : Bool) (v : Word) : State × Bool :=
  let now := BitVec.ofNat 32 (if runs then r.rw else r.rw + r.rws + r.rwl)
  let w1c := BitVec.ofNat 32 r.w1c
  let old := s.reg a
  let s := s.setReg a (((old &&& ~~~now) ||| (v &&& now)) &&& ~~~(v &&& w1c))
  let m := BitVec.ofNat 32 r.rws
  let s : State :=
    if r.rws = 0 then s
    else if runs then { s with shadow := mapPut s.shadow a ⟨m, v &&& m⟩ }
    else { s with shadow := mapErase s.shadow a }
  (s, runs && r.rwl != 0)

/-- DRF_CLEAR.GO at the DRF registers from `b` (R558). -/
def State.driftClear (s : State) (b : Nat) : State :=
  (List.range 7).foldl (fun s c => s.setReg (b + DRF_CAUSE.off + 4 * c) 0) (s.setReg (b + DRF_TOTAL.off) 0)

/-- DSQ_CTRL: ABORT, STOP, ARM. -/
def State.writeDsqCtrl (s : State) (d : Nat) (v : Nat) : State :=
  let s := if bitOf v 2 then s.abortDie d else s
  let s := if bitOf v 1 then s.stopDie d else s
  if bitOf v 0 then s.armDie d else s

/-- The value of a register with what waits in its shadow (R8). -/
def State.pendReg (s : State) (a : Nat) : Nat :=
  let h := mapGet ⟨0, 0⟩ s.shadow a
  ((s.reg a &&& ~~~h.mask) ||| (h.val &&& h.mask)).toNat

/-- The task whose TSK_CFG stands at an offset of the die-sequencer block. -/
def taskAt (o : Nat) : Option Nat :=
  if TSK_CFG.off ≤ o ∧ o < TSK_CFG.off + 16 * TSK_CFG.stride ∧ (o - TSK_CFG.off) % TSK_CFG.stride = 0 then
    some ((o - TSK_CFG.off) / TSK_CFG.stride)
  else none

/-- The ranges that R174 clears before a write of TSK_CFG that sets VALID where it was 0. -/
def State.validNeeds (s : State) (d o : Nat) (v : Word) : List ClearX :=
  match taskAt o with
  | none => []
  | some n =>
    let scr := s.pendReg (scrB d + SCR_TASK.off + 4 * n)
    s.foreignSlots d (bitOf v.toNat 31 && !bitOf (s.pendReg (dsqB d + o)) 31) (s.pendReg (tskB d n + TSK_JOB.off)) (bitsOf scr 28 16)
      (bitsOf scr 12 0)

/-- The die-sequencer block beyond the access codes. -/
def State.putDsq (s : State) (d o : Nat) (r : RegDesc) (v : Word) : State × Bool :=
  if o = DSQ_CTRL.off then (s.writeDsqCtrl d v.toNat, false)
  else if TNM_SLOT.off ≤ o ∧ o < TNM_SLOT.off + 16 then
    if s.dieRuns d then (s, true) else (s.writeTnmSlot d ((o - TNM_SLOT.off) / 4) v, false)
  else if o = 0x700 + DRF_CLEAR.off then (if bitOf v.toNat 0 then s.driftClear (drfB d) else s, false)
  else
    let x := s.codedWrite (dsqB d + o) r (s.ownerRuns .dsq d o) v
    if o = STR_CTRL.off ∧ bitOf v.toNat 31 then (x.1.abandonImages d, x.2)
    else if s.dieRuns d ∨ r.rws = 0 then x
    else (noteHolders (tasksChanged s x.1 d) d, x.2)

/-- A write of the die-sequencer block: one that sets VALID waits for the clears of R174, and is ignored with BUSY where they
cannot start. -/
def State.writeDsq (s : State) (d o : Nat) (r : RegDesc) (v : Word) : State × Bool :=
  match s.validNeeds d o v with
  | [] => s.putDsq d o r v
  | cs => (if s.clearsBlocked d cs then s.dieBusy d else s.startClears d cs (.write (dsqB d + o) v), false)

def State.writeScr (s : State) (d o : Nat) (r : RegDesc) (v : Word) : State × Bool :=
  if o = SCR_CLEAR.off then (s.writeScrClear d v, false)
  else
    let x := s.codedWrite (scrB d + o) r (s.ownerRuns .scr d o) v
    if s.dieRuns d ∨ r.rws = 0 then x else (noteHolders x.1 d, x.2)

/-- CPC_IPI (R218, R220). -/
def State.writeIpi (s : State) (c v : Nat) : State :=
  if bitOf v 31 then s.modCore c fun x => { x with pendIpi := false }
  else s.modCore (v % 128) fun x => { x with pendIpi := true }

def State.writeCpc (s : State) (who : Agent) (c o : Nat) (r : RegDesc) (v : Word) : State × Bool :=
  if o = 0 then
    let s := if bitOf v.toNat 0 then s.releaseCore c else s
    (if bitOf v.toNat 1 then s.takeNmi c else s, false)
  else if o = CPC_GRAIN_CMP_LO.off then (s.writeGrainCmp c false v, false)
  else if o = CPC_GRAIN_CMP_HI.off then (s.writeGrainCmp c true v, false)
  else if CPC_IRQ_MASK.off ≤ o ∧ o < CPC_IRQ_MASK.off + 12 then
    (s.writeIrqMask c ((o - CPC_IRQ_MASK.off) / 4) (s.agentSecure who) v, false)
  else if o = 0x40 then (s.writeIpi c v.toNat, false)
  else s.codedWrite (cpcB c + o) r (s.ownerRuns .cpc c o) v

/-- The block of a copy engine, which its die's cores and the package controller write (R367). -/
def State.writeCpe (s : State) (who : Agent) (e o : Nat) (r : RegDesc) (v : Word) : State × Bool :=
  let die := agentDie (.copy e)
  if !enginesWriter die who then (s.writeDenied who 8 (s.dieUnit die) (cpeB e + o), false)
  else if o = CPE_SUBMIT_LO.off then (s.modCopy e fun x => { x with subLo := v }, false)
  else if o = CPE_SUBMIT_HI.off then (s.submitCopy e who v, false)
  else s.codedWrite (cpeB e + o) r true v

/-- The block of a solver engine, which its die's cores and the package controller write (R272). -/
def State.writeSlv (s : State) (who : Agent) (e o : Nat) (r : RegDesc) (v : Word) : State × Bool :=
  let die := engineDie e
  if !enginesWriter die who then (s.writeDenied who 7 (s.dieUnit die) (slvB e + o), false)
  else if o = SLV_SUBMIT_LO.off then (s.modSolver e fun x => { x with subLo := v }, false)
  else if o = SLV_SUBMIT_HI.off then (s.submitSolver e who v, false)
  else s.codedWrite (slvB e + o) r true v

/-- PRT_CTRL and PRT_EVENTS (R333, R334, R336); `role` is that of the writer's session. A write that clears an event lets the
next malformed header be recorded. -/
def State.writePrt (s : State) (role p o : Nat) (r : RegDesc) (v : Word) : State × Bool :=
  if o = PRT_CTRL.off then
    let on := bitOf v.toNat 0
    let s := if on = s.flag (prtB p) PRT_CTRL.ENABLE then s else s.portEnabled p on
    let s := if bitOf v.toNat 2 then s.portReleased p role s.place else s
    (if bitOf v.toNat 1 then s.portRetrain p else s, false)
  else
    let x := s.codedWrite (prtB p + o) r (s.ownerRuns .prt p o) v
    if o = PRT_EVENTS.off ∧ s.reg (prtB p + o) &&& v ≠ 0 then (x.1.modPort p fun y => { y with malNoted := false }, x.2) else x

/-- The range that a word of FT_DEV_d gives lies in the far tier: BASE at most 0x1FFF, BASE + SIZE at most 0x2000. -/
def ftRangeOk (v : Nat) : Bool := decide (bitsOf v 30 15 ≤ 0x1FFF) && decide (bitsOf v 30 15 + bitsOf v 14 0 ≤ 0x2000)

/-- FT_DEV_d (R297, R527): COMMIT from 0 to 1 lets a device that went down be served again. A write that would put a range
outside the far tier is ignored (DESIGN CHOICE, log entry 39). -/
def State.writeFtDev (s : State) (dev : Nat) (r : RegDesc) (v : Word) : State × Bool :=
  let b := ftB + FT_DEV.stride * dev
  let was := s.flag b FT_DEV.COMMIT
  let x := s.codedWrite (b + FT_DEV.off) r was v
  if !was && !ftRangeOk v.toNat then (s, false)
  else if !was && bitOf v.toNat 31 then
    ({ x.1 with far := { x.1.far with stale := x.1.far.stale.filter (· != dev) } }, x.2)
  else x

/-- A write of a channel's register by its owner (R452, R453, R455, R461). -/
def State.writeCh (s : State) (who : Agent) (n o : Nat) (r : RegDesc) (v : Word) : State × Bool :=
  if o = CH_REQ_LO.off then (s.modChan n fun c => { c with loLatch := v }, false)
  else if o = CH_REQ_HI.off then
    (s.pushWord who n (BitVec.ofNat 64 ((s.chan n).loLatch.toNat + v.toNat * 2 ^ 32)), false)
  else if o = CH_DB_REQ.off then
    let s := if bitOf v.toNat 1 then s.resync n else s
    (if bitOf v.toNat 0 then s.touchSession n else s, false)
  else
    let x := s.codedWrite (chB n + o) r (s.ownerRuns .ch n o) v
    if n = 0x11 ∧ o = CH_DB_IN.off then
      let s := x.1
      ({ s with mgt := { s.mgt with ibi := s.reg (chB n + CH_DB_IN.off) &&& s.reg (chB n + CH_DB_IN_MASK.off) != 0 } }, x.2)
    else x

/-- The blocks of F beyond ports, channels and the far tier. -/
def State.writeFabric (s : State) (who : Agent) (b : Blk) (o a : Nat) (r : RegDesc) (v : Word) : State × Bool :=
  if b = .col ∧ o = COL_ENTER_LO.off then ({ s with coll := { s.coll with entLo := v } }, false)
  else if b = .col ∧ o = COL_ENTER_HI.off then
    (s.takeEntry (agentDie who) (s.coll.entLo.toNat + v.toNat * 2 ^ 32) none, false)
  else if b = .rmt ∧ o = 0x100 + DRF_CLEAR.off then (if bitOf v.toNat 0 then s.driftClear (drfB 14) else s, false)
  else if b = .pwr ∧ o = PWR_CAP.off then (s.setCap (v.toNat % 4), false)
  else if b = .fw ∧ o = FW_CTRL.off then (if bitOf v.toNat 0 then s.fwGo else s, false)
  else
    let x := s.codedWrite a r (s.ownerRuns b 0 o) v
    if b = .tb ∧ o = TB_CTRL.off ∧ bitOf v.toNat 2 then (x.1.follow, x.2) else x

/-- A write into the firmware store (R521). -/
def State.storeWrite (s : State) (o : Nat) (data : List Byte) : State × Bool :=
  let code := s.fld fwB FW_STATUS.CODE
  if code = 1 ∨ code = 2 then (s.bump hstB HST_CA_COUNT.COUNT, false)
  else ({ s with mem := writeBytes s.mem (storeAddr + o) (data.take (0x1000000 - o)) }, true)

/-- One 32-bit register write by an agent under a session role; true where an RWL field was rejected. -/
def State.writeWord (s : State) (who : Agent) (role a : Nat) (v : Word) : State × Bool :=
  match locate a with
  | none => (s, false)
  | some (.store, _, o) => ((s.storeWrite o (toBytes v.toNat 4)).1, false)
  | some (b, u, o) =>
    match findDesc o (blkRows b u) with
    | none => (s, false)
    | some (r, _) =>
      match b with
      | .dsq => s.writeDsq u o r v
      | .scr => s.writeScr u o r v
      | .mem => s.codedWrite a r (s.ownerRuns .mem u o) v
      | .cpe => s.writeCpe who u o r v
      | .tve => s.codedWrite a r (s.ownerRuns .tve u o) v
      | .ctl => if o = 0x700 + DRF_CLEAR.off then (if bitOf v.toNat 0 then s.driftClear (drfB u) else s, false) else (s, false)
      | .cpc => s.writeCpc who u o r v
      | .slv => s.writeSlv who u o r v
      | .prt => s.writePrt role u o r v
      | .ft => if FT_DEV.off ≤ o ∧ o < 0x50 ∧ o % 16 = 0 then s.writeFtDev ((o - FT_DEV.off) / 16) r v
          else s.codedWrite a r (s.ownerRuns .ft u o) v
      | .ch => s.writeCh who u o r v
      | .hst => s.codedWrite a r (s.ownerRuns .hst u o) v
      | b => s.writeFabric who b o a r v

/-- The offset lies in the route tables, whose new contents raise the path epoch (R330). -/
def routeTable (a : Nat) : Bool := decide (glpB + GRP_ROUTE.off ≤ a) && decide (a < glpB + 0x2000)

/-- New route tables are in force: the epoch rises, and no destination is known as unreachable. -/
def State.newRoutes (s : State) : State :=
  ({ s with fabric := { s.fabric with unreachable := [] } }).raiseEpoch

/-- The block at an offset answers: its domain is ON. -/
def State.blockOn (s : State) (a : Nat) : Bool :=
  match locate a with
  | none => false
  | some (b, u, _) => s.domOn (blkDomain b u)

/-- R497: accesses of a requester at `place` that reach a block whose domain is not ON are logged, once for one request. -/
def State.logOff (s : State) (place job : Nat) (offs : List Nat) : State :=
  match (offs.filterMap locate).find? fun l => !s.domOn (blkDomain l.1 l.2.1) with
  | none => s
  | some (b, u, _) => s.logRefused stDENIED (blkSource b) (s.blkUnit b u) place job []

/-- The role of the session of an agent's channel. -/
def State.agentRole (s : State) (who : Agent) : Nat :=
  match s.agentChan who with
  | some n => s.roleOf n
  | none => if who = .pkc then 4 else 0

/-- BUSY for a write that rejected an RWL field (R10). -/
def State.logRejected (s : State) (who : Agent) (a : Nat) : State :=
  match locate a with
  | none => s
  | some (b, u, _) => s.logRefused stBUSY (blkSource b) (s.blkUnit b u) (agentPlace s who) 0 [BitVec.ofNat 32 a]

/-- The register at `a` has bits that a write of 1 clears. -/
def clearsAt (a : Nat) : Bool :=
  match locate a with
  | some (b, u, o) =>
    match findDesc o (blkRows b u) with
    | some (r, _) => r.w1c != 0
    | none => false
  | none => false

/-- The words of one write with their places, those whose 1s clear bits first: a bit that the other word sets in the same
cycle then reads 1 (R11). -/
def writeOrder (a : Nat) (vs : List Word) : List (Nat × Word) :=
  let es := (List.range vs.length).zip vs
  es.filter (fun e => clearsAt (a + 4 * e.1)) ++ es.filter fun e => !clearsAt (a + 4 * e.1)

/-- The words of one write, from offset `a` upward; BUSY is logged once where an RWL field was rejected (R10). -/
def State.writeWords (s : State) (who : Agent) (role a : Nat) (vs : List Word) : State × Bool :=
  let x := (writeOrder a vs).foldl (fun (x : State × Bool) (e : Nat × Word) =>
    let y := x.1.writeWord who role (a + 4 * e.1) e.2
    (y.1, x.2 || y.2)) (s, false)
  (if x.2 then x.1.logRejected who a else x.1, x.2)

/-- The alignment of R4. -/
def regAligned (a : Nat) (wide : Bool) : Bool := if wide then a % 8 == 0 else a % 4 == 0

/-- A host function's register request that none of its BARs takes, or of a wrong alignment (R519, R523, R524): the function. -/
def hostMiss (who : Agent) (a : Nat) (wide : Bool) : Option Nat :=
  match who with
  | .host fn secure =>
    let there := match locate a with
      | some (.ch, n, _) => if secure then fn == 0 && n == 0x10 else n == fn
      | some (.store, _, _) => fn == 0 && !secure
      | some (.tb, _, o) => !secure && decide (o < 0x30)
      | _ => false
    if there && regAligned a wide then none else some fn
  | _ => none

/-- The mirror of TB registers in a BAR is read-only (R519). -/
def mirrorOnly (who : Agent) (a : Nat) : Bool :=
  match who, locate a with
  | .host _ _, some (.tb, _, _) => true
  | _, _ => false

/-- A register write by an agent (R4, R6, R10): 32 bits, or 64 bits over two registers. A channel block takes writes of its
owner alone (R450). -/
def State.registerWrite (s : State) (who : Agent) (role a : Nat) (wide : Bool) (v : Word64) : State × Bool :=
  let vs := if wide then words64 v.toNat else [BitVec.ofNat 32 v.toNat]
  match hostMiss who a wide with
  | some fn => (if s.domOn domHost then s.hostUR fn else s, false)
  | none =>
  if !regAligned a wide || mirrorOnly who a then (s, false)
  else if !s.blockOn a then (s.logOff (agentPlace s who) 0 [a], false)
  else match locate a with
    | some (.ch, n, o) => (s.asSender who n o wide v fun s => (s.writeWords who role a vs).1, false)
    | _ =>
      let x := s.writeWords who role a vs
      (if routeTable a && decide (who = .pkc) then x.1.newRoutes else x.1, x.2)

/-- REGISTER_WRITE; a block in a domain that is not ON, which is logged (R497), and a misaligned access take no write. -/
def execRegisterWrite (who : Agent) (off : Nat) (wide : Bool) (v : Word64) (s : State) : Host.Outcome State Fault Refusal :=
  .next (s.registerWrite who (s.agentRole who) off wide v).1

/-- A read of one register, or of a register and the one that follows it. -/
def State.controlRead (s : State) (who : Agent) (a n : Nat) : State × Reply :=
  match s.regRead who a with
  | (s, lo) =>
    if n = 4 then (s, Reply.ok (toBytes lo.toNat 4))
    else
      match s.regRead who (a + 4) with
      | (s, hi) => (s, Reply.ok (toBytes lo.toNat 4 ++ toBytes hi.toNat 4))

/-- An access of `n` bytes that the block at `a` takes. -/
def State.controlFits (s : State) (a n : Nat) : Bool := (n == 4 || n == 8) && regAligned a (n == 8) && s.blockOn a

/-- A write takes effect with the security state that its core had at the store (R221). -/
def State.asIssued (s : State) (r : Req) (f : State → State) : State :=
  match r.who with
  | .core c =>
    let now := s.coreSecure c
    if now = r.secure then f s
    else (f (s.setFld (cpcB c) CPC_STATUS.SECURE (bit1 r.secure))).setFld (cpcB c) CPC_STATUS.SECURE (bit1 now)
  | _ => f s

/-- An access at offset `a` of control space. -/
def State.controlAt (s : State) (r : Req) (a : Nat) : State × Reply :=
  if (locate a).isNone then ((s.unmapped r).1, Reply.denied)
  else if !s.entryOk r then (s, Reply.denied)
  else if !s.blockOn a then (s.logOff r.place r.job [a], Reply.denied)
  else
    match r.op with
    | .read n => if s.controlFits a n then s.controlRead r.who a n else (s, Reply.denied)
    | .write d =>
      if s.controlFits a d.length then
        (s.asIssued r fun s => (s.registerWrite r.who (s.agentRole r.who) a (d.length == 8) (BitVec.ofNat 64 (leNat d))).1,
          Reply.ok [])
      else (s, Reply.denied)
    | _ => (s, Reply.denied)

/-- An access of the own place to control space (R4, R275, R316). -/
def State.controlAccess (s : State) (r : Req) : State × Reply :=
  s.controlAt r (r.addr - controlAddr 0)

def execDrfClearGo (u : Fin 15) (s : State) : Host.Outcome State Fault Refusal := .next (s.driftClear (drfB u))

def execStrAbandon (d : Fin 12) (s : State) : Host.Outcome State Fault Refusal := .next (s.abandonImages d)

/-- A write of FT_DEV_d, whose COMMIT maps or unmaps the range (R297, R527). -/
def execFtDevCommit (dev : Fin 4) (v : Word) (s : State) : Host.Outcome State Fault Refusal :=
  .next (s.registerWrite .pkc 4 (ftB + FT_DEV.off + FT_DEV.stride * dev) false (v.setWidth 64)).1

end Sys2Proof.Machine
end

