-- ==== Sys2Proof/Machine/Commands.lean ====
section
/-! DEFINITION. Command packets of the general, unit, memory, team and timebase groups (R471), and the fabric die's sending
of requests (R316, R343, R344). The layouts of parameters that the spec does not give stand in log entry 6. -/

namespace Sys2Proof.Machine

/-! ### Sending requests (R316, R343, R344) -/

/-- No earlier request of the agent waits in front of request `i` of the queue (R343). -/
def firstOfAgent (q : List Req) (i : Nat) (r : Req) : Bool :=
  !(q.take i).any fun x => x.place == r.place && x.srcUnit == r.srcUnit

/-- The limits of R344 let a request leave. -/
def State.maySend (s : State) (r : Req) : Bool :=
  r.dst == s.place || s.fabric.unreachable.contains r.dst ||
    (decide (s.fabric.sent.length < 65536) &&
      !s.fabric.sent.any fun x =>
        x.dst == r.dst && decide (4096 ≤ (mapGet 0 s.fabric.seqNext r.dst + 65536 - x.seq) % 65536))

/-- The request that leaves next: the first in the queue that may. -/
def State.nextSend (s : State) : Option (Nat × Req) :=
  let q := s.fabric.reqQ
  (List.zip (List.range q.length) q).find? fun e => firstOfAgent q e.1 e.2 && s.maySend e.2

/-- REQUEST_SEND: numbered and sent (R343, R344), completed at once to an unreachable place (R332), or served by a register
block of the own place (R316). -/
def State.sendRequest (s : State) : State :=
  match s.nextSend with
  | none => s
  | some (i, r) =>
    let s := { s with fabric := { s.fabric with reqQ := s.fabric.reqQ.eraseIdx i } }
    if r.dst = s.place then
      let x := s.controlAccess r
      (x.1.landReq r x.2).goesOn r.land
    else if s.fabric.unreachable.contains r.dst then (s.landReq r ⟨stMEMBER_LOST, [], false⟩).goesOn r.land
    else
      let q := s.takeSeq r.dst
      let e : Sent := { dst := r.dst, seq := q.1, req := r, epoch := s.epoch, grain := s.now }
      ({ q.2 with fabric := { q.2.fabric with sent := q.2.fabric.sent ++ [e] } }).inject (q.2.reqPacket r q.1)

def execRequestSend (s : State) : Host.Outcome State Fault Refusal := .next s.sendRequest

/-! ### NOP, UNIT_ARM, UNIT_STOP, UNIT_ABORT (R98-R102) -/

def bodyNopCommand (s : State) (h : CmdHdr) (_ : List Word64) : State := s.finish h 0x0005 stOK []

def execNopCommand (h : CmdHdr) (ps : List Word64) (s : State) : Host.Outcome State Fault Refusal :=
  .next (s.command h 0x0005 ps bodyNopCommand)

/-- UNIT_ARM at one die: the start grain, then ARM. A die that is not STOPPED refuses both. -/
def State.armUnit (ps : List Word64) (s : State) (d : Nat) : State × Option (Nat × List Word64) :=
  if s.dieState d ≠ dsSTOPPED ∨ s.dieLoading d then (s.dieBusy d, some (stBUSY, []))
  else
    let s := (s.setReg64 (dsqB d + DSQ_START_GRAIN_LO.off) (paramBits ps 0 63 0)).armDie d
    (s, some (if s.dieState d = dsSTOPPED then stBUSY else stOK, []))

def bodyUnitArm (s : State) (h : CmdHdr) (ps : List Word64) : State := s.onDies h 0x0101 (State.armUnit ps)

def execUnitArm (h : CmdHdr) (ps : List Word64) (s : State) : Host.Outcome State Fault Refusal :=
  .next (s.command h 0x0101 ps bodyUnitArm)

def bodyUnitStop (s : State) (h : CmdHdr) (_ : List Word64) : State :=
  s.onDies h 0x0102 fun s d => (s.stopDie d, some (stOK, []))

def execUnitStop (h : CmdHdr) (ps : List Word64) (s : State) : Host.Outcome State Fault Refusal :=
  .next (s.command h 0x0102 ps bodyUnitStop)

def bodyUnitAbort (s : State) (h : CmdHdr) (_ : List Word64) : State :=
  s.onDies h 0x0103 fun s d => (s.abortDie d, some (stOK, []))

def execUnitAbort (h : CmdHdr) (ps : List Word64) (s : State) : Host.Outcome State Fault Refusal :=
  .next (s.command h 0x0103 ps bodyUnitAbort)

/-! ### Registers (R471) -/

/-- The register at a control-space offset may be accessed by a command to `target`. -/
def State.regIn (s : State) (target a : Nat) : Bool :=
  a % 4 == 0 && s.blockOn a &&
    match locate a with
    | none => false
    | some (b, u, _) => unitContains target (s.blkUnit b u)

def regRun (ps : List Word64) (n : Nat) : List Nat := (List.range n).map fun i => paramBits ps 0 31 0 + 4 * i

/-- REG_READ: one register a word. -/
def bodyRegRead (s : State) (h : CmdHdr) (ps : List Word64) : State :=
  let n := paramBits ps 0 47 32
  let as := regRun ps n
  if n = 0 ∨ 64 < n ∨ as.any (fun a => !s.regIn h.target.toNat a) then
    (s.logOff h.entry h.job.toNat as).finish h 0x0104 stDENIED []
  else
    let x := as.foldl (fun (x : State × List Word64) a =>
      let y := x.1.regRead .pkc a
      (y.1, x.2 ++ [BitVec.ofNat 64 y.2.toNat])) (s, [])
    x.1.finish h 0x0104 stOK x.2

def execRegRead (h : CmdHdr) (ps : List Word64) (s : State) : Host.Outcome State Fault Refusal :=
  .next (s.command h 0x0104 ps bodyRegRead)

/-- Writes of consecutive registers by the package controller, each its own write; the route tables they change come into
force together. -/
def State.regWrites (s : State) (role : Nat) (as : List Nat) (vs : List Word) : State × Bool :=
  let x := (List.zip as vs).foldl (fun (x : State × Bool) (e : Nat × Word) =>
    match locate e.1 with
    | some (.ch, n, _) => (x.1.chanDenied .pkc n, x.2)
    | _ =>
      let y := x.1.writeWords .pkc role e.1 [e.2]
      (y.1, x.2 || y.2)) (s, false)
  (if as.any routeTable then x.1.newRoutes else x.1, x.2)

/-- REG_WRITE: BUSY where an RWL field was rejected; the other fields stand (R10). -/
def bodyRegWrite (s : State) (h : CmdHdr) (ps : List Word64) : State :=
  let n := paramBits ps 0 47 32
  let as := regRun ps n
  if n + 1 ≠ ps.length ∨ as.any (fun a => !s.regIn h.target.toNat a) then
    (s.logOff h.entry h.job.toNat as).finish h 0x0105 stDENIED []
  else
    let x := s.regWrites h.role as ((ps.drop 1).map fun v => BitVec.ofNat 32 v.toNat)
    x.1.finish h 0x0105 (if x.2 then stBUSY else stOK) []

def execRegWrite (h : CmdHdr) (ps : List Word64) (s : State) : Host.Outcome State Fault Refusal :=
  .next (s.command h 0x0105 ps bodyRegWrite)

/-! ### Tasks and modes (R24, R174) -/

/-- The three registers of TASK_SET, by their access codes. -/
def State.putTask (s : State) (d : Nat) (ps : List Word64) : State :=
  let n := paramBits ps 0 35 32
  s.writeRwsAll d
    [(scrB d + 0x100 + 4 * n, 0x1FFF1FFF, paramBits ps 1 63 32), (tskB d n + TSK_JOB.off, 0xFFFFFFFF, paramBits ps 1 31 0),
     (tskB d n + TSK_CFG.off, 0x8FB0FFFF, paramBits ps 0 31 0)]

/-- TASK_SET at one die: where VALID is set, the clears of R174 come first and the registers wait for them. -/
def State.setTask (h : CmdHdr) (ps : List Word64) (s : State) (d : Nat) : State × Option (Nat × List Word64) :=
  let scr := paramBits ps 1 63 32
  match s.foreignSlots d (paramBits ps 0 31 31 == 1) (paramBits ps 1 31 0) (bitsOf scr 28 16) (bitsOf scr 12 0) with
  | [] => (s.putTask d ps, some (stOK, []))
  | cs => if s.clearsBlocked d cs then (s.dieBusy d, some (stBUSY, [])) else (s.startClears d cs (.set h ps), none)

/-- The write of a die-sequencer register that waited for clears (R174). -/
def State.putHeld (s : State) (d o : Nat) (v : Word) : State :=
  match findDesc o (blkRows .dsq d) with
  | none => s
  | some (r, _) => (s.putDsq d o r v).1

/-- SCR_CLEAR_DONE (R173, R174): the cycle of the last slot has passed; the next range starts, or BUSY falls and what waited
goes on: a TASK_SET writes its registers and completes, a register write takes effect. -/
def State.finishClear (s : State) (d : Nat) : State :=
  match (s.die d).clear with
  | none => s
  | some c =>
    if c.did < c.count then s
    else match c.rest with
    | r :: rs => s.modDie d fun x => { x with clear := some ⟨r.1, r.2, 0, x.wall, rs, c.task⟩ }
    | [] =>
      let s := s.modDie d fun x => { x with clear := none }
      match c.task with
      | .none => noteHolders s d
      | .set h ps => (s.putTask d ps).partDone h 0x0106 (s.dieUnit d) stOK []
      | .write a v => s.putHeld d (a - dsqB d) v

def execScrClearDone (d : Fin 12) (s : State) : Host.Outcome State Fault Refusal := .next (s.finishClear d)

def bodyTaskSet (s : State) (h : CmdHdr) (ps : List Word64) : State := s.onDies h 0x0106 (State.setTask h ps)

def execTaskSet (h : CmdHdr) (ps : List Word64) (s : State) : Host.Outcome State Fault Refusal :=
  .next (s.command h 0x0106 ps bodyTaskSet)

/-- The mode fields of TSK_CFG from a MODE_SET parameter: RELAXED, THROUGHPUT, NUMERICS, STEP. -/
def modeBits (ps : List Word64) : Nat :=
  paramBits ps 0 32 32 * 2 ^ 27 + paramBits ps 0 33 33 * 2 ^ 26 + paramBits ps 0 35 34 * 2 ^ 24 + paramBits ps 0 36 36 * 2 ^ 23

/-- MODE_SET at one die: every valid task of the job gets the modes at the next cut (R24). -/
def State.setModes (ps : List Word64) (s : State) (d : Nat) : State × Option (Nat × List Word64) :=
  let job := paramBits ps 0 31 0
  let tasks := (List.range 16).filter fun n => s.taskValid d n && s.tsk d n TSK_JOB.JOB == job
  (tasks.foldl (fun s n => s.writeRws d (tskB d n + TSK_CFG.off) 0x0F800000 (modeBits ps)) s, some (stOK, []))

def bodyModeSet (s : State) (h : CmdHdr) (ps : List Word64) : State := s.onDies h 0x0120 (State.setModes ps)

def execModeSet (h : CmdHdr) (ps : List Word64) (s : State) : Host.Outcome State Fault Refusal :=
  .next (s.command h 0x0120 ps bodyModeSet)

/-- SCR_CLEAR at one die (R173). -/
def State.clearUnit (ps : List Word64) (s : State) (d : Nat) : State × Option (Nat × List Word64) :=
  let v := BitVec.ofNat 32 (paramBits ps 0 31 6 * 64 + 1)
  let c := clearRange (bitsOf v.toNat 31 19) (bitsOf v.toNat 18 6)
  let st := if (s.die d).clear.isSome || s.clearRefused d c then stBUSY else stOK
  (s.writeScrClear d v, some (st, []))

def bodyScrClear (s : State) (h : CmdHdr) (ps : List Word64) : State := s.onDies h 0x0206 (State.clearUnit ps)

def execScrClear (h : CmdHdr) (ps : List Word64) (s : State) : Host.Outcome State Fault Refusal :=
  .next (s.command h 0x0206 ps bodyScrClear)

/-! ### Memory (R276, R447, R471) -/

/-- Issues the accesses of a command, which ends with the last of them. -/
def State.cmdAccesses (s : State) (h : CmdHdr) (opcode : Nat) (rs : List Req) : State :=
  if rs = [] then s.finish h opcode stOK []
  else
    let n := s.fabric.nextReq
    let s := s.setCmd h opcode fun r => { r with waiting := (List.range rs.length).map fun i => reqPart (n + i) }
    s.issueReqs (rs.map fun r => { r with land := .pkc h opcode })

def bodyMemRead (s : State) (h : CmdHdr) (ps : List Word64) : State :=
  let n := paramBits ps 0 63 48
  if n < 8 ∨ 256 < n then s.finish h 0x0201 stDENIED []
  else s.cmdAccesses h 0x0201 [s.cmdReq h (paramBits ps 0 44 0) (.read n)]

def execMemRead (h : CmdHdr) (ps : List Word64) (s : State) : Host.Outcome State Fault Refusal :=
  .next (s.command h 0x0201 ps bodyMemRead)

def bodyMemWrite (s : State) (h : CmdHdr) (ps : List Word64) : State :=
  s.cmdAccesses h 0x0202 [s.cmdReq h (paramBits ps 0 44 0) (.write (word64Bytes (ps.drop 1)))]

def execMemWrite (h : CmdHdr) (ps : List Word64) (s : State) : Host.Outcome State Fault Refusal :=
  .next (s.command h 0x0202 ps bodyMemWrite)

/-- Piece [a, a + n) of a fill that began `ofs` bytes before: the pattern repeats from the fill's first byte. -/
def fillPiece (pat : List Byte) (ofs n : Nat) : List Byte := (List.range n).map fun i => nthD 0 pat ((ofs + i) % 8)

/-- MEM_FILL: pieces within blocks (R276). A range that leaves the map's 45 bits is refused. -/
def bodyMemFill (s : State) (h : CmdHdr) (ps : List Word64) : State :=
  let a := paramBits ps 0 44 0
  let n := paramBits ps 1 63 0
  if 2 ^ 45 < a + n then s.finish h 0x0203 stDENIED []
  else
    s.cmdAccesses h 0x0203 ((pieces a n).map fun p =>
      s.cmdReq h p.1 (.write (fillPiece (paramBytes ps 2 1) p.2.2 p.2.1)))

def execMemFill (h : CmdHdr) (ps : List Word64) (s : State) : Host.Outcome State Fault Refusal :=
  .next (s.command h 0x0203 ps bodyMemFill)

/-- COPY: the descriptor enters the queue of engine 12, whose completion is the reply. -/
def bodyCopyCommand (s : State) (h : CmdHdr) (ps : List Word64) : State :=
  if !s.domOn (domK00 12) then s.finish h 0x0204 stDENIED []
  else if 256 ≤ (s.copy 12).queue.length then s.finish h 0x0204 stQUEUE_FULL []
  else
    let q : Submit := { addr := 0, chan := some h.chan, secure := secureChan h.chan, job := h.job.toNat, cmd := some (h, ps) }
    s.modCopy 12 fun x => { x with queue := x.queue ++ [q] }

def execCopyCommand (h : CmdHdr) (ps : List Word64) (s : State) : Host.Outcome State Fault Refusal :=
  .next (s.command h 0x0204 ps bodyCopyCommand)

/-- MRT_WRITE (R317, R318). -/
def bodyMrtWrite (s : State) (h : CmdHdr) (ps : List Word64) : State :=
  let first := paramBits ps 0 18 0
  let es := ps.drop 1
  if 524288 < first + es.length then s.finish h 0x0205 stDENIED []
  else
    let s := (List.zip (List.range es.length) es).foldl (fun (s : State) (e : Nat × Word64) =>
      let a := glpB + MEMBER_TABLE.off + 8 * (first + e.1)
      (s.setReg a (BitVec.ofNat 32 e.2.toNat &&& 0xFFFC7FFF)).setReg (a + 4) (BitVec.ofNat 32 (e.2.toNat / 2 ^ 32) &&& 0xF)) s
    s.finish h 0x0205 stOK []

def execMrtWrite (h : CmdHdr) (ps : List Word64) (s : State) : Host.Outcome State Fault Refusal :=
  .next (s.command h 0x0205 ps bodyMrtWrite)

/-! ### Teams (R371-R373) -/

def execTeamCreate (h : CmdHdr) (ps : List Word64) (s : State) : Host.Outcome State Fault Refusal :=
  .next (s.command h 0x0301 ps bodyTeamCreate)

def execTeamDestroy (h : CmdHdr) (ps : List Word64) (s : State) : Host.Outcome State Fault Refusal :=
  .next (s.command h 0x0302 ps bodyTeamDestroy)

def execTeamReset (h : CmdHdr) (ps : List Word64) (s : State) : Host.Outcome State Fault Refusal :=
  .next (s.command h 0x0303 ps bodyTeamReset)

def execTeamInfo (h : CmdHdr) (ps : List Word64) (s : State) : Host.Outcome State Fault Refusal :=
  .next (s.command h 0x0310 ps bodyTeamInfo)

/-! ### Timebase (R408, R541) -/

/-- TB_CONFIG: the RWL fields GM, PPS_EN and START; BUSY once the timebase runs. -/
def bodyTbConfig (s : State) (h : CmdHdr) (ps : List Word64) : State :=
  if s.tb.locked then (s.logRejected .pkc tbB).finish h 0x0601 stBUSY []
  else
    let s := (s.setFld tbB TB_CTRL.GM (paramBits ps 0 0 0)).setFld tbB TB_CTRL.PPS_EN (paramBits ps 0 1 1)
    (s.setReg64 (tbB + TB_START_LO.off) (paramBits ps 1 63 0)).finish h 0x0601 stOK []

def execTbConfig (h : CmdHdr) (ps : List Word64) (s : State) : Host.Outcome State Fault Refusal :=
  .next (s.command h 0x0601 ps bodyTbConfig)

/-- TB_RELEASE: a FREE grandmaster without PPS locks at TB_START; one with PPS waits for the edge. -/
def bodyTbRelease (s : State) (h : CmdHdr) (_ : List Word64) : State :=
  if !s.tbGM then s.finish h 0x0602 stDENIED []
  else if s.tbState ≠ tbFREE ∨ s.tb.locked then s.finish h 0x0602 stBUSY []
  else if s.flag tbB TB_CTRL.PPS_EN then s.finish h 0x0602 stOK []
  else (s.gmLock false).finish h 0x0602 stOK []

def execTbRelease (h : CmdHdr) (ps : List Word64) (s : State) : Host.Outcome State Fault Refusal :=
  .next (s.command h 0x0602 ps bodyTbRelease)

def bodyTbRead (s : State) (h : CmdHdr) (_ : List Word64) : State :=
  s.finish h 0x0603 stOK [BitVec.ofNat 64 s.now, BitVec.ofNat 64 (s.view (tbB + TB_STATUS.off)).toNat]

def execTbRead (h : CmdHdr) (ps : List Word64) (s : State) : Host.Outcome State Fault Refusal :=
  .next (s.command h 0x0603 ps bodyTbRead)

/-! ### Events (R460) -/

/-- EVT_SUBSCRIBE: the classes of TARGET whose doorbells the channel receives. A channel has no doorbell in another
package, which answers DENIED. -/
def bodyEvtSubscribe (s : State) (h : CmdHdr) (ps : List Word64) : State :=
  if h.member then s.finish h 0x0703 stDENIED []
  else
    let m := paramBits ps 0 11 0
    (s.modChan h.chan fun c =>
      { c with subs := if m = 0 then mapErase c.subs h.target.toNat else mapPut c.subs h.target.toNat m }).finish h 0x0703 stOK []

def execEvtSubscribe (h : CmdHdr) (ps : List Word64) (s : State) : Host.Outcome State Fault Refusal :=
  .next (s.command h 0x0703 ps bodyEvtSubscribe)

end Sys2Proof.Machine
end

