-- ==== Sys2Proof/Machine/Telemetry.lean ====
section
/-! DEFINITION. Reading counters (R559, R560) and the error journal (R551, R553). -/

namespace Sys2Proof.Machine

/-! ### COUNTERS_READ -/

/-- The value of a counter now. -/
def State.counterValue (s : State) (r : CounterReg) : Nat :=
  if r.wide then (s.view r.off).toNat + (s.view (r.off + 4)).toNat * 2 ^ 32 else (s.view r.off).toNat

/-- The pairs (unit, value) of a die's counters of a set. -/
def State.counterPairs (s : State) (set d : Nat) : List Word64 :=
  (dieCounters set d).flatMap fun r => [BitVec.ofNat 64 (s.dieUnit d), BitVec.ofNat 64 (s.counterValue r)]

/-- One die's part: read now, or at the next step cut of a compute die. -/
def State.counterPart (set : Nat) (atCut : Bool) (h : CmdHdr) (s : State) (d : Nat) : State × Option (Nat × List Word64) :=
  if atCut && decide (d < 12) then (s.modDie d fun x => { x with atCut := x.atCut ++ [(h, set)] }, none)
  else (s, some (stOK, s.counterPairs set d))

/-- The dies of a target that have counters of a set; a package without one gets an empty reply. -/
def counterDies (set target : Nat) : List Nat :=
  (if unitLevel target < 2 then [unitDie target] else List.range 15).filter fun d => !(dieCounters set d).isEmpty

/-- SETs 7 to 15 are reserved: DENIED. -/
def bodyCountersRead (s : State) (h : CmdHdr) (ps : List Word64) : State :=
  let set := paramBits ps 0 3 0
  let ds := counterDies set h.target.toNat
  if 7 ≤ set then s.finish h 0x0701 stDENIED []
  else if ds = [] then s.finish h 0x0701 stOK []
  else
    let s := s.setCmd h 0x0701 fun r => { r with waiting := ds.map s.dieUnit }
    ds.foldl (State.diePart h 0x0701 (State.counterPart set (paramBits ps 0 8 8 == 1) h)) s

def execCountersRead (h : CmdHdr) (ps : List Word64) (s : State) : Host.Outcome State Fault Refusal :=
  .next (s.command h 0x0701 ps bodyCountersRead)

/-- The reads that waited for a die's cut (R559). -/
def State.cutCounters (s : State) (d : Nat) : State :=
  let l := (s.die d).atCut
  l.foldl (fun s e => s.partDone e.1 0x0701 (s.dieUnit d) stOK (s.counterPairs e.2 d)) (s.modDie d fun x => { x with atCut := [] })

/-! ### The journal -/

/-- Words of entries as parameters. -/
def entryParams (es : List JEntry) : List Word64 := pairWords (es.flatMap JEntry.words)

/-- Entries of the journal, oldest first. -/
def JrnX.entries (j : JrnX) : List JEntry := j.ring ++ j.buf.reverse

/-- A COUNT outside 1 to 1,024 is DENIED (DESIGN CHOICE, log entry 6). -/
def bodyJournalRead (s : State) (h : CmdHdr) (ps : List Word64) : State :=
  let first := paramBits ps 0 31 0
  let count := paramBits ps 0 47 32
  if count = 0 ∨ 1024 < count then s.finish h 0x0702 stDENIED []
  else
    let es := (s.jrn.entries.filter fun e => decide (first ≤ e.seq)).take count
    s.finish h 0x0702 stOK (BitVec.ofNat 64 (s.jrn.oldest + s.jrn.next * 2 ^ 32) :: entryParams es ++
      pairWords (s.jrn.jobRecords.flatMap jobWords))

def execJournalRead (h : CmdHdr) (ps : List Word64) (s : State) : Host.Outcome State Fault Refusal :=
  .next (s.command h 0x0702 ps bodyJournalRead)

def bodyJournalClear (s : State) (h : CmdHdr) (_ : List Word64) : State :=
  ({ s with jrn := { s.jrn with ring := [], buf := [] } }).finish h 0x0704 stOK []

def execJournalClear (h : CmdHdr) (ps : List Word64) (s : State) : Host.Outcome State Fault Refusal :=
  .next (s.command h 0x0704 ps bodyJournalClear)

/-- JOURNAL_PERSIST: the oldest buffered entry enters the ring once it lies more than 200,000 grains behind. -/
def State.journalPersist (s : State) : State :=
  match s.jrn.buf.getLast? with
  | none => s
  | some e =>
    if e.grain + 200000 < s.now then { s with jrn := { s.jrn.persist [e] with buf := s.jrn.buf.dropLast } } else s

def execJournalPersist (s : State) : Host.Outcome State Fault Refusal := .next s.journalPersist

end Sys2Proof.Machine
end

