-- ==== Sys2Proof/Machine/Strata.lean ====
section
/-! DEFINITION. Strata (chapter 17) up to the commit: pieces and capture ranges (R412-R414, R445), arming (R415-R418), the
close (R419, R422), shards and their digests (R423-R426), leaf lists, manifest and commit record (R427-R433), stores
(R434-R436), abandonment (R437, R438) and the adaptive timer (R439); and the step cut with what belongs to it. -/

namespace Sys2Proof.Machine

/-! ### Tensor-map entries (R412-R414) -/

def pieceWord (e : List Word) (i : Nat) : Nat := (nthD (0 : Word) e i).toNat
def pieceTensor (e : List Word) : Nat := pieceWord e 0
def pieceFmt (e : List Word) : Nat := bitsOf (pieceWord e 1) 31 28
def pieceRank (e : List Word) : Nat := bitsOf (pieceWord e 1) 27 24
def pieceFill (e : List Word) : Bool := bitOf (pieceWord e 1) 23
def pieceAddr (e : List Word) : Nat := pieceWord e 2 + pieceWord e 3 * 2 ^ 32
def pieceOrigin (e : List Word) : List Nat := (List.range 6).map fun i => pieceWord e (4 + i)
def pieceExtent (e : List Word) : List Nat := (List.range 6).map fun i => pieceWord e (10 + i)
def pieceTeam (e : List Word) : Nat := pieceWord e 16
def pieceReplica (e : List Word) : Nat := bitsOf (pieceWord e 17) 31 16
def pieceCopies (e : List Word) : Nat := bitsOf (pieceWord e 17) 15 0
def pieceShape (e : List Word) : List Nat := (List.range 6).map fun i => pieceWord e (18 + i)
def pieceName (e : List Word) : List Word := (e.drop 24).take 6
def pieceShard (e : List Word) : Nat := pieceWord e 30

/-- Nibbles of an element of a format code other than 9 and 10 (R36, R109); 0 for a code no piece may have. -/
def fmtNibbles (code : Nat) : Nat :=
  match code with
  | 0 => 16
  | 1 => 8
  | 2 | 3 => 4
  | 4 | 5 | 6 => 2
  | 7 | 8 => 1
  | _ => 0

/-- Elements of a box. -/
def boxSize (extent : List Nat) : Nat := extent.foldl (· * ·) 1

/-- Bytes of a piece, packed (R413). -/
def pieceBytes (e : List Word) : Nat := (boxSize (pieceExtent e) * fmtNibbles (pieceFmt e) + 1) / 2

/-- Where a piece lies (R413): a stack or scratch die with its number, or the far tier (12), and the offset there. -/
def pieceHome (e : List Word) : Option (Nat × Bool × Nat) :=
  let a := pieceAddr e
  let z := a + pieceBytes e - 1
  match homeOf a, homeOf z with
  | .stack k o, .stack j _ => if k = j then some (k, false, o) else none
  | .scratch k o, .scratch j p => if k = j ∧ p < 768 * 0x140000 then some (k, true, o) else none
  | .far o, .far _ => some (12, false, o)
  | _, _ => none

/-- An entry that R412 and R413 allow. -/
def pieceOk (e : List Word) : Bool :=
  let rank := pieceRank e
  let past := fun (l : List Nat) => (l.drop rank).all (· == 1)
  fmtNibbles (pieceFmt e) != 0 && decide (1 ≤ rank) && decide (rank ≤ 6) && pieceAddr e % 256 == 0 &&
    (pieceExtent e).all (· != 0) && past (pieceExtent e) && past (pieceShape e) && (pieceHome e).isSome

/-- The structure fingerprint (R414). -/
def structPrint (fmt rank : Nat) (shape : List Nat) : Nat :=
  leNat (shake256 (toBytes fmt 1 ++ toBytes rank 1 ++ (shape.take rank).flatMap fun n => toBytes n 4) 8)

/-! ### Capture ranges (R412, R445) -/

/-- Adds a range (first, count) to rising, separate ranges. -/
def addRange (f n : Nat) : List (Nat × Nat) → List (Nat × Nat)
  | [] => [(f, n)]
  | (g, m) :: r =>
    if f + n < g then (f, n) :: (g, m) :: r
    else if g + m < f then (g, m) :: addRange f n r
    else addRange (min f g) (max (f + n) (g + m) - min f g) r

/-- Granules that bytes [o, o + n) of a unit touch: first and count. -/
def granSpan (o n : Nat) : Nat × Nat := (o / 65536, (o + n - 1) / 65536 + 1 - o / 65536)

/-- Capture ranges of a die's stack or scratch for a list of pieces. -/
def captureRanges (pieces : List (List Word)) (d : Nat) (scratch : Bool) : List (Nat × Nat) :=
  pieces.foldl (fun rs e =>
    match pieceHome e with
    | some (u, sc, o) =>
      if u = d ∧ sc = scratch then
        let g := granSpan o (pieceBytes e)
        addRange g.1 g.2 rs
      else rs
    | none => rs) []

/-- Writes the capture registers of a die, up to 32 ranges each; a count of 0 ends a list. -/
def State.writeCaps (s : State) (d : Nat) (m c : List (Nat × Nat)) : State :=
  let b := dsqB d
  (List.range 32).foldl (fun s i =>
    let x := nthD (0, 0) m i
    let y := nthD (0, 0) c i
    let s := (s.setFld (b + 8 * i) STR_CAP_M_LO.FIRST x.1).setFld (b + 8 * i) STR_CAP_M_HI.COUNT x.2
    (s.setFld (b + 4 * i) STR_CAP_S.FIRST y.1).setFld (b + 4 * i) STR_CAP_S.COUNT y.2) s

/-! ### What a package keeps of a job -/

def State.strJob (s : State) (job : Nat) : StrJob := mapGet StrJob.init s.strata job
def StrJob.cfg (x : StrJob) (i : Nat) : Nat := (nthD (0 : Word) x.config i).toNat
def StrJob.cfg64 (x : StrJob) (i : Nat) : Nat := x.cfg i + x.cfg (i + 1) * 2 ^ 32
def StrJob.every (x : StrJob) : Nat := bitsOf (x.cfg 0) 31 16
def StrJob.perColumn (x : StrJob) : Nat := bitsOf (x.cfg 0) 15 8
def StrJob.lead (x : StrJob) : Nat := bitsOf (x.cfg 0) 7 0
def StrJob.team (x : StrJob) : Nat := x.cfg 1

/-- Place and die of each member of STRATUM_TEAM, in rank order. -/
def State.strHomes (s : State) (x : StrJob) : List (Nat × Nat) :=
  match s.team? x.team with
  | some t => t.homes
  | none => []

/-- The rank that this package holds in STRATUM_TEAM (R414). -/
def State.strRank (s : State) (x : StrJob) : Option Nat :=
  let hs := s.strHomes x
  (List.range hs.length).find? fun r => (nthD (0, 0) hs r).1 == s.place

/-- This package's controller is the stratum root (R415). -/
def State.strRoot (s : State) (x : StrJob) : Bool := s.strRank x == some 0

/-- The die of this package's member of STRATUM_TEAM. -/
def State.strDie (s : State) (x : StrJob) : Nat :=
  match s.strRank x with
  | some r => (nthD (0, 0) (s.strHomes x) r).2
  | none => 0

/-- The compute dies whose cut images a stratum of the job needs: those that hold captured data, or else the member's own
(log entry 26). -/
def State.strDies (s : State) (x : StrJob) : List Nat :=
  let held := x.pieces.filterMap fun e => (pieceHome e).map fun h => h.1
  let ds := (List.range 12).filter held.contains
  if ds = [] then [s.strDie x % 12] else ds

/-- A job step of a die (R418, R419). -/
def State.strStep (s : State) (d : Nat) : Nat := s.reg64 (dsqB d + STR_STEP_LO.off)

/-! ### STRATUM_CONFIG, STRATUM_TENSOR, STRATUM_LIST -/

/-- STRATUM_CONFIG: the record, and from STORE_TABLE the stores of this package and of the root. -/
def bodyStratumConfig (s : State) (h : CmdHdr) (ps : List Word64) : State :=
  let y := s.readFor h (paramBits ps 0 63 0) 64
  let x : StrJob := { y.1.strJob h.job.toNat with config := (leWords 4 (fitBytes 64 y.2.data)).map (BitVec.ofNat 32) }
  if y.2.status ≠ stOK then y.1.finish h 0x0401 y.2.status []
  else
    match y.1.strRank x with
    | none => y.1.finish h 0x0401 stDENIED []
    | some r =>
      if x.perColumn = 0 ∨ 31 < x.perColumn ∨ x.lead = 0 then y.1.finish h 0x0401 stDENIED []
      else
        let table := x.cfg64 2
        let own := y.1.readFor h (table + 16 * r) 16
        let root := own.1.readFor h table 16
        let st := max own.2.status root.2.status
        if st ≠ stOK then root.1.finish h 0x0401 st []
        else
          let pair := fun (bs : List Byte) => (leNat (bs.take 8), leNat ((bs.drop 8).take 8))
          let x := { x with store := pair own.2.data, rootStore := pair root.2.data, nextBedrock := true, failures := 0,
                            configGrain := root.1.now, lastFailure := root.1.now }
          (root.1.modStrata h.job.toNat fun _ => x).finish h 0x0401 stOK []

def execStratumConfig (h : CmdHdr) (ps : List Word64) (s : State) : Host.Outcome State Fault Refusal :=
  .next (s.command h 0x0401 ps bodyStratumConfig)

/-- Two entries name the same piece of a job. -/
def samePiece (a b : List Word) : Bool :=
  pieceTensor a == pieceTensor b && pieceShard a == pieceShard b && pieceReplica a == pieceReplica b

/-- Registers entries of a job; a second entry of a piece replaces the first. -/
def registerPieces (old new : List (List Word)) : List (List Word) :=
  new.foldl (fun l e => (l.filter fun x => !samePiece x e) ++ [e]) old

/-- Every registered piece of every job with those of one job replaced. -/
def State.allPieces (s : State) (job : Nat) (ps : List (List Word)) : List (List Word) :=
  (s.strata.filter fun e => e.1 != job).flatMap (fun e => e.2.pieces) ++ ps

/-- STRATUM_TENSOR: BUSY where a capture range of a die with an open image would change (R445); DENIED for an entry that
R412 or R413 forbids, for more ranges than the registers hold, or for a range longer than COUNT can say. -/
def bodyStratumTensor (s : State) (h : CmdHdr) (ps : List Word64) : State :=
  let job := h.job.toNat
  let es := chunksOf 32 (ps.length + 1) (splitWords ps)
  let all := s.allPieces job (registerPieces (s.strJob job).pieces es)
  let caps := (List.range 12).map fun d => (d, captureRanges all d false, captureRanges all d true)
  let changed := caps.filter fun c => s.memCaps c.1 != c.2.1 || s.scrCaps c.1 != c.2.2
  if ps.length % 16 ≠ 0 then s.finish h 0x0402 stBAD_LENGTH []
  else if !es.all pieceOk || caps.any (fun c => decide (32 < c.2.1.length) || decide (32 < c.2.2.length) ||
      c.2.1.any fun r => decide (2 ^ 21 ≤ r.2)) then
    s.finish h 0x0402 stDENIED []
  else if changed.any fun c => s.memOpen c.1 || s.scrOpen c.1 then s.finish h 0x0402 stBUSY []
  else
    let s := changed.foldl (fun s c => s.writeCaps c.1 c.2.1 c.2.2) s
    let s := s.modStrata job fun x =>
      { x with pieces := registerPieces x.pieces es, nextBedrock := x.nextBedrock || !changed.isEmpty }
    s.finish h 0x0402 stOK []

def execStratumTensor (h : CmdHdr) (ps : List Word64) (s : State) : Host.Outcome State Fault Refusal :=
  .next (s.command h 0x0402 ps bodyStratumTensor)

/-- STRATUM_LIST of the job that the parameter names: column, stratum, step and record address of each (log entry 6). -/
def bodyStratumList (s : State) (h : CmdHdr) (ps : List Word64) : State :=
  s.finish h 0x0406 stOK ((s.strJob (paramBits ps 0 31 0)).committed.flatMap fun c =>
    [BitVec.ofNat 64 c.1, BitVec.ofNat 64 c.2.1, BitVec.ofNat 64 c.2.2.1, BitVec.ofNat 64 c.2.2.2])

def execStratumList (h : CmdHdr) (ps : List Word64) (s : State) : Host.Outcome State Fault Refusal :=
  .next (s.command h 0x0406 ps bodyStratumList)

/-! ### Writes to the members (R418, R437) -/

/-- Places of the other member packages. -/
def State.strOthers (s : State) (x : StrJob) : List Nat :=
  ((s.strHomes x).map fun e => e.1).foldl (fun l p => if p = s.place ∨ l.contains p then l else l ++ [p]) []

/-- A MGMT_WRITE frame to registers of another package (R468). -/
def State.mgmtPut (s : State) (job place off : Nat) (data : List Byte) : State :=
  s.sendMgmt 0x7B place (BitVec.ofNat 32 job) 8 (controlAddr off) 0 data

/-- STR_CTRL as the root sends it: its own TASK with ABANDON or BEDROCK. -/
def State.strCtrl (s : State) (x : StrJob) (abandon bedrock : Bool) : List Byte :=
  toBytes (bit1 abandon * 2 ^ 31 + bit1 bedrock * 2 ^ 8 + s.fld (dsqB (s.strDie x % 12)) STR_CTRL.TASK) 4

/-- STR_DUE and BEDROCK of one die of this package. -/
def State.writeDue (s : State) (d step : Nat) (bedrock : Bool) : State :=
  let b := dsqB d
  let s := s.writeRws d (b + STR_CTRL.off) 0x100 (bit1 bedrock * 0x100)
  (s.writeRws d (b + STR_DUE_LO.off) 0xFFFFFFFF step).writeRws d (b + STR_DUE_HI.off) 0xFFFFFFFF (step / 2 ^ 32)

/-! ### Abandonment (R437, R438) -/

/-- The stratum leaves no trace at this package: its extents are free and its calls are for nobody. -/
def State.dropStratum (s : State) (job : Nat) : State :=
  match (s.strJob job).current with
  | none => s
  | some o =>
    let s := { s with digests := s.digests.filter fun q => q.job != job }
    let drop := fun (c : CallX) => match c.own with
      | some (j, buf) => if j = job then { c with own := some (2 ^ 32, buf) } else c
      | none => c
    let s := { s with coll := { s.coll with calls := s.coll.calls.map drop } }
    s.modStrata job fun x =>
      { x with current := none, nextBedrock := x.nextBedrock || o.bedrock,
               kept := x.kept.filter fun k => !(k.2.2.1 == o.column && k.2.2.2 == o.stratum) }

/-- Abandons the open stratum at this package: its images end. -/
def State.abandonHere (s : State) (job : Nat) : State :=
  match (s.strJob job).current with
  | none => s
  | some o => (o.dies.foldl (fun s d => s.abandonImages d) s).dropStratum job

/-- The root abandons the stratum on every member that it can reach, with the status that caused it. -/
def State.abandonStratum (s : State) (job st : Nat) : State :=
  let x := s.strJob job
  match x.current with
  | none => s
  | some o =>
    let ctrl := s.strCtrl x true false
    let far := (s.strOthers x).filter fun p => !s.fabric.unreachable.contains p
    let s := far.foldl (fun s p => (List.range 12).foldl (fun s d => s.mgmtPut job p (dsqB d + STR_CTRL.off) ctrl) s) s
    let s := s.abandonHere job
    match o.cmd with
    | some h => s.finish h 0x0403 st []
    | none => s

/-- STRATUM_ABANDON: at the root on every member, elsewhere at this package. -/
def bodyStratumAbandon (s : State) (h : CmdHdr) (_ : List Word64) : State :=
  let job := h.job.toNat
  (if s.strRoot (s.strJob job) then s.abandonStratum job stOK else s.abandonHere job).finish h 0x0404 stOK []

def execStratumAbandon (h : CmdHdr) (ps : List Word64) (s : State) : Host.Outcome State Fault Refusal :=
  .next (s.command h 0x0404 ps bodyStratumAbandon)

/-! ### Arming (R416-R418) -/

/-- The open stratum of a job at this package, numbered after the latest committed one (R416). -/
def State.openStratum (s : State) (job step : Nat) (bedrock : Bool) (cmd : Option CmdHdr) : State :=
  let x := s.strJob job
  let o : StrOpen :=
    { step := step, column := if bedrock then x.column + 1 else x.column, stratum := if bedrock then 0 else x.stratum + 1,
      bedrock := bedrock, cmd := cmd, phase := .armed, dies := s.strDies x, cutDies := [], cutGrain := 0, refused := false,
      leaves := [], list := none, diverged := [], writes := 0, writeStatus := stOK, results := [] }
  s.modStrata job fun x => { x with nextBedrock := false, current := some o }

/-- The next stratum is a bedrock (R416). -/
def StrJob.wantsBedrock (x : StrJob) (asked : Bool) : Bool :=
  asked || x.nextBedrock || x.column == 0 || decide (x.perColumn ≤ x.stratum + 1)

/-- A skipped arm (R417). -/
def State.armBusy (s : State) (job : Nat) : State :=
  s.log { status := stBUSY, cls := 2, source := 0, unit := s.pkgUnit, peer := none, job := job, detail := [] }

/-- The root arms a stratum at step `step` on every member (R417, R418). -/
def State.armStratum (s : State) (job step : Nat) (asked : Bool) (cmd : Option CmdHdr) : State :=
  let x := s.strJob job
  if x.current.isSome then
    let s := s.armBusy job
    match cmd with
    | some h => s.finish h 0x0403 stBUSY []
    | none => s
  else
    let bedrock := x.wantsBedrock asked
    let s := s.openStratum job step bedrock cmd
    let ctrl := s.strCtrl x false bedrock
    let s := (s.strOthers x).foldl (fun s p => (List.range 12).foldl (fun s d =>
      let s := if bedrock then s.mgmtPut job p (dsqB d + STR_CTRL.off) ctrl else s
      s.mgmtPut job p (dsqB d + STR_DUE_LO.off) (toBytes step 8)) s) s
    let ds := s.strDies x
    if ds.any fun d => decide (step ≤ s.strStep d) then s.abandonStratum job stLATE
    else ds.foldl (fun s d => s.writeDue d step bedrock) s

/-- STRATUM_ARM: step in [62..0], BEDROCK in [63] (log entry 6). The reply comes with the stratum's commit or its
abandonment; a package that is not the root leaves the arm to it. -/
def bodyStratumArm (s : State) (h : CmdHdr) (ps : List Word64) : State :=
  let job := h.job.toNat
  let x := s.strJob job
  if x.config = [] then s.finish h 0x0403 stDENIED []
  else if !s.strRoot x then s.finish h 0x0403 stOK []
  else s.armStratum job (paramBits ps 0 62 0) (paramBits ps 0 63 63 == 1) (some h)

def execStratumArm (h : CmdHdr) (ps : List Word64) (s : State) : Host.Outcome State Fault Refusal :=
  .next (s.command h 0x0403 ps bodyStratumArm)

/-- A MGMT_WRITE of STR_DUE of die `d` for a job (R418): LATE where the die has completed that step. A die without captured
data takes none. -/
def State.memberDue (s : State) (job d step : Nat) : State × Nat :=
  let x := s.strJob job
  if x.config ≠ [] ∧ !(s.strDies x).contains d then (s, stOK)
  else if step ≠ 0 ∧ step ≤ s.strStep d then (s, stLATE)
  else
    let b := dsqB d
    let h := mapGet ⟨0, 0⟩ s.shadow (b + STR_CTRL.off)
    let bedrock := if bitOf h.mask.toNat 8 then bitOf h.val.toNat 8 else s.flag b STR_CTRL.BEDROCK
    let s := if x.config ≠ [] ∧ x.current.isNone ∧ step ≠ 0 then s.openStratum job step bedrock none else s
    ((s.writeRws d (b + STR_DUE_LO.off) 0xFFFFFFFF step).writeRws d (b + STR_DUE_HI.off) 0xFFFFFFFF (step / 2 ^ 32), stOK)

/-- STRATUM_TIMER_EXPIRE (R417, R439): an arm that meets an open stratum is made again when that ends. -/
def State.strTimer (s : State) (job : Nat) : State :=
  let x := s.strJob job
  match x.timerAt with
  | none => s
  | some g =>
    if s.now < g ∨ !s.strRoot x then s
    else
      let s := s.modStrata job fun y => { y with timerAt := none, timerLater := x.current.isSome }
      s.armStratum job (s.strStep (s.strDie x % 12) + x.lead) false none

def execStratumTimerExpire (job : Word) (s : State) : Host.Outcome State Fault Refusal := .next (s.strTimer job.toNat)

/-! ### The step cut (R29, R417, R419) -/

/-- A die has taken the cut at which its images were due. -/
def State.noteClose (s : State) (d job step : Nat) (refused : Bool) : State :=
  match (s.strJob job).current with
  | none => s
  | some o =>
    if o.step ≠ step ∨ !o.dies.contains d then s
    else
      let s := s.modOpen job fun o =>
        { o with cutDies := o.cutDies ++ [d], cutGrain := s.now, refused := o.refused || refused }
      if refused && s.strRoot (s.strJob job) then s.abandonStratum job stBUSY else s

/-- Arms that a cut of the root's die brings (R417). -/
def State.autoArm (s : State) (d job : Nat) : State :=
  let x := s.strJob job
  if x.config = [] ∨ !s.strRoot x ∨ s.strDie x % 12 ≠ d then s
  else
    let due := s.strStep d + x.lead
    let s := if x.every ≠ 0 ∧ due % x.every = 0 then s.armStratum job due false none else s
    if x.timerLater ∧ (s.strJob job).current.isNone then
      (s.modStrata job fun y => { y with timerLater := false }).armStratum job due false none
    else s

/-- STEP_CUT: the actions of R29, the counters that waited for the cut (R559), and what the cut means for the strata of
jobs (R417, R419). -/
def State.stepCut (s : State) (d : Nat) : State :=
  if !s.cutReady d then s
  else
    let str := s.strTask d
    let job := s.jobOf d
    let s := (s.cutCommit d).cutCounters d
    let step := s.strStep d
    let due := str && step != 0 && s.reg64 (dsqB d + STR_DUE_LO.off) == step
    let refused := s.memRefuses d || s.scrRefuses d (s.flag (dsqB d) STR_CTRL.BEDROCK)
    let s := s.cutFinish d str
    let s := if due then s.noteClose d job step refused else s
    if str then s.strata.foldl (fun s e => s.autoArm d e.1) s else s

def execStepCut (d : Fin 12) (s : State) : Host.Outcome State Fault Refusal := .next (s.stepCut d)

/-! ### Stores and extents (R434, R435) -/

def extentBytes : Nat := 0x1000000

/-- A range that touches none of the ranges in use. -/
def rangeFree (kept : List (Nat × Nat × Nat × Nat)) (a n : Nat) : Bool :=
  kept.all fun k => decide (a + n ≤ k.1) || decide (k.1 + k.2.1 ≤ a)

/-- Extents that the root keeps for commit slots and manifests: one, and three columns of manifests (log entry 26). -/
def StrJob.rootExtents (x : StrJob) : Nat := 1 + 3 * x.perColumn

/-- The manifest of a stratum (log entry 26). -/
def StrJob.manifestAddr (x : StrJob) (column stratum : Nat) : Nat :=
  x.rootStore.1 + extentBytes * (1 + column % 3 * x.perColumn + stratum)

/-- The lowest free extents that hold `n` bytes. -/
def StrJob.allocate (x : StrJob) (root : Bool) (n : Nat) : Option Nat :=
  let k := max 1 ((n + extentBytes - 1) / extentBytes)
  let lo := if root then x.rootExtents else 0
  let all := x.store.2 / extentBytes
  ((List.range' lo (all + 1 - k - lo)).map fun i => x.store.1 + extentBytes * i).find? fun a => rangeFree x.kept a (extentBytes * k)

/-- A part of the open stratum holds the extents of `n` bytes from `a` on. -/
def State.keepExtents (s : State) (job n : Nat) (o : StrOpen) (a : Nat) : State :=
  s.modStrata job fun y =>
    { y with kept := y.kept ++ [(a, extentBytes * max 1 ((n + extentBytes - 1) / extentBytes), o.column, o.stratum)] }

/-- Takes extents for a part of the open stratum, and goes on with their address. -/
def State.withExtents (s : State) (job n : Nat) (o : StrOpen) (refuse : State → State) (take : State → Nat → State) :
    Option Nat → State
  | none => refuse s
  | some a => take (s.keepExtents job n o a) a

/-- The extents that a part of `n` bytes gets. -/
def State.extentsFor (s : State) (job n : Nat) : Option Nat := (s.strJob job).allocate (s.strRoot (s.strJob job)) n

/-- A request of the package controller for a job's stratum. -/
def State.strReq (s : State) (job ga : Nat) (op : MemOp) (flag : Bool) : Req :=
  { s.reqOf .pkc job (gaLocal ga) op with dst := gaPlace ga, flag := flag, land := .stratum job }

/-- Writes bytes at a global address for a stratum: as SHARD_DATA within 4 KiB (R425), or as WRITE; `bad` marks the bytes that
carry poison (R294). -/
def State.strWrite (s : State) (job ga : Nat) (data : List Byte) (bad : List Bool) (shard flag : Bool) : State :=
  let parts := if gaPlace ga = s.place then pieces (gaLocal ga) data.length else copyPackets (gaLocal ga) data.length
  let base := gaPlace ga * 2 ^ 45
  let rs := parts.map fun p =>
    let bytes := (data.drop p.2.2).take p.2.1
    { s.strReq job (base + p.1) (if shard then .shardData bytes else .write bytes)
        (flag && decide (p.2.2 + p.2.1 = data.length)) with poison := ((bad.drop p.2.2).take p.2.1).any id }
  (s.modOpen job fun o => { o with writes := o.writes + rs.length }).issueReqs rs

/-! ### Shards (R423-R426, R430) -/

/-- Ranges cut to [lo, lo + n), as offsets from lo; ranges without bytes there are left out. -/
def clipRanges (lo n : Nat) (rs : List (Nat × Nat)) : List (Nat × Nat) :=
  rs.filterMap fun r =>
    let a := max lo r.1
    let z := min (lo + n) (r.1 + r.2)
    if a < z then some (a - lo, z - a) else none

/-- The runs of a piece's shard: the whole piece, or its captured cut-set granules, clipped, neighbours joined (R423). -/
def State.shardRuns (s : State) (o : StrOpen) (e : List Word) : List (Nat × Nat) :=
  match pieceHome e with
  | none => []
  | some (u, sc, ofs) =>
    let n := pieceBytes e
    if o.bedrock ∨ 12 ≤ u then [(0, n)]
    else
      let set := if sc then (s.die u).sCut else (s.stack u).cut
      let g := granSpan ofs n
      let rs := ((List.range' g.1 g.2).filter set.mem).foldl (fun rs i => addRange (i * 65536) 65536 rs) []
      clipRanges ofs n rs

/-- The granules that hold the runs. -/
def runGranules (ofs : Nat) (runs : List (Nat × Nat)) : List Nat :=
  (runs.flatMap fun r => let g := granSpan (ofs + r.1) r.2; List.range' g.1 g.2).eraseDups

/-- Digest jobs for every registered piece (R424). -/
def State.formShards (s : State) (job : Nat) (o : StrOpen) : State :=
  let ps := (s.strJob job).pieces
  let js := (List.zip (List.range ps.length) ps).filterMap fun (e : Nat × List Word) =>
    (pieceHome e.2).map fun h =>
      let runs := s.shardRuns o e.2
      ({ unit := h.1, granules := runGranules h.2.2 runs, cutReads := decide (h.1 < 12), job := job, piece := e.1, runs := runs } :
        DigestJob)
  ({ s with digests := s.digests ++ js }).modOpen job fun o => { o with phase := .digesting }

/-- Words of 64 bits as pairs. -/
def pair64 (x : Nat) : List Word := words64 x

/-- The header of a shard (R430) and its run table. -/
def shardHead (o : StrOpen) (e : List Word) (runs : List (Nat × Nat)) : List Byte :=
  let total := runs.foldl (fun n r => n + r.2) 0
  let w := fun (n : Nat) => BitVec.ofNat 32 n
  wordBytes ([w 0x53485244, w (2 ^ 16 + bit1 (!o.bedrock) * 2 ^ 8 + pieceFmt e * 16 + pieceRank e)] ++ pair64 o.column ++
    [w o.stratum, 0] ++ pair64 o.step ++ [w (pieceTensor e), w (pieceShard e), w runs.length, 0] ++ pair64 total ++ [0, 0] ++
    (pieceOrigin e).map w ++ (pieceExtent e).map w ++ [0, 0, 0, 0]) ++
  wordBytes (runs.flatMap fun r => pair64 r.1 ++ [w r.2, 0])

/-- Whether each byte of a granule carries poison (R294). -/
def State.granuleMarks (s : State) (a : Nat) : List Bool :=
  (List.range 1024).flatMap fun i => List.replicate 64 (s.poison.contains (a / 64 + i))

/-- A granule of the far tier as its digest engines read it, 4 KiB by 4 KiB: what a device that does not answer holds comes as
poison (R299, R300). -/
def State.farGranule (s : State) (g : Nat) : List Byte × List Bool :=
  let a := farAddr (g * 65536)
  let serves := fun (i : Nat) => match s.farDev (g * 65536 + 4096 * i) with
    | some d => s.farServes d && s.domOn domCXL
    | none => false
  ((List.range 16).flatMap fun i => if serves i then readBytes s.mem (a + 4096 * i) 4096 else List.replicate 4096 0,
   (List.zip (List.range 65536) (s.granuleMarks a)).map fun e => e.2 || !serves (e.1 / 4096))

/-- One granule as a digest engine reads it (R289, R292, R299): its bytes, and whether each carries poison (R294). -/
def State.digestRead (s : State) (unit : Nat) (scratch cut : Bool) (g : Nat) : State × List Byte × List Bool :=
  let clean := List.replicate 65536 false
  if 12 ≤ unit then (s, s.farGranule g)
  else if scratch then
    if cut then let y := s.cutReadScr unit g
                (y.1, y.2, clean)
    else (s, readBytes s.mem (scratchAddr unit (g * 65536)) 65536, clean)
  else
    let at_ := match mapGet? (s.stack unit).rsv g with
      | some r => if cut then r else g
      | none => g
    if cut then let y := s.cutReadMem unit g
                (y.1, y.2, y.1.granuleMarks (stackAddr unit (at_ * 65536)))
    else
      let s := s.meetGranule unit g
      (s, readBytes s.mem (stackAddr unit (g * 65536)) 65536, s.granuleMarks (stackAddr unit (g * 65536)))

/-- The granules of a digest job, in order. -/
def State.digestReads (s : State) (q : DigestJob) (scratch : Bool) : State × FMap (List Byte × List Bool) :=
  q.granules.foldl (fun (x : State × FMap (List Byte × List Bool)) g =>
    let y := x.1.digestRead q.unit scratch q.cutReads g
    (y.1, mapPut x.2 g y.2)) (s, [])

/-- Bytes [a, a + n) of a unit from its granules, and their marks. -/
def fromGranules (m : FMap (List Byte × List Bool)) (a n : Nat) : List Byte :=
  let g := granSpan a n
  if n = 0 then []
  else (((List.range' g.1 g.2).flatMap fun i => fitBytes 65536 (mapGet ([], []) m i).1).drop (a - g.1 * 65536)).take n

def marksFrom (m : FMap (List Byte × List Bool)) (a n : Nat) : List Bool :=
  let g := granSpan a n
  if n = 0 then [] else (((List.range' g.1 g.2).flatMap fun i => (mapGet ([], []) m i).2).drop (a - g.1 * 65536)).take n

/-- The replica writes its shard (R424). -/
def pieceWrites (e : List Word) : Bool :=
  pieceTeam e == 0 || pieceCopies e == 0 || pieceReplica e == pieceShard e % pieceCopies e

/-- A shard's leaf: its bytes' length and digest (R426). -/
def shardLeaf (piece : Nat) (e : List Word) (bytes : List Byte) : Leaf :=
  { piece := piece, tensor := pieceTensor e, shard := pieceShard e, addr := none, bytes := bytes.length,
    digest := shake256 bytes 32 }

/-- A shard's leaf is listed; where the piece writes its shard, its bytes go to extents of their own. -/
def State.leafDone (s : State) (job : Nat) (o : StrOpen) (writes : Bool) (leaf : Leaf) (bytes : List Byte) (bad : List Bool) :
    State :=
  if !writes then s.modOpen job fun o => { o with leaves := o.leaves ++ [leaf] }
  else
    s.withExtents job bytes.length o (fun s => s.modOpen job fun o => { o with refused := true, leaves := o.leaves ++ [leaf] })
      (fun s a => (s.modOpen job fun o => { o with leaves := o.leaves ++ [{ leaf with addr := some a }] }).strWrite job a bytes
        bad true false) (s.extentsFor job bytes.length)

/-- The shard of a digest job: header, run table and data (R425, R426). -/
def shardBytes (o : StrOpen) (e : List Word) (q : DigestJob) (ofs : Nat) (g : FMap (List Byte × List Bool)) : List Byte :=
  shardHead o e q.runs ++ q.runs.flatMap fun r => fromGranules g (ofs + r.1) r.2

/-- The bytes of a shard that carry poison (R294). -/
def shardMarks (o : StrOpen) (e : List Word) (q : DigestJob) (ofs : Nat) (g : FMap (List Byte × List Bool)) : List Bool :=
  (shardHead o e q.runs).map (fun _ => false) ++ q.runs.flatMap fun r => marksFrom g (ofs + r.1) r.2

/-- The leaf of a shard whose granules have been read. -/
def digestLeaf (q : DigestJob) (o : StrOpen) (e : List Word) (ofs : Nat)
    (y : State × FMap (List Byte × List Bool)) : State :=
  y.1.leafDone q.job o (pieceWrites e) (shardLeaf q.piece e (shardBytes o e q ofs y.2)) (shardBytes o e q ofs y.2)
    (shardMarks o e q ofs y.2)

/-- The shard at its home, read granule by granule. -/
def State.digestHome (s : State) (q : DigestJob) (o : StrOpen) (e : List Word) : Option (Nat × Bool × Nat) → State
  | none => s
  | some (_, sc, ofs) => digestLeaf q o e ofs (s.digestReads q sc)

/-- The open stratum and the piece of a digest job, where it still has them. -/
def State.digestPiece (s : State) (q : DigestJob) : Option StrOpen → Option (List Word) → State
  | some o, some e => s.digestHome q o e (pieceHome e)
  | _, _ => s

/-- A digest job is done: the digest over header, run table and data (R426), and the bytes to the shard's extents. -/
def State.digestDone (s : State) (q : DigestJob) : State :=
  s.digestPiece q (s.strJob q.job).current (s.strJob q.job).pieces[q.piece]?

/-! ### Replicas (R426) -/

/-- The leaves of a tensor's pieces of one replica, in ascending SHARD_INDEX. -/
def replicaLeaves (x : StrJob) (o : StrOpen) (tensor replica : Nat) : List Leaf :=
  let ls := o.leaves.filter fun l => l.tensor == tensor && match x.pieces[l.piece]? with
    | some e => pieceReplica e == replica
    | none => false
  let top := ls.foldl (fun m l => max m (l.shard + 1)) 0
  (List.range top).flatMap fun i => ls.filter fun l => l.shard == i

/-- Replicated tensors with the replicas that lie here: tensor, team and replica. -/
def replicaSets (x : StrJob) : List (Nat × Nat × Nat) :=
  (x.pieces.filter fun e => pieceTeam e != 0).foldl (fun l e =>
    let k := (pieceTensor e, pieceTeam e, pieceReplica e)
    if l.contains k then l else l ++ [k]) []

/-- Call words that the controller enters for a member (R374). -/
def ctlWords (op dt red team : Nat) (member tag : Word) (count operand : Nat) : List Word :=
  [BitVec.ofNat 32 (op * 2 ^ 24 + dt * 2 ^ 20 + red * 2 ^ 16), BitVec.ofNat 32 team, member, tag, 0, BitVec.ofNat 32 count,
    0, 0, 0, 0, 0, 0, 0, 0] ++ words64 operand

/-- Enters a call for the member of rank `r`. -/
def State.ctlCall (s : State) (job op dt red team r tag count operand : Nat) (buf : List Byte) : State :=
  match s.team? team with
  | none => s.ctlResult job ⟨op, red, tag, stDENIED, 0, buf⟩
  | some t =>
    s.enterCall (nthD (0, 0) t.homes r).2 (ctlWords op dt red team (nthD 0 t.members r) (BitVec.ofNat 32 tag) count operand) false
      none (some (job, buf))

/-- The two ALLREDUCE calls of every replicated tensor. -/
def State.compareReplicas (s : State) (job : Nat) (o : StrOpen) : State :=
  let x := s.strJob job
  let s := s.modOpen job fun o => { o with phase := .comparing }
  (replicaSets x).foldl (fun s k =>
    let ls := replicaLeaves x o k.1 k.2.2
    let buf := ls.flatMap fun l => l.digest
    let call := fun (s : State) (red : Nat) => s.ctlCall job 6 5 red k.2.1 k.2.2 k.1 (4 * ls.length) 0 buf
    call (call s 1) 2) s

/-- The shards of a tensor whose words differ between MIN and MAX. -/
def divergedShards (x : StrJob) (o : StrOpen) (k : Nat × Nat × Nat) : List (Nat × Nat) :=
  let data := fun (red : Nat) => match o.results.find? fun r => r.op == 6 && r.red == red && r.tag == k.1 with
    | some r => r.data
    | none => []
  let ls := replicaLeaves x o k.1 k.2.2
  (List.zip (List.range ls.length) ls).filterMap fun (e : Nat × Leaf) =>
    let cut := fun (l : List Byte) => (l.drop (32 * e.1)).take 32
    if cut (data 1) = cut (data 2) then none else some (k.1, e.2.shard)

/-! ### Leaf list, package entry and the calls of R427 -/

/-- Leaf entries in ascending (TENSOR_ID, SHARD_INDEX) order. -/
def insertLeaf (l : Leaf) : List Leaf → List Leaf
  | [] => [l]
  | x :: r => if l.tensor < x.tensor ∨ (l.tensor = x.tensor ∧ l.shard ≤ x.shard) then l :: x :: r else x :: insertLeaf l r

def StrOpen.written (o : StrOpen) : List Leaf := (o.leaves.filter fun l => l.addr.isSome).foldr insertLeaf []

/-- A leaf entry (R431). -/
def leafEntry (l : Leaf) : List Byte :=
  wordBytes ([BitVec.ofNat 32 l.tensor, BitVec.ofNat 32 l.shard] ++ pair64 (l.addr.getD 0) ++ pair64 l.bytes) ++
    fitBytes 32 l.digest ++ List.replicate 8 0

def StrOpen.leafList (o : StrOpen) : List Byte := o.written.flatMap leafEntry

/-- The distinct tensors of the registered pieces, in the order of their first entries (log entry 26). -/
def StrJob.tensors (x : StrJob) : List (List Word) :=
  x.pieces.foldl (fun l e => if l.any fun a => pieceTensor a == pieceTensor e then l else l ++ [e]) []

/-- Address of a package entry in the root manifest (R432). -/
def StrJob.entryAddr (x : StrJob) (o : StrOpen) (rank : Nat) : Nat :=
  x.manifestAddr o.column o.stratum + 64 * (1 + x.tensors.length + rank)

/-- The leaf list goes to its own extents (R427 step 2). -/
def State.writeLeaves (s : State) (job : Nat) (o : StrOpen) : State :=
  s.withExtents job o.leafList.length o (fun s => s.modOpen job fun o => { o with refused := true })
    (fun s a => (s.modOpen job fun o' => { o' with phase := .leaves, list := some (a, shake256 o.leafList 32) }).strWrite job a
      o.leafList [] false false) (s.extentsFor job o.leafList.length)

/-- The package entry, flagged, and the SCALAR and BARRIER of STRATUM_TEAM (R427 steps 3 and 4). -/
def State.enterVote (s : State) (job : Nat) (o : StrOpen) : State :=
  let x := s.strJob job
  match o.list, s.strRank x with
  | some l, some r =>
    let entry := wordBytes ([BitVec.ofNat 32 (s.place * 2 ^ 17), BitVec.ofNat 32 o.written.length] ++ pair64 l.1) ++
      fitBytes 32 l.2 ++ List.replicate 16 0
    let s := s.modOpen job fun o => { o with phase := .voting }
    let s := s.strWrite job (x.entryAddr o r) entry [] false true
    let s := s.ctlCall job 2 5 5 x.team r 0 1 (bit1 (!o.diverged.isEmpty)) []
    s.ctlCall job 1 0 0 x.team r 0 0 0 []
  | _, _ => s

/-- Once every call of R426 has ended: the diverged shards are marked, and the leaf list is written behind the fence of the
shard writes (R427 steps 1 and 2). A call that failed refuses the stratum. -/
def State.compared (s : State) (job : Nat) (o : StrOpen) : State :=
  let x := s.strJob job
  let st := (o.results.filter fun r => r.op == 6).foldl (fun m r => max m r.status) stOK
  if st ≠ stOK then
    if s.strRoot x then s.abandonStratum job st else s.modOpen job fun o => { o with refused := true }
  else
    let o := { o with diverged := (replicaSets x).flatMap (divergedShards x o) }
    (s.modOpen job fun p => { p with diverged := o.diverged }).writeLeaves job o

/-- Carries a job's stratum as far as it can go at this package (R423-R427). -/
def State.strProgress (s : State) (job : Nat) : Nat → State
  | 0 => s
  | n + 1 =>
    let x := s.strJob job
    match x.current with
    | none => s
    | some o =>
      if o.refused ∨ o.writeStatus ≠ stOK then s
      else match o.phase with
        | .armed => if o.dies.all o.cutDies.contains then (s.formShards job o).strProgress job n else s
        | .digesting => if s.digests.any fun q => q.job == job then s else (s.compareReplicas job o).strProgress job n
        | .comparing =>
          if o.writes ≠ 0 ∨ (o.results.filter fun r => r.op == 6).length < 2 * (replicaSets x).length then s
          else (s.compared job o).strProgress job n
        | .leaves => if o.writes ≠ 0 then s else s.enterVote job o
        | _ => s

/-- SHARD_FORM: after a close the controller forms the shards, and carries the stratum on as writes and calls end. -/
def execShardForm (job : Word) (s : State) : Host.Outcome State Fault Refusal := .next (s.strProgress job.toNat 5)

/-- A digest job reads a granule of Mk whose write is held (R288). -/
def State.readsHeld (s : State) (unit : Nat) (q : DigestJob) : Bool :=
  q.unit == unit && q.granules.any (s.heldGranules unit).contains &&
    match pieceHome ((s.strJob q.job).pieces[q.piece]?.getD []) with
    | some (_, sc, _) => !sc
    | none => false

/-- The digest job that a stack controller, or the far-tier port (12), completes next: one that reads a granule whose write waits
for a reserve granule, else the oldest (R288). -/
def State.nextDigest (s : State) (unit : Nat) : Option DigestJob :=
  match s.digests.find? (s.readsHeld unit) with
  | some q => some q
  | none => s.digests.find? fun q => q.unit == unit

/-- DIGEST_JOB_DONE. -/
def State.digestJobDone (s : State) (unit : Nat) : State :=
  match s.nextDigest unit with
  | none => s
  | some q => (({ s with digests := dropFirst (· == q) s.digests }).digestDone q).strProgress q.job 5

def execDigestJobDone (unit : Fin 13) (s : State) : Host.Outcome State Fault Refusal := .next (s.digestJobDone unit)

/-! ### Manifest and commit record (R428, R432, R433) -/

/-- The header and directory of the root manifest. -/
def manifestHead (x : StrJob) (o : StrOpen) (packages : Nat) : List Byte :=
  let w := fun (n : Nat) => BitVec.ofNat 32 n
  let head := [w 0x4D414E46, w (2 ^ 16 + bit1 (!o.bedrock) * 2 ^ 8)] ++ pair64 o.column ++ [w o.stratum, w x.tensors.length] ++
    pair64 o.step ++ [w packages] ++ pair64 o.cutGrain ++ [0, 0, 0, 0, 0]
  let entry := fun (e : List Word) =>
    [w (pieceTensor e), w (pieceFmt e * 2 ^ 28 + pieceRank e * 2 ^ 24)] ++
      pair64 (structPrint (pieceFmt e) (pieceRank e) (pieceShape e)) ++ (pieceShape e).map w ++
      (List.range 6).map fun i => nthD 0 (pieceName e) i
  wordBytes (head ++ x.tensors.flatMap entry)

/-- Bytes of the root manifest. -/
def manifestBytes (x : StrJob) (packages : Nat) : Nat := 64 * (1 + x.tensors.length + packages)

/-- Words 0 to 23 of the commit record. -/
def recordHead (x : StrJob) (o : StrOpen) (addr bytes : Nat) (signed : Bool) (digest : List Byte) : List Byte :=
  let w := fun (n : Nat) => BitVec.ofNat 32 n
  wordBytes ([w 0x434F4D54, w (2 ^ 16 + bit1 (!o.bedrock) * 2 ^ 8 + bit1 signed)] ++ pair64 o.column ++
    [w o.stratum, w (x.cfg 10 % 16)] ++ pair64 o.step ++ pair64 o.cutGrain ++ pair64 addr ++ pair64 bytes ++ [0, 0]) ++
    fitBytes 32 digest

/-- The commit record. -/
def commitRecord (head sig : List Byte) : List Byte :=
  let body := head ++ fitBytes 116 sig ++ List.replicate 36 0
  body ++ shake256 body 8

/-- The secret of a SIGN slot that can sign. -/
def State.signKey (s : State) (slot : Nat) : Option (List Byte) :=
  match mapGet? s.sec.slots slot with
  | some k => if k.ty = slotSIGN ∧ !s.pufFail then some k.secret else none
  | none => none

/-- The next free commit slot after the latest one (R435). -/
def StrJob.nextSlot (x : StrJob) : Nat :=
  (((List.range' 1 64).map fun i => (x.lastSlot + i) % 64).find? fun i => !x.slots.any fun e => e.1 == i).getD 0

/-- The failures of a job so far (R439). -/
def State.noteFailure (s : State) (job : Nat) : State :=
  s.modStrata job fun x => { x with failures := x.failures + 1, lastFailure := s.now }

/-- The timer's length (R439). -/
def StrJob.timer (x : StrJob) : Nat :=
  let c := x.times.foldl (· + ·) 0 / max 1 x.times.length
  let m := if x.failures < 4 then x.cfg64 8 else (x.lastFailure - x.configGrain) / x.failures
  min (max (isqrt (2 * c * m)) (x.cfg64 4)) (x.cfg64 6)

/-- A commit at one package (R428, R436): the record's address is kept, and a bedrock releases the column before the one it
ends. -/
def State.commitHere (s : State) (job addr : Nat) : State :=
  match (s.strJob job).current with
  | none => s
  | some o =>
    let keep := fun (c : Nat) => !o.bedrock || decide (o.column ≤ c + 1)
    s.modStrata job fun x =>
      { x with column := o.column, stratum := o.stratum, current := none,
               committed := (x.committed.filter fun c => keep c.1) ++ [(o.column, o.stratum, o.step, addr)],
               kept := x.kept.filter fun k => keep k.2.2.1 }

/-- STRATUM_COMMITTED comes from the stratum root alone. -/
def bodyStratumCommitted (s : State) (h : CmdHdr) (ps : List Word64) : State :=
  if !h.member then s.finish h 0x0405 stDENIED []
  else (s.commitHere h.job.toNat (paramBits ps 0 63 0)).finish h 0x0405 stOK []

def execStratumCommitted (h : CmdHdr) (ps : List Word64) (s : State) : Host.Outcome State Fault Refusal :=
  .next (s.command h 0x0405 ps bodyStratumCommitted)

/-- STRATUM_COMMITTED to a member package. -/
def State.sendCommitted (s : State) (job addr place : Nat) : State :=
  let h : CmdHdr :=
    { chan := 0, seq := 0, target := BitVec.ofNat 32 (unitAddr place 2 0 0), launch := 0, early := false, indirect := false,
      member := true, entry := s.place, role := 5, job := BitVec.ofNat 32 job }
  s.sendMgmt 0x78 place h.job 0 0 0 (memberFrame h 0x0405 [BitVec.ofNat 64 addr])

/-- The root releases the commit slots of columns that are kept no longer: their records end (R429, R436). -/
def State.releaseSlots (s : State) (job column : Nat) : State :=
  let x := s.strJob job
  let old := x.slots.filter fun e => decide (e.2 + 1 < column)
  let s := s.modStrata job fun y => { y with slots := y.slots.filter fun e => decide (column ≤ e.2 + 1) }
  old.foldl (fun s e => s.strWrite job (x.rootStore.1 + 256 * e.1) (List.replicate 256 0) [] false false) s

/-- The record is in its slot: the stratum exists, every member hears of it, and the timer starts again (R428, R439). -/
def State.commitDone (s : State) (job : Nat) (o : StrOpen) : State :=
  let x := s.strJob job
  let addr := x.rootStore.1 + 256 * x.lastSlot
  let s := (s.strOthers x).foldl (fun s p => s.sendCommitted job addr p) s
  let s := s.commitHere job addr
  let s := if o.bedrock then s.releaseSlots job o.column else s
  let s := s.modStrata job fun y =>
    let y := { y with times := (y.times ++ [s.now - o.cutGrain]).drop (y.times.length - 7) }
    { y with timerAt := if y.cfg64 6 = 0 then none else some (o.cutGrain + y.timer) }
  match o.cmd with
  | some h => s.finish h 0x0403 stOK []
  | none => s

/-- The calls of R427 have ended at the root (R428, R437). -/
def State.voteEnded (s : State) (job : Nat) (o : StrOpen) : State :=
  let x := s.strJob job
  match o.results.find? (fun r => r.op == 2), o.results.find? (fun r => r.op == 1) with
  | some v, some b =>
    let st := max v.status b.status
    if st ≠ stOK then (if st = stMEMBER_LOST then s.noteFailure job else s).abandonStratum job st
    else if v.result ≠ 0 then
      (o.diverged.foldl (fun s e => s.log
        { status := stDIVERGE, cls := 4, source := 0, unit := s.pkgUnit, peer := none, job := job,
          detail := [BitVec.ofNat 32 e.1, BitVec.ofNat 32 e.2] }) s).abandonStratum job stDIVERGE
    else if o.writes ≠ 0 ∨ o.writeStatus ≠ stOK then s
    else
      (s.modOpen job fun o => { o with phase := .manifest }).strWrite job (x.manifestAddr o.column o.stratum)
        (manifestHead x o (s.strHomes x).length) [] false false
  | _, _ => s

/-- The manifest is whole: the root digest, the signature and the commit record (R428). -/
def State.writeRecord (s : State) (job : Nat) (o : StrOpen) : State :=
  let x := s.strJob job
  let addr := x.manifestAddr o.column o.stratum
  let n := manifestBytes x (s.strHomes x).length
  let y := s.readWith (s.strReq job addr (.read n) false) addr n
  let signed := bitOf (x.cfg 10) 31
  let head := recordHead x o addr n signed (shake256 y.2.data 32)
  let put := fun (sig : List Byte) =>
    let slot := x.nextSlot
    ((y.1.modStrata job fun z => { z with slots := z.slots ++ [(slot, o.column)], lastSlot := slot }).modOpen job fun o =>
      { o with phase := .record }).strWrite job (x.rootStore.1 + 256 * slot) (commitRecord head sig) [] false false
  if y.2.status ≠ stOK then y.1.abandonStratum job y.2.status
  else if signed then
    match y.1.signKey (x.cfg 10 % 16) with
    | some k => put (edSign k head)
    | none => y.1.abandonStratum job stDENIED
  else put []

/-- STRATUM_COMMIT: the root carries a stratum from its barrier to the commit as its writes are fenced. -/
def State.strCommit (s : State) (job : Nat) : Nat → State
  | 0 => s
  | n + 1 =>
    let x := s.strJob job
    match x.current with
    | none => s
    | some o =>
      if !s.strRoot x then s
      else match o.phase with
        | .voting => (s.voteEnded job o).strCommit job n
        | .manifest => if o.writes ≠ 0 ∨ o.writeStatus ≠ stOK then s else (s.writeRecord job o).strCommit job n
        | .record => if o.writes ≠ 0 ∨ o.writeStatus ≠ stOK then s else s.commitDone job o
        | _ => s

def execStratumCommit (job : Word) (s : State) : Host.Outcome State Fault Refusal := .next (s.strCommit job.toNat 3)

/-- No commit within 2^32 grains of the cut (R437). -/
def execStratumCommitTimeout (job : Word) (s : State) : Host.Outcome State Fault Refusal :=
  .next (match (s.strJob job.toNat).current with
    | some o =>
      if s.strRoot (s.strJob job.toNat) ∧ o.cutDies ≠ [] ∧ o.cutGrain + 2 ^ 32 < s.now then s.abandonStratum job.toNat stLATE else s
    | none => s)

end Sys2Proof.Machine
end

