-- ==== Sys2Proof/Machine/Restore.lean ====
section
/-! DEFINITION. RESTORE (R440-R444): the commit records of a store, the verification of candidate strata newest first, the
match of tensors, and the fill of new pieces. Bytes of another place are free values here (Machine/Access.lean). -/

namespace Sys2Proof.Machine

/-! ### Records, manifests and shards as they are read -/

/-- A commit record (R433): slot, its bytes, and the fields that a restore uses. -/
structure CommitRec where
  addr : Nat
  bytes : List Byte
  column : Nat
  stratum : Nat
  step : Nat
  manifest : Nat
  size : Nat
  deriving DecidableEq, Repr

/-- 64 bits from word `i` of a layout. -/
def wordPair (bs : List Byte) (i : Nat) : Nat := leNat ((bs.drop (4 * i)).take 8)

/-- The record in 256 bytes, where its CHECK verifies (R429, R440). -/
def parseRecord (addr : Nat) (bs : List Byte) : Option CommitRec :=
  if bs.length = 256 ∧ wordAt bs 0 = 0x434F4D54 ∧ shake256 (bs.take 248) 8 = bs.drop 248 then
    some { addr := addr, bytes := bs, column := wordPair bs 2, stratum := wordAt bs 16, step := wordPair bs 6,
           manifest := wordPair bs 10, size := wordPair bs 12 }
  else none

def CommitRec.signed (r : CommitRec) : Bool := bitOf (wordAt r.bytes 4) 0
def CommitRec.digest (r : CommitRec) : List Byte := (r.bytes.drop 64).take 32

/-- A rejected shard as R441 lists it: column, stratum, place, tensor and shard index. -/
structure BadShard where
  column : Nat
  stratum : Nat
  place : Nat
  tensor : Nat
  shard : Nat
  deriving DecidableEq, Repr

/-- A verified shard (R430): its stratum, tensor, nibbles an element, box, and runs with their data. -/
structure StoredShard where
  stratum : Nat
  tensor : Nat
  nibs : Nat
  origin : List Nat
  extent : List Nat
  runs : List (Nat × List Byte)
  deriving DecidableEq, Repr

/-- A directory entry of a manifest (R432): tensor, fingerprint and name. -/
structure DirEntry where
  tensor : Nat
  print : Nat
  name : List Byte
  deriving DecidableEq, Repr

/-- The runs of a shard's bytes: offsets in the piece with their data. -/
def shardRunData (bs : List Byte) : List (Nat × List Byte) :=
  let n := wordAt bs 40
  let tab := (List.range n).map fun i => (leNat ((bs.drop (128 + 16 * i)).take 8), wordAt bs (128 + 16 * i + 8))
  (tab.foldl (fun (x : Nat × List (Nat × List Byte)) r => (x.1 + r.2, x.2 ++ [(r.1, (bs.drop x.1).take r.2)]))
    (128 + 16 * n, [])).2

/-- The shard that verified bytes hold. -/
def parseShard (stratum : Nat) (bs : List Byte) : StoredShard :=
  { stratum := stratum, tensor := wordAt bs 32, nibs := fmtNibbles (bitsOf (wordAt bs 4) 7 4),
    origin := (List.range 6).map fun i => wordAt bs (4 * (16 + i)), extent := (List.range 6).map fun i => wordAt bs (4 * (22 + i)),
    runs := shardRunData bs }

/-- What the restore has gathered: shards that verified, those rejected, ranges in use and the directory. -/
structure Gathered where
  shards : List StoredShard
  bad : List BadShard
  used : List (Nat × Nat × Nat × Nat)
  dir : List DirEntry
  deriving DecidableEq, Repr

def Gathered.none : Gathered := ⟨[], [], [], []⟩
def Gathered.reject (g : Gathered) (b : BadShard) : Gathered := { g with bad := g.bad ++ [b] }

/-! ### Verification (R440) -/

/-- Reads for a restore; a read that fails gives nothing that verifies. -/
def State.restoreRead (s : State) (h : CmdHdr) (ga n : Nat) : State × List Byte :=
  match s.readFor h ga n with
  | (s, r) => (s, if r.status = stOK ∧ !r.poison then r.data else [])

/-- A shard's bytes against its leaf entry: taken where they verify, else rejected. -/
def Gathered.takeShard (g : Gathered) (r : CommitRec) (place : Nat) (leaf bs : List Byte) : Gathered :=
  let n := wordPair leaf 4
  let ok := bs.length == n && shake256 bs 32 == (leaf.drop 24).take 32 && wordPair bs 2 == r.column && wordAt bs 16 == r.stratum &&
    wordPair bs 6 == r.step && wordAt bs 32 == wordAt leaf 0
  if ok then { g with shards := g.shards ++ [parseShard r.stratum bs],
                      used := g.used ++ [(wordPair leaf 2, n, r.column, r.stratum)] }
  else g.reject ⟨r.column, r.stratum, place, wordAt leaf 0, wordAt leaf 4⟩

/-- One shard of a leaf list. -/
def State.verifyShard (h : CmdHdr) (r : CommitRec) (place : Nat) (x : State × Gathered) (leaf : List Byte) : State × Gathered :=
  match x.1.restoreRead h (wordPair leaf 2) (wordPair leaf 4) with
  | (s, bs) => (s, x.2.takeShard r place leaf bs)

/-- One package entry: its leaf list, then its shards. -/
def State.verifyPackage (h : CmdHdr) (r : CommitRec) (x : State × Gathered) (e : List Byte) : State × Gathered :=
  let place := wordAt e 0 / 2 ^ 17
  let n := 64 * wordAt e 4
  match x.1.restoreRead h (wordPair e 2) n with
  | (s, bs) =>
    if bs.length = n ∧ shake256 bs 32 = (e.drop 16).take 32 then
      (chunksOf 64 (n + 1) bs).foldl (State.verifyShard h r place)
        (s, { x.2 with used := x.2.used ++ [(wordPair e 2, n, r.column, r.stratum)] })
    else (s, x.2.reject ⟨r.column, r.stratum, place, 0, 0⟩)

/-- The directory of a manifest. -/
def parseDir (bs : List Byte) (tensors : Nat) : List DirEntry :=
  (List.range tensors).map fun i =>
    let e := (bs.drop (64 + 64 * i)).take 64
    { tensor := wordAt e 0, print := wordPair e 2, name := e.drop 40 }

/-- The signature of a signed record verifies under the key in its slot (R440). -/
def State.signatureOk (s : State) (r : CommitRec) : Bool :=
  !r.signed || match mapGet? s.sec.slots (wordAt r.bytes 20 % 16) with
    | some k => (k.ty == slotVERIFY || k.ty == slotSIGN) &&
        edVerify (k.key.take 57) (r.bytes.take 96) ((r.bytes.drop 96).take 114)
    | none => false

/-- The bytes of a manifest agree with its commit record. -/
def manifestOk (r : CommitRec) (bs : List Byte) : Bool :=
  bs.length == r.size && r.size == 64 * (1 + wordAt bs 20 + wordAt bs 32) && shake256 bs 32 == r.digest &&
    wordAt bs 0 == 0x4D414E46 && wordPair bs 2 == r.column && wordAt bs 16 == r.stratum && wordPair bs 6 == r.step

/-- The package entries of a manifest. -/
def packageEntries (bs : List Byte) : List (List Byte) :=
  (List.range (wordAt bs 32)).map fun i => (bs.drop (64 * (1 + wordAt bs 20 + i))).take 64

/-- One stratum: signature, manifest, leaf lists and shards. -/
def State.verifyStratum (h : CmdHdr) (x : State × Gathered) (r : CommitRec) : State × Gathered :=
  match x.1.restoreRead h r.manifest r.size with
  | (s, bs) =>
    if s.signatureOk r && manifestOk r bs then
      (packageEntries bs).foldl (State.verifyPackage h r)
        (s, { x.2 with dir := parseDir bs (wordAt bs 20), used := x.2.used ++ [(r.manifest, r.size, r.column, r.stratum)] })
    else (s, x.2.reject ⟨r.column, r.stratum, gaPlace r.manifest, 0, 0⟩)

/-- The strata that a candidate needs: those of its column from the bedrock to itself; none where one is missing. -/
def candidateChain (rs : List CommitRec) (c : CommitRec) : Option (List CommitRec) :=
  (List.range (c.stratum + 1)).foldr (fun i (acc : Option (List CommitRec)) =>
    match rs.find? (fun r => r.column == c.column && r.stratum == i), acc with
    | some r, some l => some (r :: l)
    | _, _ => none) (some [])

/-- Candidates newest first: by column, then stratum. -/
def insertNewest (c : CommitRec) : List CommitRec → List CommitRec
  | [] => [c]
  | x :: r => if x.column < c.column ∨ (x.column = c.column ∧ x.stratum ≤ c.stratum) then c :: x :: r else x :: insertNewest c r

/-- Tries the candidates in turn: the shards rejected so far, and the first that verifies in full. -/
def State.tryCandidates (h : CmdHdr) (all : List CommitRec) (s : State) (bad : List BadShard) :
    List CommitRec → State × List BadShard × Option (CommitRec × List CommitRec × Gathered)
  | [] => (s, bad, none)
  | c :: r =>
    match candidateChain all c with
    | none => State.tryCandidates h all s (bad ++ [⟨c.column, c.stratum, gaPlace c.manifest, 0, 0⟩]) r
    | some chain =>
      match chain.foldl (State.verifyStratum h) (s, Gathered.none) with
      | (s, g) => if g.bad = [] then (s, bad, some (c, chain, g)) else State.tryCandidates h all s (bad ++ g.bad).eraseDups r

/-! ### Fill (R443) -/

/-- Row-major number of a point of a box, if it lies there. -/
def boxIndex : List Nat → List Nat → List Nat → Nat → Option Nat
  | o :: os, n :: ns, p :: ps, acc => if o ≤ p ∧ p < o + n then boxIndex os ns ps (acc * n + (p - o)) else none
  | _, _, _, acc => some acc

/-- Coordinates of element `i` of a box of the given extent, from the last dimension back. -/
def boxCoords (extent : List Nat) (i : Nat) : List Nat :=
  (extent.foldr (fun n (x : Nat × List Nat) => (x.1 / max 1 n, (x.1 % max 1 n) :: x.2)) (i, [])).2

/-- The global index of element `i` of a piece. -/
def globalIndex (origin extent : List Nat) (i : Nat) : List Nat := (List.zip origin (boxCoords extent i)).map fun e => e.1 + e.2

/-- Nibble `k` of an element at a global index, from the last shard that covers it. -/
def nibbleFrom (shards : List StoredShard) (p : List Nat) (k : Nat) : Option Nat :=
  shards.foldl (fun (acc : Option Nat) sh =>
    match boxIndex sh.origin sh.extent p 0 with
    | none => acc
    | some i =>
      let j := i * sh.nibs + k
      match sh.runs.find? fun r => decide (r.1 ≤ j / 2) && decide (j / 2 < r.1 + r.2.length) with
      | some r => some ((nthD (0 : Byte) r.2 (j / 2 - r.1)).toNat / 16 ^ (j % 2) % 16)
      | none => acc) none

/-- Byte `b` of a new piece; a nibble that nothing covers keeps what `old` holds. -/
def pieceByte (shards : List StoredShard) (e : List Word) (old b : Nat) : Option Byte :=
  let w := fmtNibbles (pieceFmt e)
  let nib := fun (j : Nat) =>
    if j / w < boxSize (pieceExtent e) then nibbleFrom shards (globalIndex (pieceOrigin e) (pieceExtent e) (j / w)) (j % w) else none
  match nib (2 * b), nib (2 * b + 1) with
  | none, none => none
  | lo, hi => some (BitVec.ofNat 8 (lo.getD (old % 16) + hi.getD (old / 16) * 16))

/-- Neighbouring bytes joined: offset and bytes. -/
def pickedRuns (ofs : Nat) : List (Option Byte) → List (Nat × List Byte)
  | [] => []
  | none :: r => pickedRuns (ofs + 1) r
  | some b :: r =>
    match pickedRuns (ofs + 1) r with
    | (o, bs) :: rest => if o = ofs + 1 then (ofs, b :: bs) :: rest else (ofs, [b]) :: (o, bs) :: rest
    | [] => [(ofs, [b])]

/-- Shards in ascending STRATUM. -/
def byStratum (l : List StoredShard) : List StoredShard :=
  let top := l.foldl (fun m x => max m (x.stratum + 1)) 0
  (List.range top).flatMap fun i => l.filter fun x => x.stratum == i

/-- The bytes that the shards of its tensor give a new piece. -/
def State.newBytes (s : State) (shards : List StoredShard) (e : List Word × Nat) : List (Option Byte) :=
  let mine := byStratum (shards.filter fun sh => sh.tensor == e.2)
  (List.range (pieceBytes e.1)).map fun b => pieceByte mine e.1 (readByte s.mem (pieceAddr e.1 + b)).toNat b

/-- Writes a run of bytes of a new piece. -/
def State.fillRun (h : CmdHdr) (e : List Word) (x : State × Nat) (r : Nat × List Byte) : State × Nat :=
  match x.1.direct { x.1.cmdReq h (pieceAddr e + r.1) (.write r.2) with fill := pieceFill e } with
  | (s, y) => (s, max x.2 y.status)

/-- Fills one new piece of this package with the shards of its tensor. -/
def State.fillNew (h : CmdHdr) (shards : List StoredShard) (x : State × Nat) (e : List Word × Nat) : State × Nat :=
  (pickedRuns 0 (x.1.newBytes shards e)).foldl (State.fillRun h e.1) x

/-! ### RESTORE -/

/-- An entry of a restore descriptor (log entry 6): place, tensor-map entry and structure fingerprint. -/
structure NewPiece where
  place : Nat
  entry : List Word
  print : Nat
  deriving DecidableEq, Repr

def parseNew (bs : List Byte) : NewPiece :=
  { place := leNat (bs.take 8), entry := (leWords 4 ((bs.drop 8).take 128)).map (BitVec.ofNat 32), print := leNat (bs.drop 136) }

/-- The directory entry that a descriptor tensor matches (R442). -/
def matchTensor (dir : List DirEntry) (p : NewPiece) : Option Nat :=
  (dir.find? fun d => d.name == wordBytes (pieceName p.entry) && d.print == p.print).map fun d => d.tensor

/-- The lists of a reply (log entry 6). -/
def restoreLists (bad : List BadShard) (missing : List Nat) : List Word64 :=
  let w := fun (n : Nat) => BitVec.ofNat 64 n
  w (bad.length + missing.length * 2 ^ 32) ::
    (bad.flatMap fun b => [w b.column, w (b.stratum + b.place * 2 ^ 32), w (b.tensor + b.shard * 2 ^ 32)]) ++ missing.map w

/-- An entry of class JOB for a restore. -/
def State.logRestore (s : State) (h : CmdHdr) (st : Nat) : State :=
  if st = stOK then s
  else s.log { status := st, cls := 4, source := 0, unit := s.pkgUnit, peer := none, job := h.job.toNat, detail := [] }

/-- The restored job at this package (R416, R444): every die's job step, and what the store holds. -/
def State.afterRestore (s : State) (h : CmdHdr) (area : Nat) (recs chain : List CommitRec) (g : Gathered) (step : Nat) : State :=
  let s := ((List.range 12).filter fun d => !s.excluded h d).foldl (fun s d => s.setReg64 (dsqB d + STR_STEP_LO.off) step) s
  s.modStrata h.job.toNat fun x =>
    { x with column := recs.foldl (fun m r => max m r.column) 0, stratum := 0, nextBedrock := true, current := none,
             committed := chain.map fun r => (r.column, r.stratum, r.step, r.addr), kept := g.used,
             slots := (recs.filter fun r => decide (area ≤ r.addr)).map fun r => ((r.addr - area) / 256, r.column) }

/-- The 64 commit slots of a store. -/
def State.readRecords (s : State) (h : CmdHdr) (area : Nat) : State × List CommitRec :=
  (List.range 64).foldl (fun (x : State × List CommitRec) i =>
    match x.1.restoreRead h (area + 256 * i) 256 with
    | (s, bs) => (s, x.2 ++ (parseRecord (area + 256 * i) bs).toList)) (s, [])

/-- The tensors of a descriptor that no directory entry matches. -/
def missingTensors (g : Gathered) (news : List NewPiece) : List Nat :=
  ((news.filter fun p => (matchTensor g.dir p).isNone).map fun p => pieceTensor p.entry).eraseDups

/-- The new pieces of this package, with the tensors that fill them. -/
def State.minePieces (s : State) (g : Gathered) (news : List NewPiece) : List (List Word × Nat) :=
  news.filterMap fun p =>
    if p.place = s.place ∧ pieceOk p.entry then (matchTensor g.dir p).map fun t => (p.entry, t) else none

/-- Fills the new pieces and answers, once a candidate has verified (R442-R444). -/
def State.restoreFrom (s : State) (h : CmdHdr) (ps : List Word64) (recs : List CommitRec) (news : List NewPiece)
    (bad : List BadShard) (c : CommitRec) (chain : List CommitRec) (g : Gathered) : State :=
  let mixed := if bad = [] then stOK else stSTRATA_MIXED
  let missing := missingTensors g news
  let struct := if missing = [] then stOK else stSTRUCT_MISMATCH
  let s := (s.logRestore h mixed).logRestore h struct
  if missing ≠ [] ∧ paramBits ps 1 0 0 = 0 then s.finish h 0x0410 (max mixed struct) (restoreLists bad missing)
  else
    match (s.minePieces g news).foldl (State.fillNew h g.shards) (s, stOK) with
    | (s, st) =>
      (s.afterRestore h (paramBits ps 0 63 0) recs chain g c.step).finish h 0x0410 (max (max mixed struct) st)
        (restoreLists bad missing)

/-- The commit records of the area and the new pieces of the descriptor, where it can be read. -/
def State.restoreHead (s : State) (h : CmdHdr) (ps : List Word64) : State × List CommitRec × Option (List NewPiece) :=
  let desc := paramBits ps 1 63 1 * 2
  match s.readRecords h (paramBits ps 0 63 0) with
  | (s, recs) =>
    match s.restoreRead h desc 16 with
    | (s, head) =>
      match s.restoreRead h (desc + 16) (144 * wordAt head 0) with
      | (s, body) =>
        (s, recs, if head.length ≠ 16 ∨ body.length ≠ 144 * wordAt head 0 then none
                  else some ((chunksOf 144 (wordAt head 0 + 1) body).map parseNew))

/-- RESTORE (R440-R444): commit area, then the descriptor's address with PARTIAL in bit 0 (log entry 6). -/
def bodyRestore (s : State) (h : CmdHdr) (ps : List Word64) : State :=
  match (s.noteFailure h.job.toNat).restoreHead h ps with
  | (s, _, none) => s.finish h 0x0410 stDENIED []
  | (s, recs, some news) =>
    match State.tryCandidates h recs s [] (recs.foldr insertNewest []) with
    | (s, bad, none) => (s.logRestore h stDIGEST_BAD).finish h 0x0410 stDIGEST_BAD (restoreLists bad [])
    | (s, bad, some (c, chain, g)) => s.restoreFrom h ps recs news bad c chain g

def execRestore (h : CmdHdr) (ps : List Word64) (s : State) : Host.Outcome State Fault Refusal :=
  .next (s.command h 0x0410 ps bodyRestore)

end Sys2Proof.Machine
end

