-- ==== Sys2Proof/Machine/Launch.lean ====
section
/-! DEFINITION. The start of held commands (R409-R411, R466, R473), forwarded commands at their members and the members'
replies (R18-R23, R467, R470), and the management accesses of package controllers (R316, R418, R468). -/

namespace Sys2Proof.Machine

/-! ### Running a command by its opcode (R471) -/

/-- The effect of an opcode. -/
def opBody (op : Nat) : Option (State → CmdHdr → List Word64 → State) :=
  match op with
  | 0x0001 => some bodySessionChallenge
  | 0x0002 => some bodySessionOpen
  | 0x0003 => some bodySessionClose
  | 0x0004 => some bodySessionInfo
  | 0x0005 => some bodyNopCommand
  | 0x0101 => some bodyUnitArm
  | 0x0102 => some bodyUnitStop
  | 0x0103 => some bodyUnitAbort
  | 0x0104 => some bodyRegRead
  | 0x0105 => some bodyRegWrite
  | 0x0106 => some bodyTaskSet
  | 0x0110 => some bodyMouldLoad
  | 0x0111 => some bodyMouldSwitch
  | 0x0112 => some bodyMouldEvict
  | 0x0120 => some bodyModeSet
  | 0x0201 => some bodyMemRead
  | 0x0202 => some bodyMemWrite
  | 0x0203 => some bodyMemFill
  | 0x0204 => some bodyCopyCommand
  | 0x0205 => some bodyMrtWrite
  | 0x0206 => some bodyScrClear
  | 0x0301 => some bodyTeamCreate
  | 0x0302 => some bodyTeamDestroy
  | 0x0303 => some bodyTeamReset
  | 0x0310 => some bodyTeamInfo
  | 0x0401 => some bodyStratumConfig
  | 0x0402 => some bodyStratumTensor
  | 0x0403 => some bodyStratumArm
  | 0x0404 => some bodyStratumAbandon
  | 0x0405 => some bodyStratumCommitted
  | 0x0406 => some bodyStratumList
  | 0x0410 => some bodyRestore
  | 0x0501 => some bodyCapSet
  | 0x0502 => some bodyDomainState
  | 0x0503 => some bodyPowerRead
  | 0x0504 => some bodyReset
  | 0x0601 => some bodyTbConfig
  | 0x0602 => some bodyTbRelease
  | 0x0603 => some bodyTbRead
  | 0x0701 => some bodyCountersRead
  | 0x0702 => some bodyJournalRead
  | 0x0703 => some bodyEvtSubscribe
  | 0x0704 => some bodyJournalClear
  | 0x0801 => some bodyKeyWrite
  | 0x0802 => some bodyKeyRevoke
  | 0x0803 => some bodyRightsSet
  | 0x0804 => some bodyPartitionSet
  | 0x0805 => some bodyOwnershipSet
  | 0x0806 => some bodyAttest
  | 0x0807 => some bodyIdentityRead
  | _ => none

/-- Starts a command whose parameters are at hand. -/
def State.runOp (s : State) (h : CmdHdr) (op : Nat) (mute : Bool) (ps : List Word64) : State :=
  match opBody op with
  | some run => s.start h op mute ps run
  | none => (s.beginCmd h op mute).finish h op stBAD_OPCODE []

/-! ### COMMAND_LAUNCH (R409-R411, R466, R473) -/

/-- The order of R411 within one launch grain. -/
def goesBefore (a b : CmdHdr) : Bool :=
  decide (a.chan < b.chan) || (a.chan == b.chan && decide (a.seq.toNat < b.seq.toNat))

/-- A held command that may start: acknowledged, its grain reached (a command for other packages leaves at once, R20), and
none in front of it by R411 or R473. -/
def State.mayStart (s : State) (earlier : List HeldCmd) (c : HeldCmd) : Bool :=
  let h := c.hdr
  c.acked &&
    if h.launch = 0 then
      !(earlier.any fun (e : HeldCmd) => e.hdr.chan == h.chan && decide (e.hdr.launch = 0) && !e.hdr.member) &&
        !(s.pkc.forwards.any fun (r : FwdX) =>
          r.hdr.chan == h.chan && decide (r.hdr.launch = 0 ∧ r.hdr.target = h.target) && !r.hdr.member)
    else s.forwards h ||
      (decide (h.launch.toNat ≤ s.now) &&
        !(s.pkc.held.any fun (e : HeldCmd) =>
          e.acked && decide (e.hdr.launch = h.launch) && goesBefore e.hdr h && !s.forwards e.hdr))

/-- The first held command of a channel and sequence that may start, with the others. -/
def State.pickHeld (s : State) (chan : Nat) (seq : Word) :
    List HeldCmd → List HeldCmd → Option (HeldCmd × List HeldCmd)
  | _, [] => none
  | before, c :: rest =>
    if c.hdr.chan = chan ∧ c.hdr.seq = seq ∧ s.mayStart before c then some (c, before ++ rest)
    else State.pickHeld s chan seq (before ++ [c]) rest

/-- Starts a held command; INDIRECT parameters are read now, under the rights of its channel (R447). -/
def State.launchHeld (s : State) (c : HeldCmd) : State :=
  if c.hdr.indirect then
    match s.readFor c.hdr (paramBits c.params 0 63 0) (8 * c.plen) with
    | (s, r) =>
      if r.status = stOK then s.runOp { c.hdr with indirect := false } c.opcode c.mute (bytesToWords64 r.data)
      else (s.beginCmd c.hdr c.opcode c.mute).finish c.hdr c.opcode r.status []
  else s.runOp c.hdr c.opcode c.mute c.params

def State.launch (s : State) (chan : Nat) (seq : Word) : State :=
  if !s.pkcRuns then s
  else match s.pickHeld chan seq [] s.pkc.held with
    | none => s
    | some (c, rest) => ({ s with pkc := { s.pkc with held := rest } }).launchHeld c

def execCommandLaunch (chan : Nat) (seq : Word) (s : State) : Host.Outcome State Fault Refusal := .next (s.launch chan seq)

/-! ### Member commands (R467, R470) -/

/-- 32-bit word `i` of a frame's body. -/
def frameWord (p : Packet) (i : Nat) : Nat := leNat (((frameBody p).drop (4 * i)).take 4)

/-- The header of a forwarded command, with its origin words. -/
def frameHdr (p : Packet) : CmdHdr :=
  { chan := bitsOf (frameWord p 3) 15 0, seq := BitVec.ofNat 32 (frameWord p 1), target := BitVec.ofNat 32 (frameWord p 2),
    launch := BitVec.ofNat 64 (frameWord p 4 + frameWord p 5 * 2 ^ 32), early := false, indirect := false, member := true,
    entry := bitsOf (frameWord p 8) 14 0, role := bitsOf (frameWord p 9) 2 0, job := BitVec.ofNat 32 (frameWord p 10) }

/-- A member command that passed its checks is held for its grain or runs at once (R470). -/
def State.memberTake (s : State) (h : CmdHdr) (op : Nat) (ps : List Word64) (code : Nat) : State :=
  if code ≠ stOK then s.finish h op code []
  else if s.now < h.launch.toNat then
    { s with pkc := { s.pkc with held := s.pkc.held ++ [
      { hdr := h, opcode := op, params := ps, plen := ps.length, acked := true, mute := false }] } }
  else s.runOp h op false ps

/-- A forwarded command at its member: checks 2 to 8 of R454, then held for its grain or run at once (R470). -/
def State.memberIn (s : State) (p : Packet) : State :=
  let h := frameHdr p
  let h := { h with barred := s.barredDies h.chan h.role, grant := some (s.grantOf h.chan) }
  let op := frameWord p 0 / 65536
  let ps := bytesToWords64 ((frameBody p).drop 48)
  s.memberTake h op ps (s.checkCmd h.chan h.role op ps.length h.target.toNat h.launch.toNat true)

def execCmdFwd (pkt : Packet) (s : State) : Host.Outcome State Fault Refusal :=
  .next (if s.pkcRuns then s.takeFrame 0x78 pkt fun s => s.memberIn pkt else s)

/-- A member's reply at the entry package (R21). -/
def State.memberReply (s : State) (p : Packet) : State :=
  s.memberDone (bitsOf (frameWord p 3) 15 0) (BitVec.ofNat 32 (frameWord p 1)) (frameWord p 0 / 65536) (frameWord p 2)
    (frameWord p 6 / 65536) (bytesToWords64 ((frameBody p).drop 32)) (frameWord p 4 + frameWord p 5 * 2 ^ 32)

def execCmdRpl (pkt : Packet) (s : State) : Host.Outcome State Fault Refusal :=
  .next (if s.pkcRuns then s.takeFrame 0x79 pkt fun s => s.memberReply pkt else s)

/-- 50 ms in grains (R23). -/
def memberGrains : Nat := 10000000

/-- A member that has not replied 50 ms after the later of its forwarding and its launch grain (R23). -/
def State.memberLate (s : State) (chan : Nat) (seq : Word) (unit : Nat) : State :=
  match s.pkc.forwards.find? (fun (r : FwdX) => r.hdr.chan == chan && decide (r.hdr.seq = seq) && s.forwards r.hdr &&
      r.waiting.contains unit) with
  | none => s
  | some r =>
    if max r.sentAt r.hdr.launch.toNat + memberGrains ≤ s.now then
      s.memberDone chan seq r.opcode unit stMEMBER_LOST [] s.now
    else s

def execMemberReplyTimeout (chan : Nat) (seq unit : Word) (s : State) : Host.Outcome State Fault Refusal :=
  .next (if s.pkcRuns then s.memberLate chan seq unit.toNat else s)

/-! ### Management accesses (R316, R418, R468)

The byte count of a MGMT_READ stands in word 7 [12..0] as in READ_REQ, and the status of a MGMT_RESP in word 7 [15..0]
(log entry 16). -/

/-- The register offsets that a management access of `n` bytes covers. -/
def mgmtSpan (p : Packet) (n : Nat) : List Nat := (List.range (n / 4)).map fun i => p.addr - controlAddr 0 + 4 * i

/-- The register offsets of a management access, where it is one of R468: whole registers, 4 to 256 bytes, mapped and
powered, in space 0x8. -/
def State.mgmtRegs (s : State) (p : Packet) (n : Nat) : Option (List Nat) :=
  let a := p.addr - controlAddr 0
  let as := mgmtSpan p n
  if p.space = 8 ∧ controlAddr 0 ≤ p.addr ∧ p.addr + n ≤ controlAddr 0x10000000000 ∧ a % 4 = 0 ∧ n % 4 = 0 ∧ 4 ≤ n ∧ n ≤ 256 ∧
      as.all fun b => s.blockOn b then some as
  else none

def State.mgmtAnswer (s : State) (p : Packet) (st : Nat) (data : List Byte) : State :=
  s.sendMgmt 0x7C p.src p.job p.space p.addr (BitVec.ofNat 32 st) data

/-- MGMT_READ at the package that holds the registers. -/
def State.mgmtReadIn (s : State) (p : Packet) : State :=
  let n := bitsOf p.word7.toNat 12 0
  match s.mgmtRegs p n with
  | none => (s.logOff p.src p.job.toNat (mgmtSpan p n)).mgmtAnswer p stDENIED []
  | some as =>
    let x := as.foldl (fun (x : State × List Byte) a =>
      let y := x.1.regRead .pkc a
      (y.1, x.2 ++ toBytes y.2.toNat 4)) (s, [])
    x.1.mgmtAnswer p stOK x.2

def execMgmtRead (pkt : Packet) (s : State) : Host.Outcome State Fault Refusal :=
  .next (if s.pkcRuns then s.takeFrame 0x7A pkt fun s => s.mgmtReadIn pkt else s)

/-- MGMT_WRITE: STR_DUE of a die as R418 says; STR_CTRL.ABANDON also ends the job's stratum here (R437, R438). -/
def State.mgmtWriteIn (s : State) (p : Packet) : State :=
  let body := frameBody p
  match s.mgmtRegs p body.length with
  | none => (s.logOff p.src p.job.toNat (mgmtSpan p body.length)).mgmtAnswer p stDENIED []
  | some as =>
    match as.head?.bind locate with
    | some (.dsq, d, o) =>
      if o = STR_DUE_LO.off ∧ body.length = 8 then
        let x := s.memberDue p.job.toNat d (leNat body)
        x.1.mgmtAnswer p x.2 []
      else
        let vs := (chunksOf 4 64 body).map fun b => BitVec.ofNat 32 (leNat b)
        let x := s.regWrites 4 as vs
        let ends := o = STR_CTRL.off ∧ bitOf (leNat (body.take 4)) 31
        let s := if ends then x.1.dropStratum p.job.toNat else x.1
        s.mgmtAnswer p (if x.2 then stBUSY else stOK) []
    | _ =>
      let x := s.regWrites 4 as ((chunksOf 4 64 body).map fun b => BitVec.ofNat 32 (leNat b))
      x.1.mgmtAnswer p (if x.2 then stBUSY else stOK) []

def execMgmtWrite (pkt : Packet) (s : State) : Host.Outcome State Fault Refusal :=
  .next (if s.pkcRuns then s.takeFrame 0x7B pkt fun s => s.mgmtWriteIn pkt else s)

/-- MGMT_RESP: a LATE answer makes the root abandon the stratum (R437). -/
def State.mgmtRespIn (s : State) (p : Packet) (status : Nat) : State :=
  if status = stLATE ∧ s.strRoot (s.strJob p.job.toNat) then s.abandonStratum p.job.toNat stLATE else s

def execMgmtResp (pkt : Packet) (status : Nat) (s : State) : Host.Outcome State Fault Refusal :=
  .next (if s.pkcRuns then s.takeFrame 0x7C pkt fun s => s.mgmtRespIn pkt status else s)

end Sys2Proof.Machine
end

