-- ==== Sys2Proof/Machine/LongVector.lean ====
section
/-! DEFINITION. The long-vector extension of the control cores (chapter 10): registers, masks, VL, VSTART and FSR
(R223-R227), active elements and ILLEGAL (R228, R229), arithmetic (R230-R234, R242), configuration, scalar floating
point, and vector loads and stores (R235-R239). -/

namespace Sys2Proof.Machine

/-! ### Registers (R223-R226) -/

/-- Element format of W: 64-bit elements for 0, 32-bit for 1 (R241). -/
def lvFmt (w32 : Bool) : Fmt := if w32 then .b32 else .b64
def lvInt (w32 : Bool) : Fmt := if w32 then .i32 else .i64
def lvBytes (w32 : Bool) : Nat := if w32 then 4 else 8
def vlMax (w32 : Bool) : Nat := if w32 then 256 else 128

/-- Element `i` of vn. -/
def CoreX.elem (x : CoreX) (w32 : Bool) (n i : Nat) : Nat :=
  leNat (readBytes x.v (n * 1024 + i * lvBytes w32) (lvBytes w32))
def CoreX.setElem (x : CoreX) (w32 : Bool) (n i v : Nat) : CoreX :=
  { x with v := writeBytes x.v (n * 1024 + i * lvBytes w32) (toBytes v (lvBytes w32)) }

/-- m0 reads as all ones, and writes to it are ignored (R225). -/
def CoreX.mask (x : CoreX) (n : Nat) : BitVec 256 := if n = 0 then BitVec.allOnes 256 else mapGet 0 x.m n
def CoreX.setMask (x : CoreX) (n : Nat) (v : BitVec 256) : CoreX := if n = 0 then x else { x with m := mapSet 0 x.m n v }

/-- FSR.RM, and the sticky flags INV, UNF and OVF in bits 6 to 4. -/
def CoreX.rm (x : CoreX) : Rnd := (Rnd.ofCode (bitsOf x.fsr.toNat 2 0)).getD .rne
def CoreX.raise (x : CoreX) (f : Flags) : CoreX := { x with fsr := x.fsr ||| BitVec.ofNat 32 (f.bits * 16) }

/-! ### Fields (R241) and ILLEGAL (R229) -/

def lvMajor (w : Word) : Nat := bitsOf w.toNat 31 26
def lvD (w : Word) : Nat := bitsOf w.toNat 25 21
def lvA (w : Word) : Nat := bitsOf w.toNat 20 16
def lvB (w : Word) : Nat := bitsOf w.toNat 15 11
def lvM (w : Word) : Nat := bitsOf w.toNat 10 8
def lvZ (w : Word) : Bool := bitOf w.toNat 7
def lvW (w : Word) : Bool := bitOf w.toNat 6
def lvFn (w : Word) : Nat := bitsOf w.toNat 5 0

def lvARITH : Nat := 0x38
def lvSCALAR : Nat := 0x3C
def lvCONFIG : Nat := 0x3B
def lvLOAD : Nat := 0x39
def lvSTORE : Nat := 0x3A

/-- Functions of the arithmetic and of the configuration table of R242. -/
def arithFns : List Nat :=
  List.range 11 ++ [0x10, 0x11, 0x12, 0x18, 0x19, 0x1A] ++ List.range' 0x20 12 ++ [0x30, 0x31, 0x32, 0x3C]
def configFns : List Nat := [0, 1, 2, 3, 4, 8, 9, 0xA, 0xB, 0xC, 0x10, 0x11, 0x20, 0x21]
def scalarFns : List Nat := List.range 11 ++ [0x28, 0x29, 0x2A, 0x2B]

/-- The function takes no vb (its field is zero). -/
def fnUnary (fn : Nat) : Bool := [0x4, 0xA, 0x28, 0x29, 0x2A, 0x2B, 0x30, 0x31, 0x32, 0x3C].contains fn
def fnComplex (fn : Nat) : Bool := decide (0x10 ≤ fn) && decide (fn ≤ 0x12)
def fnCompare (fn : Nat) : Bool := decide (0x18 ≤ fn) && decide (fn ≤ 0x1A)
def fnReduce (fn : Nat) : Bool := decide (0x30 ≤ fn) && decide (fn ≤ 0x32)

/-- A field of a vector arithmetic word that must be zero is not, or W is not the one of a conversion. -/
def arithReserved (w : Word) : Bool :=
  let fn := lvFn w
  (fnUnary fn && lvB w != 0) || (fn == 0x7 && lvZ w) || (fnCompare fn && decide (8 ≤ lvD w)) ||
    (fn == 0x2A && !lvW w) || (fn == 0x2B && lvW w)

/-- R229 for vector arithmetic. -/
def CoreX.arithIllegal (x : CoreX) (w : Word) : Bool :=
  let fn := lvFn w
  decide (vlMax (lvW w) < x.vl) || arithReserved w || (fnComplex fn && x.vl % 2 == 1) ||
    (fn == 0x2A && decide (128 < x.vl)) || x.vstart != 0

/-- An instruction of a vector major opcode: ILLEGAL for a reserved function or where `bad` holds (R229), else `f`, which
moves past it. A word of another instruction has no effect here. -/
def State.lvInstr (s : State) (c : Nat) (w : Word) (major fn : Nat) (fns : List Nat) (bad : Bool) (f : CoreX → CoreX) : State :=
  if !s.coreReady c || lvMajor w != major then s
  else if !fns.contains (lvFn w) then s.coreException c (s.core c).pc causeILLEGAL
  else if lvFn w != fn then s
  else if bad then s.coreException c (s.core c).pc causeILLEGAL
  else (s.modCore c f).advance c

/-! ### Arithmetic (R228, R230-R234) -/

/-- The result of an elementwise function on codes: vd, va, vb. -/
def lvOp (fn : Nat) (w32 : Bool) (mode : Rnd) (d a b : Nat) : Nat × Flags :=
  let f := lvFmt w32
  let e := f.width
  match fn with
  | 0x00 => vFloatOp 0x02 f mode d a b
  | 0x01 => vFloatOp 0x03 f mode d a b
  | 0x02 => vFloatOp 0x04 f mode d a b
  | 0x03 => vFloatOp 0x10 f mode d a b
  | 0x04 => vFloatOp 0x11 f mode d a b
  | 0x05 => vFloatOp 0x06 f mode d a b
  | 0x06 => vFloatOp 0x07 f mode d a b
  | 0x08 => fFma f mode a b d
  | 0x09 => finish f mode (fmaNum mode (negNum (decode f a)) (decode f b) (decode f d))
  | 0x0A => vFloatOp 0x09 f mode d a b
  | 0x20 => ((a + b) % 2 ^ e, Flags.none)
  | 0x21 => ((a + 2 ^ e - b) % 2 ^ e, Flags.none)
  | 0x22 => (a * b % 2 ^ e, Flags.none)
  | 0x23 => (Nat.land a b, Flags.none)
  | 0x24 => (Nat.lor a b, Flags.none)
  | 0x25 => (Nat.xor a b, Flags.none)
  | 0x26 => (a * 2 ^ (b % e) % 2 ^ e, Flags.none)
  | 0x27 => (unsignedOf (signedOf a e / 2 ^ (b % e)) e, Flags.none)
  | 0x28 => convert (lvInt w32) mode false 0 (decode f a)
  | 0x29 => convert f mode false 0 (decode (lvInt w32) a)
  | _ => (a, Flags.none)

/-- The old value of vd, va and vb of element `i`. -/
def CoreX.operands (x : CoreX) (w : Word) (i : Nat) : Nat × Nat × Nat :=
  (x.elem (lvW w) (lvD w) i, x.elem (lvW w) (lvA w) i, x.elem (lvW w) (lvB w) i)

/-- The parts of complex number `j` under R231: `conj` takes the conjugate of vb, `acc` adds the old part of vd; INV only for a NaN
that no operand brings (R68). -/
def complexPart (f : Fmt) (mode : Rnd) (conj acc im : Bool) (ar ai br bi d : Nat) : Nat × Flags :=
  let n := decode f
  let bi' := if conj then negNum (n bi) else n bi
  let p := if im then mulNum (n ar) bi' else mulNum (n ar) (n br)
  let q := if im then mulNum (n ai) (n br) else mulNum (n ai) bi'
  let q' := if im then q.1 else negNum q.1
  let t := addNum mode p.1 q'
  let u := if acc then addNum mode t.1 (n d) else (t.1, false)
  let given := [ar, ai, br, bi].any (codeIsNaN f) || (acc && codeIsNaN f d)
  finish f mode (u.1, (p.2 || q.2 || t.2 || u.2) && !given)

/-- The result of element `i` of any function with one result an element. -/
def CoreX.lvElem (x : CoreX) (w : Word) (fn i : Nat) : Nat × Flags :=
  let f := lvFmt (lvW w)
  let o := x.operands w i
  if fnComplex fn then
    let r := i / 2 * 2
    complexPart f x.rm (fn == 0x11) (fn == 0x12) (i % 2 == 1) (x.elem (lvW w) (lvA w) r) (x.elem (lvW w) (lvA w) (r + 1))
      (x.elem (lvW w) (lvB w) r) (x.elem (lvW w) (lvB w) (r + 1)) o.1
  else if fn = 0x7 then (if (x.mask (lvM w)).getLsbD i then o.2.1 else o.2.2, Flags.none)
  else if fn = 0x3C then (x.elem (lvW w) (lvA w) 0, Flags.none)
  else lvOp fn (lvW w) x.rm o.1 o.2.1 o.2.2

/-- Element `i` is active for the mask of `w` (R228); VSEL writes every element below VL. -/
def CoreX.active (x : CoreX) (w : Word) (i : Nat) : Bool := lvFn w == 0x7 || (x.mask (lvM w)).getLsbD i

/-- Writes results of elements below VL: active ones, and zeros for masked-off ones under Z. -/
def CoreX.lvWrite (x : CoreX) (w : Word) (fn n : Nat) : CoreX :=
  (List.range n).foldl (fun y i =>
    if x.active w i then
      let r := x.lvElem w fn i
      (y.setElem (lvW w) (lvD w) i r.1).raise r.2
    else if lvZ w then y.setElem (lvW w) (lvD w) i 0
    else y) x

/-- Vector arithmetic with one result an element. -/
def State.lvArith (s : State) (c : Nat) (w : Word) (fn : Nat) : State :=
  s.lvInstr c w lvARITH fn arithFns ((s.core c).arithIllegal w) fun x => x.lvWrite w fn x.vl

def execVadd (c : Fin 128) (w : Word) (s : State) : Host.Outcome State Fault Refusal := .next (s.lvArith c w 0x00)
def execVsub (c : Fin 128) (w : Word) (s : State) : Host.Outcome State Fault Refusal := .next (s.lvArith c w 0x01)
def execVmul (c : Fin 128) (w : Word) (s : State) : Host.Outcome State Fault Refusal := .next (s.lvArith c w 0x02)
def execVdiv (c : Fin 128) (w : Word) (s : State) : Host.Outcome State Fault Refusal := .next (s.lvArith c w 0x03)
def execVsqrt (c : Fin 128) (w : Word) (s : State) : Host.Outcome State Fault Refusal := .next (s.lvArith c w 0x04)
def execVmin (c : Fin 128) (w : Word) (s : State) : Host.Outcome State Fault Refusal := .next (s.lvArith c w 0x05)
def execVmax (c : Fin 128) (w : Word) (s : State) : Host.Outcome State Fault Refusal := .next (s.lvArith c w 0x06)
def execVsel (c : Fin 128) (w : Word) (s : State) : Host.Outcome State Fault Refusal := .next (s.lvArith c w 0x07)
def execVfma (c : Fin 128) (w : Word) (s : State) : Host.Outcome State Fault Refusal := .next (s.lvArith c w 0x08)
def execVfms (c : Fin 128) (w : Word) (s : State) : Host.Outcome State Fault Refusal := .next (s.lvArith c w 0x09)
def execVneg (c : Fin 128) (w : Word) (s : State) : Host.Outcome State Fault Refusal := .next (s.lvArith c w 0x0A)
def execVcmul (c : Fin 128) (w : Word) (s : State) : Host.Outcome State Fault Refusal := .next (s.lvArith c w 0x10)
def execVcmulc (c : Fin 128) (w : Word) (s : State) : Host.Outcome State Fault Refusal := .next (s.lvArith c w 0x11)
def execVcmula (c : Fin 128) (w : Word) (s : State) : Host.Outcome State Fault Refusal := .next (s.lvArith c w 0x12)
def execViadd (c : Fin 128) (w : Word) (s : State) : Host.Outcome State Fault Refusal := .next (s.lvArith c w 0x20)
def execVisub (c : Fin 128) (w : Word) (s : State) : Host.Outcome State Fault Refusal := .next (s.lvArith c w 0x21)
def execVimul (c : Fin 128) (w : Word) (s : State) : Host.Outcome State Fault Refusal := .next (s.lvArith c w 0x22)
def execVand (c : Fin 128) (w : Word) (s : State) : Host.Outcome State Fault Refusal := .next (s.lvArith c w 0x23)
def execVor (c : Fin 128) (w : Word) (s : State) : Host.Outcome State Fault Refusal := .next (s.lvArith c w 0x24)
def execVxor (c : Fin 128) (w : Word) (s : State) : Host.Outcome State Fault Refusal := .next (s.lvArith c w 0x25)
def execVsll (c : Fin 128) (w : Word) (s : State) : Host.Outcome State Fault Refusal := .next (s.lvArith c w 0x26)
def execVsra (c : Fin 128) (w : Word) (s : State) : Host.Outcome State Fault Refusal := .next (s.lvArith c w 0x27)
def execVfcvtI (c : Fin 128) (w : Word) (s : State) : Host.Outcome State Fault Refusal := .next (s.lvArith c w 0x28)
def execVicvtF (c : Fin 128) (w : Word) (s : State) : Host.Outcome State Fault Refusal := .next (s.lvArith c w 0x29)
def execVsplat (c : Fin 128) (w : Word) (s : State) : Host.Outcome State Fault Refusal := .next (s.lvArith c w 0x3C)

/-- Writes converted elements: `w32` is the width of the source, the result has the other (R234). -/
def CoreX.lvConvert (x : CoreX) (w : Word) (w32 : Bool) (n : Nat) : CoreX :=
  (List.range n).foldl (fun y i =>
    if x.active w i then
      let r := convert (lvFmt !w32) x.rm false 0 (decode (lvFmt w32) (x.elem w32 (lvA w) i))
      (y.setElem (!w32) (lvD w) i r.1).raise r.2
    else if lvZ w then y.setElem (!w32) (lvD w) i 0
    else y) x

def State.lvConv (s : State) (c : Nat) (w : Word) (fn : Nat) : State :=
  s.lvInstr c w lvARITH fn arithFns ((s.core c).arithIllegal w) fun x => x.lvConvert w (lvW w) x.vl

def execVwcvt (c : Fin 128) (w : Word) (s : State) : Host.Outcome State Fault Refusal := .next (s.lvConv c w 0x2A)
def execVncvt (c : Fin 128) (w : Word) (s : State) : Host.Outcome State Fault Refusal := .next (s.lvConv c w 0x2B)

/-- The comparisons; a NaN gives 0. -/
def lvCmp (fn : Nat) (a b : Num) : Bool :=
  match fn with
  | 0x18 => eqNum a b
  | 0x19 => ltNum a b
  | _ => ltNum a b || eqNum a b

/-- Compares write the mask bits of active elements (R228). -/
def CoreX.lvCompare (x : CoreX) (w : Word) (fn : Nat) : CoreX :=
  let f := lvFmt (lvW w)
  let bits := (List.range x.vl).foldl (fun (m : Nat) i =>
    if x.active w i then
      putBits m i i (bit1 (lvCmp fn (decode f (x.elem (lvW w) (lvA w) i)) (decode f (x.elem (lvW w) (lvB w) i))))
    else if lvZ w then putBits m i i 0 else m) (x.mask (lvD w)).toNat
  x.setMask (lvD w) (BitVec.ofNat 256 bits)

def State.lvComp (s : State) (c : Nat) (w : Word) (fn : Nat) : State :=
  s.lvInstr c w lvARITH fn arithFns ((s.core c).arithIllegal w) fun x => x.lvCompare w fn

def execVcmpeq (c : Fin 128) (w : Word) (s : State) : Host.Outcome State Fault Refusal := .next (s.lvComp c w 0x18)
def execVcmplt (c : Fin 128) (w : Word) (s : State) : Host.Outcome State Fault Refusal := .next (s.lvComp c w 0x19)
def execVcmple (c : Fin 128) (w : Word) (s : State) : Host.Outcome State Fault Refusal := .next (s.lvComp c w 0x1A)

/-- The reduction of active elements by the canonical pair tree (R152, R232). -/
def lvReduceVal (fn : Nat) (f : Fmt) (mode : Rnd) (xs : List Nat) : Nat × Flags :=
  let op := fun (a b : Nat × Flags) =>
    let r := if fn = 0x30 then fAdd f mode a.1 b.1 else (fPick f (fn == 0x31) a.1 b.1, Flags.none)
    (r.1, (a.2.or b.2).or r.2)
  match pairTree op 9 (xs.map fun x => (canon f x, Flags.none)) with
  | some r => r
  | none => (if fn = 0x30 then 0 else f.nanCode, Flags.none)

/-- A reduction writes element 0; with VL = 0 nothing (R228, R232). -/
def CoreX.lvReduce (x : CoreX) (w : Word) (fn : Nat) : CoreX :=
  if x.vl = 0 then x
  else
  let xs := ((List.range x.vl).filter (x.active w)).map fun i => x.elem (lvW w) (lvA w) i
  let r := lvReduceVal fn (lvFmt (lvW w)) x.rm xs
  (x.setElem (lvW w) (lvD w) 0 r.1).raise r.2

def State.lvRed (s : State) (c : Nat) (w : Word) (fn : Nat) : State :=
  s.lvInstr c w lvARITH fn arithFns ((s.core c).arithIllegal w) fun x => x.lvReduce w fn

def execVrsum (c : Fin 128) (w : Word) (s : State) : Host.Outcome State Fault Refusal := .next (s.lvRed c w 0x30)
def execVrmax (c : Fin 128) (w : Word) (s : State) : Host.Outcome State Fault Refusal := .next (s.lvRed c w 0x31)
def execVrmin (c : Fin 128) (w : Word) (s : State) : Host.Outcome State Fault Refusal := .next (s.lvRed c w 0x32)

/-- Scalar floating point (R224, R242): the function on element 0 only, with m0 and Z = 0, whatever VL and VSTART. -/
def CoreX.lvScalar (x : CoreX) (w : Word) : CoreX :=
  let fn := lvFn w
  if fn = 0x2A ∨ fn = 0x2B then x.lvConvert w (lvW w) 1 else x.lvWrite w fn 1

def execScalarFpOp (c : Fin 128) (w : Word) (s : State) : Host.Outcome State Fault Refusal :=
  .next (s.lvInstr c w lvSCALAR (lvFn w) scalarFns (arithReserved w || bitsOf w.toNat 10 7 != 0) fun x => x.lvScalar w)

/-! ### Configuration (R226, R242) -/

/-- A field of a configuration word that the function does not use is not zero, or a mask number exceeds 7. -/
def configReserved (w : Word) : Bool :=
  let fn := lvFn w
  let d := lvD w
  let a := lvA w
  let b := lvB w
  bitsOf w.toNat 10 7 != 0 ||
  (match fn with
   | 0x00 => b != 0
   | 0x01 => a != 0 || b != 0
   | 0x02 => d != 0 || b != 0
   | 0x03 => a != 0 || b != 0
   | 0x04 => d != 0 || b != 0
   | 0x08 => decide (8 ≤ d) || decide (8 ≤ a) || decide (8 ≤ b)
   | 0x09 => decide (8 ≤ d) || decide (8 ≤ a) || decide (8 ≤ b)
   | 0x0A => decide (8 ≤ d) || decide (8 ≤ a) || b != 0
   | 0x0B => decide (8 ≤ a) || b != 0
   | 0x0C => decide (8 ≤ a) || b != 0
   | 0x10 => a != 0 || b != 0
   | 0x11 => d != 0 || b != 0
   | _ => b != 0)

/-- A configuration instruction: ILLEGAL at a VL above VLMAX of its width, a nonzero VSTART, a reserved field (R229), or where
`bad` holds. -/
def State.lvConfig (s : State) (c : Nat) (w : Word) (fn : Nat) (bad : Bool) (f : CoreX → CoreX) : State :=
  s.lvInstr c w lvCONFIG fn configFns
    (decide (vlMax (lvW w) < (s.core c).vl) || configReserved w || (s.core c).vstart != 0 || bad) f

/-- The same with a general register written (g0 ignores it). -/
def CoreX.setG (x : CoreX) (n : Nat) (v : Word64) : CoreX := if n = 0 then x else { x with g := mapSet 0 x.g n v }

/-- The VL that SETVL sets: a negative value counts as 0. -/
def setvlOf (w32 : Bool) (v : Word64) : Nat := if v.toInt < 0 then 0 else min v.toNat (vlMax w32)

def execSetvl (c : Fin 128) (w : Word) (s : State) : Host.Outcome State Fault Refusal :=
  .next (s.lvConfig c w 0x00 false fun x =>
    let n := setvlOf (lvW w) (s.greg c (lvA w))
    { x.setG (lvD w) (BitVec.ofNat 64 n) with vl := n })

def execVlr (c : Fin 128) (w : Word) (s : State) : Host.Outcome State Fault Refusal :=
  .next (s.lvConfig c w 0x01 false fun x => x.setG (lvD w) (BitVec.ofNat 64 x.vl))

def execVlw (c : Fin 128) (w : Word) (s : State) : Host.Outcome State Fault Refusal :=
  .next (s.lvConfig c w 0x02 (decide (256 < (s.greg c (lvA w)).toNat)) fun x => { x with vl := (s.greg c (lvA w)).toNat })

def execVstr (c : Fin 128) (w : Word) (s : State) : Host.Outcome State Fault Refusal :=
  .next (s.lvConfig c w 0x03 false fun x => x.setG (lvD w) (BitVec.ofNat 64 x.vstart))

def execVstw (c : Fin 128) (w : Word) (s : State) : Host.Outcome State Fault Refusal :=
  .next (s.lvConfig c w 0x04 (s.corePl c == 0) fun x => { x with vstart := (s.greg c (lvA w)).toNat % 256 })

def execMand (c : Fin 128) (w : Word) (s : State) : Host.Outcome State Fault Refusal :=
  .next (s.lvConfig c w 0x08 false fun x => x.setMask (lvD w) (x.mask (lvA w) &&& x.mask (lvB w)))

def execMor (c : Fin 128) (w : Word) (s : State) : Host.Outcome State Fault Refusal :=
  .next (s.lvConfig c w 0x09 false fun x => x.setMask (lvD w) (x.mask (lvA w) ||| x.mask (lvB w)))

def execMnot (c : Fin 128) (w : Word) (s : State) : Host.Outcome State Fault Refusal :=
  .next (s.lvConfig c w 0x0A false fun x => x.setMask (lvD w) (~~~x.mask (lvA w)))

def execMpop (c : Fin 128) (w : Word) (s : State) : Host.Outcome State Fault Refusal :=
  .next (s.lvConfig c w 0x0B false fun x =>
    x.setG (lvD w) (BitVec.ofNat 64 ((List.range x.vl).filter fun i => (x.mask (lvA w)).getLsbD i).length))

def execMfirst (c : Fin 128) (w : Word) (s : State) : Host.Outcome State Fault Refusal :=
  .next (s.lvConfig c w 0x0C false fun x =>
    x.setG (lvD w) (match (List.range x.vl).find? fun i => (x.mask (lvA w)).getLsbD i with
      | some i => BitVec.ofNat 64 i
      | none => BitVec.allOnes 64))

def execFsrr (c : Fin 128) (w : Word) (s : State) : Host.Outcome State Fault Refusal :=
  .next (s.lvConfig c w 0x10 false fun x => x.setG (lvD w) (BitVec.ofNat 64 x.fsr.toNat))

/-- The value that a write of FSR leaves: reserved bits read 0, and RM keeps its value on codes 4 to 7. -/
def fsrWrite (old v : Word) : Word :=
  (v &&& 0x70) ||| (if v &&& 4 = 0 then v &&& 3 else old &&& 7)

def execFsrw (c : Fin 128) (w : Word) (s : State) : Host.Outcome State Fault Refusal :=
  .next (s.lvConfig c w 0x11 false fun x =>
    { x with fsr := fsrWrite x.fsr (BitVec.ofNat 32 (s.greg c (lvA w)).toNat) })

def execVmvg (c : Fin 128) (w : Word) (s : State) : Host.Outcome State Fault Refusal :=
  .next (s.lvConfig c w 0x20 false fun x => x.setG (lvD w) (BitVec.ofNat 64 (x.elem false (lvA w) 0)))

def execVmvf (c : Fin 128) (w : Word) (s : State) : Host.Outcome State Fault Refusal :=
  .next (s.lvConfig c w 0x21 false fun x => x.setElem false (lvD w) 0 (s.greg c (lvA w)).toNat)

/-! ### Memory (R235-R239) -/

def memMode (w : Word) : Nat := bitsOf w.toNat 7 6
def memNf (w : Word) : Nat := bitsOf w.toNat 5 4 + 1
def memW (w : Word) : Bool := bitOf w.toNat 3
def memZ (w : Word) : Bool := bitOf w.toNat 2

/-- R229 for a vector load or store. -/
def CoreX.memIllegal (x : CoreX) (w : Word) (store : Bool) : Bool :=
  decide (vlMax (memW w) < x.vl) || bitsOf w.toNat 1 0 != 0 || (store && memZ w) ||
    (if memMode w = 3 then memNf w == 1 else memNf w != 1) || decide (32 < lvD w + memNf w) ||
    ((memMode w == 0 || memMode w == 3) && lvB w != 0)

/-- Address of field `f` of element `i` (R235). -/
def State.lvAddr (s : State) (c : Nat) (w : Word) (i f : Nat) : Nat :=
  let base : Int := (s.greg c (lvA w)).toNat
  let b : Int := lvBytes (memW w)
  let z : Int := match memMode w with
    | 0 => base + i * b
    | 1 => base + i * (s.greg c (lvB w)).toInt
    | 2 => base + signedOf ((s.core c).elem (memW w) (lvB w) i) (lvFmt (memW w)).width
    | _ => base + ((i * memNf w + f : Nat) : Int) * b
  unsignedOf z 64

/-- The bytes of an element, where the die's caches or the answers to this element's misses hold them (R204, R206, R212). -/
def State.lvRead (s : State) (c a n : Nat) : Option (List Byte) :=
  match if cacheable a then s.lineHit c a n else none with
  | some bs => some bs
  | none =>
    ((s.core c).vfill.find? fun f => decide (f.1 ≤ a) && decide (a + n ≤ f.1 + f.2.length)).map fun f =>
      (f.2.drop (a - f.1)).take n

/-- The instruction goes no further now: a line that it asked for has not come, or the write buffer is full. -/
def stopWAIT : Nat := 1

/-- Asks for the line of an element that no cache holds. -/
def State.lvAsk (s : State) (c a n : Nat) : State :=
  if !s.lineFree c a then s
  else s.askLine c { rd := 0, addr := a, size := n, pc := (s.core c).pc, line := cacheable a, fetch := false, atomic := false,
                     vec := true }

/-- The fields of one element of a load: their values, or what stops it. -/
def State.lvFetch (s : State) (c : Nat) (w : Word) (priv : Bool) (i : Nat) : Nat → Nat → List Nat → State × Except Nat (List Nat)
  | 0, _, vs => (s, .ok vs)
  | n + 1, f, vs =>
    let a := s.lvAddr c w i f
    let b := lvBytes (memW w)
    if s.coreFaults c a b priv then (s, .error causeACCESS)
    else
      match s.lvRead c a b with
      | some bs => s.lvFetch c w priv i n (f + 1) (vs ++ [leNat bs])
      | none => (s.lvAsk c a b, .error stopWAIT)

/-- One element of a load. -/
def State.lvLoadElem (c : Nat) (w : Word) (priv : List Nat) (s : State) (i : Nat) : State × Option Nat :=
  if ((s.core c).mask (lvM w)).getLsbD i then
    match s.lvFetch c w (priv.contains i) i (memNf w) 0 [] with
    | (s, .error e) => (s, some e)
    | (s, .ok vs) =>
      (s.modCore c fun x =>
        (List.range vs.length).foldl (fun x f => x.setElem (memW w) (lvD w + f) i (nthD 0 vs f)) { x with vfill := [] }, none)
  else if memZ w then
    (s.modCore c fun x => (List.range (memNf w)).foldl (fun x f => x.setElem (memW w) (lvD w + f) i 0) x, none)
  else (s, none)

/-- The write buffer takes the stores of an element, each to its line (R206). -/
def State.lvRoom (s : State) (c : Nat) (lines : List Nat) : Bool :=
  let have_ := (s.core c).storeLines
  decide ((have_ ++ lines.filter fun l => !have_.contains l).eraseDups.length ≤ 32)

/-- One element of a store: checked as a whole, then written field by field (R237). -/
def State.lvStoreElem (c : Nat) (w : Word) (priv : List Nat) (s : State) (i : Nat) : State × Option Nat :=
  if ((s.core c).mask (lvM w)).getLsbD i then
    let b := lvBytes (memW w)
    let as := (List.range (memNf w)).map fun f => s.lvAddr c w i f
    if as.any fun a => s.coreFaults c a b (priv.contains i) then (s, some causeACCESS)
    else if !s.lvRoom c (as.map fun a => a / 128) then (s.sendStores c, some stopWAIT)
    else
      ((List.range (memNf w)).foldl (fun s f =>
        s.coreWrite c (s.lvAddr c w i f) (toBytes ((s.core c).elem (memW w) (lvD w + f) i) b)) s, none)
  else (s, none)

/-- Elements in ascending order, until one takes an exception or the interrupt stops before one (R238, R239). -/
def lvElems (f : State → Nat → State × Option Nat) (xlat irqAt : Option Nat) : List Nat → State → State × Option (Nat × Nat)
  | [], s => (s, none)
  | i :: is, s =>
    if irqAt = some i then (s, some (i, 0))
    else if xlat = some i then (s, some (i, causeTRANSLATION))
    else
      match f s i with
      | (s, some e) => (s, some (i, e))
      | (s, none) => lvElems f xlat irqAt is s

/-- The end of a vector load or store: all elements, an exception at one, the interrupt before one, or one that waits: the
instruction is then executed again from that element (R238, R239). -/
def State.lvEnd (s : State) (c pc : Nat) : Option (Nat × Nat) → State
  | none => (s.modCore c fun x => { x with vstart := 0 }).advance c
  | some (i, e) =>
    let t := s.modCore c fun x => { x with vstart := i }
    if e = stopWAIT then t else if e = 0 then t.takeIrq c else t.coreException c pc e

/-- The element that the interrupt stops before, and the one whose translation fails. -/
def State.lvStops (s : State) (c : Nat) (w : Word) (xlat irqAt : Option Nat) : Option Nat × Option Nat :=
  let x := s.core c
  (match xlat with
   | some i => if !(x.mask (lvM w)).getLsbD i then none else some i
   | none => none,
   if (s.irqNow c).isSome ∧ irqAt ≠ some x.vstart then irqAt else none)

/-- A vector load or store; what the core has stored before, its loads see (R208). An interrupt stops it between two elements
where one is due (R239). -/
def State.lvMem (s : State) (c : Nat) (w : Word) (store : Bool) (xlat irqAt : Option Nat)
    (f : State → Nat → State × Option Nat) : State :=
  if !s.coreReady c || lvMajor w != (if store then lvSTORE else lvLOAD) then s
  else if (s.core c).memIllegal w store then s.coreException c (s.core c).pc causeILLEGAL
  else
    match lvElems f (s.lvStops c w xlat irqAt).1 (s.lvStops c w xlat irqAt).2
        (List.range' (s.core c).vstart ((s.core c).vl - (s.core c).vstart)) s with
    | (t, e) => t.lvEnd c (s.core c).pc e

def execVectorLoad (c : Fin 128) (w : Word) (pages : PageView) (irqAt : Option Nat) (s : State) : Host.Outcome State Fault Refusal :=
  .next (s.lvMem c w false pages.xlat irqAt (State.lvLoadElem c w pages.priv))

def execVectorStore (c : Fin 128) (w : Word) (pages : PageView) (irqAt : Option Nat) (s : State) : Host.Outcome State Fault Refusal :=
  .next (s.lvMem c w true pages.xlat irqAt (State.lvStoreElem c w pages.priv))

end Sys2Proof.Machine
end

