-- ==== Sys2Proof/Machine/Ports.lean ====
section
/-! DEFINITION. The ports of chapter 21: the memory windows and firmware store of the host port (R517-R525), links of the
far-tier port (R300, R526-R528), the management port (R529, R530) and the test access port (R532, R533). -/

namespace Sys2Proof.Machine

/-! ### The host port -/

/-- Size of a function's memory window in bytes, and its package-local base: bits of BASE_GIB below the size are ignored. -/
def State.winSize (s : State) (fn : Nat) : Nat := 2 ^ (30 + s.fld (hstB + HST_WIN_SIZE.stride * fn) HST_WIN_SIZE.LOG2_GIB)
def State.winBase (s : State) (fn : Nat) : Nat :=
  s.fld (hstB + HST_WIN_BASE.stride * fn) HST_WIN_BASE.BASE_GIB * 2 ^ 30 / s.winSize fn * s.winSize fn

/-- The address lies in control space, which no window reaches (R522). -/
def inControl (a : Nat) : Bool :=
  match homeOf a with
  | .control _ => true
  | _ => false

/-- Issues a piece of a window request, or holds it while FC is in RETENTION (R503). -/
def State.windowPiece (s : State) (q : Req) : State :=
  if s.domState domFC = 1 then { s with host := { s.host with asleep := s.host.asleep ++ [q] } } else s.issueReqs [q]

/-- Issues the pieces of a window request in ascending order (R522). -/
def State.windowRequest (s : State) (fn off : Nat) (op : MemOp) : State :=
  let id := s.fabric.nextReq
  let s := { s with fabric := { s.fabric with nextReq := id + 1 } }
  let s := if s.noWake then s else s.wakeHost
  let base := s.reqOf (.host fn false) (s.sessionJob fn) (s.winBase fn + off) op
  let ps := pieces base.addr op.len
  let r : HostReq := ⟨fn, id, op.writes, ps.length, op.len, stOK, false, []⟩
  let s := { s with host := { s.host with posted := s.host.posted ++ [r] } }
  ps.foldl (fun s p =>
    let q := { base with addr := p.1, op := op.piece p.2.2 p.2.1, land := .host fn id p.2.2 }
    if inControl p.1 then s.landReq q Reply.denied else s.windowPiece q) s

/-- A write into the firmware store: of the physical function alone (R519, R521). -/
def State.storeRequest (s : State) (fn off : Nat) (data : List Byte) : State :=
  if fn ≠ 0 ∨ 0x1000000 < off + data.length then s.hostUR fn
  else
    let y := s.storeWrite off data
    if y.2 then y.1 else y.1.hostFault fn 1 stDENIED

/-- HOST_WINDOW_WRITE: a poisoned write is not applied (R524). -/
def State.hostWrite (s : State) (fn off : Nat) (data : List Byte) (poisoned store : Bool) : State :=
  if !s.domOn domHost ∨ data = [] then s
  else if poisoned then (s.bump hstB HST_POISON_COUNT.COUNT).hostFault fn 2 stINTERNAL
  else if store then s.storeRequest fn off data
  else if s.winSize fn < off + data.length then s.hostUR fn
  else s.windowRequest fn off (.write data)

def execHostWindowWrite (fn : Fin 16) (off : Nat) (data : List Byte) (poisoned : Bool) (store : Bool) (s : State) :
    Host.Outcome State Fault Refusal :=
  .next (s.hostWrite fn off data poisoned store)

/-- HOST_WINDOW_READ: answered when every piece has come and every earlier posted write is applied (R523). -/
def State.hostRead (s : State) (fn off len : Nat) : State :=
  if !s.domOn domHost ∨ len = 0 then s
  else if s.winSize fn < off + len then (s.hostUR fn).hostAnswer fn stDENIED false []
  else s.windowRequest fn off (.read len)

def execHostWindowRead (fn : Fin 16) (off len : Nat) (s : State) : Host.Outcome State Fault Refusal :=
  .next (s.hostRead fn off len)

/-- HOST_WRITE_RELEASE: the function's first held access takes effect once no posted write of it waits (R523). -/
def State.hostRelease (s : State) (fn : Nat) : State :=
  match s.host.held.find? fun e => e.fn == fn with
  | none => s
  | some e =>
    if s.domState domFC = 1 ∨ s.host.posted.any fun r => r.fn == fn && r.write then s
    else
      let s := { s with host := { s.host with held := dropFirst (fun x => x.fn == fn) s.host.held } }
      match locate e.off with
      | some (.ch, n, _) =>
        if e.read then (s.readReply n).1
        else
          let who : Agent := .host fn (n == 0x10)
          (s.writeWords who (s.agentRole who) e.off (if e.wide then words64 e.value.toNat else [BitVec.ofNat 32 e.value.toNat])).1
      | _ => s

def execHostWriteRelease (fn : Fin 16) (s : State) : Host.Outcome State Fault Refusal := .next (s.hostRelease fn)

/-- FLR (R525): the channel's queues and session; window accesses already received complete. -/
def State.flr (s : State) (fn : Nat) : State :=
  ({ s with host := { s.host with held := s.host.held.filter fun e => e.fn != fn || e.off / 0x1000 == chB 0x10 / 0x1000 } }).flushChannel fn

def execFlr (fn : Fin 16) (s : State) : Host.Outcome State Fault Refusal :=
  .next (if s.domOn domHost then s.flr fn else s)

/-- HOST_LINK_TRAINED: rate 0 none, 1 to 6 up to 64 GT/s; width 0 none, 1 to 5 up to x16 (R517). -/
def execHostLinkTrained (rate : Fin 7) (width : Fin 6) (flit : Bool) (s : State) : Host.Outcome State Fault Refusal :=
  .next (if s.domOn domHost then
    ((s.setFld hstB HST_LINK.RATE rate).setFld hstB HST_LINK.WIDTH width).setFld hstB HST_LINK.FLIT (bit1 flit) else s)

/-! ### The far-tier port -/

/-- FT_LINK_DOWN (R300, R526): every pending access completes with INTERNAL, with poison on reads; viral counts as a link
that has gone down. -/
def State.farDown (s : State) (dev : Nat) : State :=
  let b := ftB + FT_DEV.stride * dev
  let waiting := (s.far.answers.filter fun a => a.1 == dev).map (fun a => a.2.1) ++ mapGet [] s.far.queues dev
  let s := (s.setFld b FT_DEV_STATUS.PRESENT 0).setFld b FT_DEV_STATUS.DOWN 1
  let s := { s with far := { s.far with queues := mapErase s.far.queues dev, answers := s.far.answers.filter fun a => a.1 != dev,
                                        stale := if s.far.stale.contains dev then s.far.stale else dev :: s.far.stale } }
  let s := s.log { status := stINTERNAL, cls := 6, source := 11, unit := s.dieUnit 14, peer := none, job := 0,
                   detail := [BitVec.ofNat 32 dev] }
  waiting.foldl (fun s r => (s.landReq r ⟨stINTERNAL, List.replicate r.op.len 0, !r.op.writes⟩).goesOn r.land) s

def execFtLinkDown (dev : Fin 4) (_ : Bool) (s : State) : Host.Outcome State Fault Refusal :=
  .next (if s.domOn domCXL then s.farDown dev else s)

/-- FT_LINK_UP (R527): the device is back; its range waits for COMMIT to go to 0 and to 1. The straps give the links (R296). -/
def execFtLinkUp (dev : Fin 4) (s : State) : Host.Outcome State Fault Refusal :=
  .next (if s.domOn domCXL ∧ dev < farLinks s.straps ∧ Config.farCapacity dev ≠ 0 then s.setFld (ftB + FT_DEV.stride * dev) FT_DEV_STATUS.PRESENT 1 else s)

/-- FT_BAD_RESPONSE (R528): a response whose tag, the number of a request, matches none that waits. -/
def State.farBadResponse (s : State) (dev tag : Nat) : State :=
  if !s.domOn domCXL ∨ ((mapGet [] s.far.queues dev).any fun r => r.id == tag) ∨
      (s.far.answers.any fun a => a.1 == dev && a.2.1.id == tag) then s
  else (s.bump ftB FT_BAD_RSP.COUNT).log
    { status := stINTERNAL, cls := 5, source := 11, unit := s.dieUnit 14, peer := none, job := 0, detail := [BitVec.ofNat 32 dev] }

def execFtBadResponse (dev : Fin 4) (tag : Nat) (s : State) : Host.Outcome State Fault Refusal := .next (s.farBadResponse dev tag)

/-! ### The management port -/

/-- MCTP_MESSAGE_RECEIVE: type 0x7F of enterprise 61,233 carries queue words of channel 0x011 (R529); MCTP control changes no
state; everything else is dropped and counted. Words that find the queue full are not acknowledged (R530). -/
def State.mctp (s : State) (mtype iana : Nat) (pecOk : Bool) (words : List Word64) : State :=
  if pecOk ∧ mtype = 0x7F ∧ iana = 61233 then words.foldl (fun s w => s.pushWord .mgt 0x11 w) s
  else if pecOk ∧ mtype = 0 then s
  else s.bump mgtB MGT_DROP_COUNT.COUNT

def execMctpMessageReceive (mtype iana : Nat) (pecOk : Bool) (words : List Word64) (s : State) :
    Host.Outcome State Fault Refusal :=
  .next (s.mctp mtype iana pecOk words)

def execDynamicAddressAssignment (addr : BitVec 7) (s : State) : Host.Outcome State Fault Refusal :=
  .next ((s.setFld mgtB MGT_STATUS.ADDRESS addr.toNat).setFld mgtB MGT_STATUS.DA_VALID 1)

/-! ### The test access port -/

def State.setJtag (s : State) (f : JtagX → JtagX) : State := { s with jtag := f s.jtag }

/-- Bits of a number, lowest first. -/
def bitsLow (x n : Nat) : List Bool := (List.range n).map fun i => bitOf x i

/-- BYPASS: the bits leave one bit late, behind the captured 0. -/
def execBypass (tdi : List Bool) (s : State) : Host.Outcome State Fault Refusal :=
  .next (s.setJtag fun j =>
    { j with ir := .bypass, bypassBit := tdi.getLastD false, tdo := (false :: tdi).dropLast, driven := false, floated := false })

def execIdcode (s : State) : Host.Outcome State Fault Refusal :=
  .next (s.setJtag fun j => { j with ir := .idcode, tdo := bitsLow 0x1964023B 32, driven := false, floated := false })

/-- SAMPLE/PRELOAD: the pins are captured, and the chain is loaded. -/
def execSamplePreload (pins chain : List Bool) (s : State) : Host.Outcome State Fault Refusal :=
  .next (s.setJtag fun j =>
    { j with ir := .samplePreload, captured := pins, tdo := pins, chain := chain, driven := false, floated := false })

/-- Every domain except AON is in reset until a cold reset (R533). -/
def State.holdReset (s : State) : State :=
  let s := if s.jtag.heldReset then s else s.dropDomains false
  s.setJtag fun j => { j with heldReset := true }

def execExtest (pins : List Bool) (s : State) : Host.Outcome State Fault Refusal :=
  .next (s.holdReset.setJtag fun j =>
    { j with ir := .extest, captured := pins, tdo := pins, driven := true, floated := false })

def execClamp (s : State) : Host.Outcome State Fault Refusal :=
  .next (s.holdReset.setJtag fun j => { j with ir := .clamp, bypassBit := false, driven := true, floated := false })

def execHighz (s : State) : Host.Outcome State Fault Refusal :=
  .next (s.holdReset.setJtag fun j => { j with ir := .highz, bypassBit := false, driven := false, floated := true })

end Sys2Proof.Machine
end

