-- ==== Sys2Proof/Machine/Remote.lean ====
section
/-! DEFINITION. Remote memory at the destination and the answers at the source (R343-R355, R361, R362): the window, the
orders of R350 and R351, applying a request piece by piece, acknowledgements and responses. -/

namespace Sys2Proof.Machine

/-! ### Requests of other places -/

/-- The response store is full (R348). -/
def respCap : Nat := 131072

/-- The operation that a request packet carries (R342, R425). -/
def packetOp (p : Packet) : MemOp :=
  let w := p.word7.toNat
  match p.kind with
  | 0x01 => .read (bitsOf w 12 0)
  | 0x04 => .copyData (fitBytes p.length p.payload)
  | 0x05 => .atomic (bitsOf w 28 21) (bitOf w 20) (fitBytes p.length p.payload)
  | 0x60 => .shardData (fitBytes p.length p.payload)
  | _ => .write (fitBytes p.length p.payload)

/-- R362: the operand of a component, and the fold of the operands in entry order. -/
def componentOperand (c : List Byte) : List Byte := (c.drop 8).take 8

def foldOperands (aop : Nat) (size64 : Bool) : List (List Byte) → List Byte
  | [] => []
  | x :: xs => xs.foldl (fun acc y => fitBytes 8 (atomicNew aop size64 (fitBytes (if size64 then 8 else 4) acc) y).1) x

/-- A request of another place as the homes see it (R280, R347, R351): with sequence number `seq`, issued by unit `unit`, and
known here by `key`. -/
def remoteReq (p : Packet) (key seq unit : Nat) (op : MemOp) : Req :=
  let w := p.word7.toNat
  let wr := p.kind != 0x01 && p.kind != 0x60
  { id := key, who := .remote p.src, place := p.src, srcUnit := unit, chan := none, dst := p.dst, space := p.space, addr := p.addr,
    op := op, flag := wr && bitOf w 31, fill := wr && bitOf w 30, combine := wr && bitOf w 29, job := p.job.toNat,
    secure := false, seq := seq, poison := p.poison, land := .remote key 0 }

/-- Two requests touch a common 256-byte block. -/
def sameBlock (a b : Req) : Bool :=
  decide (a.addr / 256 ≤ (b.addr + b.op.len - 1) / 256) && decide (b.addr / 256 ≤ (a.addr + a.op.len - 1) / 256)

/-- Sequence number `a` comes before `b` in the order of one source. -/
def seqBefore (a b : Nat) : Bool := decide (0 < (b + 65536 - a) % 65536) && decide ((b + 65536 - a) % 65536 < 32768)

/-- A request that `p` names among its sources has a lower number of the same place than one that `q` names. -/
def InReq.before (p q : InReq) : Bool := p.sources.any fun a => q.sources.any fun b => a.1 == b.1 && seqBefore a.2 b.2

/-- Two requests come from one agent, or may: the entries of a COMBINED packet name no agent (R361). -/
def InReq.agentMeets (p q : InReq) : Bool := p.kind == 0x07 || q.kind == 0x07 || p.req.srcUnit == q.req.srcUnit

/-- An earlier request of the same agent to the same block is not yet applied (R350). -/
def State.blockHeld (s : State) (q : InReq) : Bool :=
  s.fabric.applying.any fun p => p.before q && p.agentMeets q && sameBlock p.req q.req

/-- A write of the source with a lower sequence number is not yet applied, or may not have arrived (R351). -/
def State.flagHeld (s : State) (q : InReq) : Bool :=
  q.req.flag && ((s.window q.req.place).missingBelow q.req.seq ||
    s.fabric.applying.any fun p => p.before q && p.req.op.writes)

/-- A piece of a remote request enters its home's queue, or is answered at once: the home checks the partition (R493), and
control space is closed to other places (R316). -/
def State.submitRemote (s : State) (r : Req) : State × Option Reply :=
  if r.space ≠ 0 then (s, some Reply.denied)
  else if !s.mapped r.addr then s.unmapped r
  else if !s.entryOk r then (s, some Reply.denied)
  else
    match homeOf r.addr with
    | .stack k _ => (s.enqueueStack k r, none)
    | .far o =>
      match s.farDev o with
      | none => s.unmapped r
      | some i => (s.enqueueFar i r, none)
    | .control _ => (s, some Reply.denied)
    | _ => s.atHome r []

/-- The pieces of a remote request, each with its offset: a READ_REQ and a COPY_DATA or SHARD_DATA delivery are split at the
blocks; a WRITE or an atomic is one access, which its home refuses where it does not lie within one block (R276, R359). -/
def remotePieces (r : Req) : List Req :=
  match r.op with
  | .atomic _ _ _ => [r]
  | .write _ => [r]
  | op => (pieces r.addr op.len).map fun p => { r with addr := p.1, op := op.piece p.2.2 p.2.1, land := .remote r.id p.2.2 }

/-- Applies an accepted request: its pieces go to their homes. One without bytes, and a WRITE across blocks, is refused. -/
def State.applyRemote (s : State) (r : Req) : State :=
  let ps := remotePieces r
  let start := fun (q : InReq) => if sameIn r.id q then { q with left := max 1 ps.length } else q
  let s := { s with fabric := { s.fabric with applying := s.fabric.applying.map start } }
  if ps = [] ∨ ps.any fun p => !p.op.fits p.addr then s.landRemote r.id 0 Reply.denied
  else
    ps.foldl (fun s p =>
      let n := s.number p
      let y := n.1.submitRemote n.2
      match y.2 with
      | some rep => y.1.landReq n.2 rep
      | none => y.1) s

/-- A new request: held under R350 or R351, or applied. -/
def State.acceptRemote (s : State) (kind : Nat) (r : Req) (sources : List (Nat × Nat)) : State :=
  let q : InReq := { key := r.id, req := r, kind := kind, left := 0, status := stOK, data := [], poison := false,
                     sources := sources }
  let flagged := s.flagHeld q
  let held := flagged || s.blockHeld q
  let s := { s with fabric := { s.fabric with applying := s.fabric.applying ++ [q], nextReq := s.fabric.nextReq + 1 } }
  if held then
    let s := { s with fabric := { s.fabric with held := s.fabric.held ++ [r] } }
    if flagged then s.bump rmtB RMT_FLAG_HELD.COUNT else s
  else s.applyRemote r

/-- Accepts a request other than a COMBINED one. -/
def State.acceptPacket (s : State) (p : Packet) : State :=
  s.acceptRemote p.kind (remoteReq p s.fabric.nextReq p.seq (p.srcDie * 1024 + p.srcUnit) (packetOp p)) [(p.src, p.seq)]

/-- A duplicate (R346, R348): a read reads again; where the original is not yet applied its answer covers both; else a write
applied before is acknowledged again with the status it had, and a fetching atomic receives its stored response. -/
def State.duplicateRemote (s : State) (p : Packet) (src seq : Nat) : State :=
  let s := s.bump rmtB RMT_DUP.COUNT
  if p.kind = 0x01 then s.acceptPacket p
  else if s.fabric.applying.any fun q => q.sources.contains (src, seq) then s
  else if p.kind = 0x05 ∧ atomicReturns (combAop p) then
    match s.fabric.resp.find? fun e => e.1 == src && e.2.1 == seq with
    | some e => s.inject { e.2.2 with epoch := s.epoch }
    | none => s
  else
    let st := mapGet stOK (s.window src).bad seq
    { s with fabric := { s.fabric with acks := s.fabric.acks ++ [(src, seq, st, s.now)] } }

/-- Sorts a request or a component through its source's window (R345, R362): true where it is new. -/
def State.sortRemote (s : State) (p : Packet) (src seq : Nat) : State × Bool :=
  match (s.window src).sort seq with
  | .new => (s.setWindow src ((s.window src).take seq), true)
  | .duplicate => (s.duplicateRemote p src seq, false)
  | .outside => (s.bump rmtB RMT_WINDOW_DROP.COUNT, false)

/-- The components of a COMBINED packet that are new, each with its source. -/
def State.newComponents (s : State) (p : Packet) : State × List ((Nat × Nat) × List Byte) :=
  (componentsOf p).foldl (fun (x : State × List ((Nat × Nat) × List Byte)) c =>
    let w := leNat (c.take 4)
    let y := x.1.sortRemote p (bitsOf w 31 17) (bitsOf w 16 1)
    (y.1, if y.2 then x.2 ++ [((bitsOf w 31 17, bitsOf w 16 1), componentOperand c)] else x.2)) (s, [])

/-- The response store has no room for another fetching atomic: its responses, and those accepted that will need one (R348). -/
def State.respFull (s : State) : Bool :=
  decide (respCap ≤ s.fabric.resp.length + (s.fabric.applying.filter fun q => q.kind == 0x05 && q.req.op.fetches).length)

/-- A delivered packet leaves the router's list, where it stands without the status and poison of an answer (log entry 40). -/
def State.takeDelivered (s : State) (p : Packet) : State :=
  let bare := fun (q : Packet) => { q with status := 0, poison := false }
  { s with fabric := { s.fabric with delivered := dropFirst (fun q => bare q == bare p) s.fabric.delivered } }

/-- A request arrives (R345, R362). A new fetching atomic waits under credits while the response store is full (R348). -/
def State.receiveRemote (s : State) (p : Packet) : State :=
  if p.dst ≠ s.place ∨ requestSources p = [] then s
  else if p.kind = 0x05 ∧ atomicReturns (combAop p) ∧ (s.window p.src).sort p.seq = .new ∧ s.respFull then s
  else
    let s := s.takeDelivered p
    if p.kind = 0x07 then
      let y := s.newComponents p
      match y.2 with
      | [] => y.1
      | c :: _ =>
        let op := MemOp.atomic (combAop p) (bitOf p.word7.toNat 20)
          (foldOperands (combAop p) (bitOf p.word7.toNat 20) (y.2.map fun c => c.2))
        y.1.acceptRemote p.kind (remoteReq p y.1.fabric.nextReq c.1.2 (p.srcDie * 1024 + p.srcUnit) op) (y.2.map fun c => c.1)
    else
      let y := s.sortRemote p p.src p.seq
      if y.2 then y.1.acceptPacket p else y.1

def execRemoteRequestReceive (pkt : Packet) (s : State) : Host.Outcome State Fault Refusal := .next (s.receiveRemote pkt)

/-- A held request of another place is applied once nothing holds it (R350, R351). -/
def State.releaseRemote (s : State) (src seq : Nat) : State :=
  match s.fabric.applying.find? fun q => q.sources.contains (src, seq) && s.fabric.held.contains q.req with
  | none => s
  | some q =>
    if s.flagHeld q || s.blockHeld q then s
    else ({ s with fabric := { s.fabric with held := dropFirst (· == q.req) s.fabric.held } }).applyRemote q.req

/-- A held request of the own place, which carries the low 16 bits of its number, enters its home's queue (R352). -/
def State.releaseOwn (s : State) (seq : Nat) : State :=
  match s.fabric.held.find? fun r => r.place == s.place && r.id % 65536 == seq with
  | none => s
  | some r =>
    let out := { s with fabric := { s.fabric with held := dropFirst (· == r) s.fabric.held } }
    if (r.flag && out.earlierWrites r.id) || out.heldBefore r then s
    else
      let y := out.submit r
      match y.2 with
      | some rep => (y.1.landReq r rep).goesOn r.land
      | none => y.1

/-- A held request is released (R350-R352). -/
def State.releaseHeld (s : State) (src seq : Nat) : State := if src = s.place then s.releaseOwn seq else s.releaseRemote src seq

def execHeldRequestRelease (src : BitVec 15) (seq : BitVec 16) (s : State) : Host.Outcome State Fault Refusal :=
  .next (s.releaseHeld src.toNat seq.toNat)

/-! ### Acknowledgements and responses -/

/-- An entry of an ACK or RESP_ACK (R342). -/
def ackEntry (seq status : Nat) : List Byte := toBytes (seq * 2 ^ 48 + status * 2 ^ 32) 8

/-- The entries of an ACK or RESP_ACK: SEQ and STATUS. -/
def ackEntries (p : Packet) : List (Nat × Nat) :=
  (chunksOf 8 512 p.payload).map fun c => (bitsOf (leNat c) 63 48, bitsOf (leNat c) 47 32)

/-- The acknowledgements ready for a place share one packet, 512 at most (R347). -/
def State.sendAcks (s : State) (dst : Nat) : State :=
  let mine := (s.fabric.acks.filter fun a => a.1 == dst).take 512
  if mine = [] then s
  else
    let rest := mine.foldl (fun l a => dropFirst (· == a) l) s.fabric.acks
    ({ s with fabric := { s.fabric with acks := rest } }).inject
      (s.packet 2 0x08 dst 0 0 (mine.flatMap fun (a : Nat × Nat × Nat × Nat) => ackEntry a.2.1 a.2.2.1))

def execAckSend (dst : BitVec 15) (s : State) : Host.Outcome State Fault Refusal := .next (s.sendAcks dst.toNat)

/-- An answer covers the request of a SEQ to a place: the retry store frees it and it completes (R344, R353). -/
def State.answered (s : State) (dst seq : Nat) (rep : Reply) : State :=
  match s.fabric.sent.find? fun x => x.dst == dst && x.seq == seq with
  | none => s
  | some x =>
    (({ s with fabric := { s.fabric with sent := s.fabric.sent.filter fun y => !(y.dst == dst && y.seq == seq) } }).landReq
      x.req rep).goesOn x.req.land

def execAckReceive (pkt : Packet) (s : State) : Host.Outcome State Fault Refusal :=
  .next (if pkt.kind = 0x08 ∧ pkt.dst = s.place then
      (ackEntries pkt).foldl (fun s e => s.answered pkt.src e.1 ⟨e.2, [], false⟩) (s.takeDelivered pkt)
    else s)

def execReadRespReceive (pkt : Packet) (status : Nat) (poison : Bool) (s : State) : Host.Outcome State Fault Refusal :=
  .next (if pkt.kind = 0x02 ∧ pkt.dst = s.place then
      (s.takeDelivered pkt).answered pkt.src pkt.seq ⟨status, pkt.payload, poison⟩
    else s)

/-- An old value reaches the source, which frees the stored response with a RESP_ACK (R348). -/
def execAtomicRespReceive (pkt : Packet) (status : Nat) (s : State) : Host.Outcome State Fault Refusal :=
  .next (if pkt.kind = 0x06 ∧ pkt.dst = s.place then
      let s := (s.takeDelivered pkt).answered pkt.src pkt.seq ⟨status, pkt.payload, false⟩
      s.inject (s.packet 2 0x09 pkt.src 0 pkt.job (ackEntry pkt.seq 0))
    else s)

def execRespAckReceive (pkt : Packet) (s : State) : Host.Outcome State Fault Refusal :=
  .next (if pkt.kind = 0x09 ∧ pkt.dst = s.place then
      let done := fun (e : Nat × Nat × Packet) => e.1 == pkt.src && (ackEntries pkt).any fun a => a.1 == e.2.1
      let s := s.takeDelivered pkt
      { s with fabric := { s.fabric with resp := s.fabric.resp.filter fun e => !done e } }
    else s)

end Sys2Proof.Machine
end

