-- ==== Sys2Proof/Machine/Dispatch.lean ====
section
/-! DEFINITION. One arm for each command of the table: a direct call of its meaning. -/

namespace Sys2Proof.Machine

def exec (i : Instr) (s : State) : Host.Outcome State Fault Refusal :=
  match i with
  | .registerWrite who off wide v => Sys2Proof.Machine.execRegisterWrite who off wide v s
  | .stepCut d => Sys2Proof.Machine.execStepCut d s
  | .switchStepStart d => Sys2Proof.Machine.execSwitchStepStart d s
  | .dieStart d => Sys2Proof.Machine.execDieStart d s
  | .arm d => Sys2Proof.Machine.execArm d s
  | .stop d => Sys2Proof.Machine.execStop d s
  | .abort d => Sys2Proof.Machine.execAbort d s
  | .dieAtEnd d => Sys2Proof.Machine.execDieAtEnd d s
  | .nop d t w => Sys2Proof.Machine.execNop d t w s
  | .endStep d t w => Sys2Proof.Machine.execEndStep d t w s
  | .idle d t w => Sys2Proof.Machine.execIdle d t w s
  | .loop d t w => Sys2Proof.Machine.execLoop d t w s
  | .brl d t w => Sys2Proof.Machine.execBrl d t w s
  | .mma d t w => Sys2Proof.Machine.execMma d t w s
  | .mmaComplete d t => Sys2Proof.Machine.execMmaComplete d t s
  | .vec d t w => Sys2Proof.Machine.execVec d t w s
  | .vecProgramComplete d t => Sys2Proof.Machine.execVecProgramComplete d t s
  | .send d t w => Sys2Proof.Machine.execSend d t w s
  | .sendComplete d t => Sys2Proof.Machine.execSendComplete d t s
  | .recv d t w => Sys2Proof.Machine.execRecv d t w s
  | .recvComplete d t => Sys2Proof.Machine.execRecvComplete d t s
  | .tags d t w => Sys2Proof.Machine.execTags d t w s
  | .reqRead d t w => Sys2Proof.Machine.execReqRead d t w s
  | .reqWrite d t w => Sys2Proof.Machine.execReqWrite d t w s
  | .reqAtomic d t w => Sys2Proof.Machine.execReqAtomic d t w s
  | .reqCopy d t w => Sys2Proof.Machine.execReqCopy d t w s
  | .reqFence d t w => Sys2Proof.Machine.execReqFence d t w s
  | .tagWaitRelease d => Sys2Proof.Machine.execTagWaitRelease d s
  | .tagWaitTimeout d => Sys2Proof.Machine.execTagWaitTimeout d s
  | .staticRouteArrival src d t slot data => Sys2Proof.Machine.execStaticRouteArrival src d t slot data s
  | .scratchArrival d t slot ofs data fill poison => Sys2Proof.Machine.execScratchArrival d t slot ofs data fill poison s
  | .scratchWindowAccess d a => Sys2Proof.Machine.execScratchWindowAccess d a s
  | .scrClearGo d v => Sys2Proof.Machine.execScrClearGo d v s
  | .scrClearDone d => Sys2Proof.Machine.execScrClearDone d s
  | .scratchScrub d struck => Sys2Proof.Machine.execScratchScrub d struck s
  | .copy d t w => Sys2Proof.Machine.execCopy d t w s
  | .add d t w => Sys2Proof.Machine.execAdd d t w s
  | .sub d t w => Sys2Proof.Machine.execSub d t w s
  | .mul d t w => Sys2Proof.Machine.execMul d t w s
  | .fma d t w => Sys2Proof.Machine.execFma d t w s
  | .min d t w => Sys2Proof.Machine.execMin d t w s
  | .max d t w => Sys2Proof.Machine.execMax d t w s
  | .abs d t w => Sys2Proof.Machine.execAbs d t w s
  | .neg d t w => Sys2Proof.Machine.execNeg d t w s
  | .div d t w => Sys2Proof.Machine.execDiv d t w s
  | .sqrt d t w => Sys2Proof.Machine.execSqrt d t w s
  | .rsqrt d t w => Sys2Proof.Machine.execRsqrt d t w s
  | .exp d t w => Sys2Proof.Machine.execExp d t w s
  | .log d t w => Sys2Proof.Machine.execLog d t w s
  | .tanh d t w => Sys2Proof.Machine.execTanh d t w s
  | .sigm d t w => Sys2Proof.Machine.execSigm d t w s
  | .sin d t w => Sys2Proof.Machine.execSin d t w s
  | .cos d t w => Sys2Proof.Machine.execCos d t w s
  | .cvt d t w => Sys2Proof.Machine.execCvt d t w s
  | .bamax d t w => Sys2Proof.Machine.execBamax d t w s
  | .rsum d t w => Sys2Proof.Machine.execRsum d t w s
  | .rmax d t w => Sys2Proof.Machine.execRmax d t w s
  | .rmin d t w => Sys2Proof.Machine.execRmin d t w s
  | .ramax d t w => Sys2Proof.Machine.execRamax d t w s
  | .argmax d t w => Sys2Proof.Machine.execArgmax d t w s
  | .amxrd d t w => Sys2Proof.Machine.execAmxrd d t w s
  | .flg d t w => Sys2Proof.Machine.execFlg d t w s
  | .lds d t w => Sys2Proof.Machine.execLds d t w s
  | .sts d t w => Sys2Proof.Machine.execSts d t w s
  | .mouldLoad h ps => Sys2Proof.Machine.execMouldLoad h ps s
  | .mouldStreamDone d slot => Sys2Proof.Machine.execMouldStreamDone d slot s
  | .mouldCheckDone d slot => Sys2Proof.Machine.execMouldCheckDone d slot s
  | .mouldSwitch h ps => Sys2Proof.Machine.execMouldSwitch h ps s
  | .mouldEvict h ps => Sys2Proof.Machine.execMouldEvict h ps s
  | .refireSwitch d => Sys2Proof.Machine.execRefireSwitch d s
  | .tnmSlotWrite d slot v => Sys2Proof.Machine.execTnmSlotWrite d slot v s
  | .fenceL c w => Sys2Proof.Machine.execFenceL c w s
  | .fenceG c w => Sys2Proof.Machine.execFenceG c w s
  | .fenceGComplete c => Sys2Proof.Machine.execFenceGComplete c s
  | .invl c w => Sys2Proof.Machine.execInvl c w s
  | .invr c w => Sys2Proof.Machine.execInvr c w s
  | .inva c w => Sys2Proof.Machine.execInva c w s
  | .invalidationComplete c => Sys2Proof.Machine.execInvalidationComplete c s
  | .wait c w => Sys2Proof.Machine.execWait c w s
  | .gate c w => Sys2Proof.Machine.execGate c w s
  | .eret c w => Sys2Proof.Machine.execEret c w s
  | .grain c w => Sys2Proof.Machine.execGrain c w s
  | .coreLoad c rd addr size privPage way => Sys2Proof.Machine.execCoreLoad c rd addr size privPage way s
  | .coreStore c rs addr size privPage => Sys2Proof.Machine.execCoreStore c rs addr size privPage s
  | .coreAtomic c rd rs rc aop size64 addr privPage => Sys2Proof.Machine.execCoreAtomic c rd rs rc aop size64 addr privPage s
  | .coreLoadReply c id => Sys2Proof.Machine.execCoreLoadReply c id s
  | .interruptTake x => Sys2Proof.Machine.execInterruptTake x s
  | .grainCmpMatch c => Sys2Proof.Machine.execGrainCmpMatch c s
  | .coreRelease c => Sys2Proof.Machine.execCoreRelease c s
  | .nmi c => Sys2Proof.Machine.execNmi c s
  | .ipiSend c target => Sys2Proof.Machine.execIpiSend c target s
  | .ipiClear c => Sys2Proof.Machine.execIpiClear c s
  | .vadd c w => Sys2Proof.Machine.execVadd c w s
  | .vsub c w => Sys2Proof.Machine.execVsub c w s
  | .vmul c w => Sys2Proof.Machine.execVmul c w s
  | .vdiv c w => Sys2Proof.Machine.execVdiv c w s
  | .vsqrt c w => Sys2Proof.Machine.execVsqrt c w s
  | .vmin c w => Sys2Proof.Machine.execVmin c w s
  | .vmax c w => Sys2Proof.Machine.execVmax c w s
  | .vsel c w => Sys2Proof.Machine.execVsel c w s
  | .vfma c w => Sys2Proof.Machine.execVfma c w s
  | .vfms c w => Sys2Proof.Machine.execVfms c w s
  | .vneg c w => Sys2Proof.Machine.execVneg c w s
  | .vcmul c w => Sys2Proof.Machine.execVcmul c w s
  | .vcmulc c w => Sys2Proof.Machine.execVcmulc c w s
  | .vcmula c w => Sys2Proof.Machine.execVcmula c w s
  | .vcmpeq c w => Sys2Proof.Machine.execVcmpeq c w s
  | .vcmplt c w => Sys2Proof.Machine.execVcmplt c w s
  | .vcmple c w => Sys2Proof.Machine.execVcmple c w s
  | .viadd c w => Sys2Proof.Machine.execViadd c w s
  | .visub c w => Sys2Proof.Machine.execVisub c w s
  | .vimul c w => Sys2Proof.Machine.execVimul c w s
  | .vand c w => Sys2Proof.Machine.execVand c w s
  | .vor c w => Sys2Proof.Machine.execVor c w s
  | .vxor c w => Sys2Proof.Machine.execVxor c w s
  | .vsll c w => Sys2Proof.Machine.execVsll c w s
  | .vsra c w => Sys2Proof.Machine.execVsra c w s
  | .vfcvtI c w => Sys2Proof.Machine.execVfcvtI c w s
  | .vicvtF c w => Sys2Proof.Machine.execVicvtF c w s
  | .vwcvt c w => Sys2Proof.Machine.execVwcvt c w s
  | .vncvt c w => Sys2Proof.Machine.execVncvt c w s
  | .vrsum c w => Sys2Proof.Machine.execVrsum c w s
  | .vrmax c w => Sys2Proof.Machine.execVrmax c w s
  | .vrmin c w => Sys2Proof.Machine.execVrmin c w s
  | .vsplat c w => Sys2Proof.Machine.execVsplat c w s
  | .scalarFpOp c w => Sys2Proof.Machine.execScalarFpOp c w s
  | .setvl c w => Sys2Proof.Machine.execSetvl c w s
  | .vlr c w => Sys2Proof.Machine.execVlr c w s
  | .vlw c w => Sys2Proof.Machine.execVlw c w s
  | .vstr c w => Sys2Proof.Machine.execVstr c w s
  | .vstw c w => Sys2Proof.Machine.execVstw c w s
  | .mand c w => Sys2Proof.Machine.execMand c w s
  | .mor c w => Sys2Proof.Machine.execMor c w s
  | .mnot c w => Sys2Proof.Machine.execMnot c w s
  | .mpop c w => Sys2Proof.Machine.execMpop c w s
  | .mfirst c w => Sys2Proof.Machine.execMfirst c w s
  | .fsrr c w => Sys2Proof.Machine.execFsrr c w s
  | .fsrw c w => Sys2Proof.Machine.execFsrw c w s
  | .vmvg c w => Sys2Proof.Machine.execVmvg c w s
  | .vmvf c w => Sys2Proof.Machine.execVmvf c w s
  | .vectorLoad c w pages irqAt => Sys2Proof.Machine.execVectorLoad c w pages irqAt s
  | .vectorStore c w pages irqAt => Sys2Proof.Machine.execVectorStore c w pages irqAt s
  | .slvSubmit e who hi => Sys2Proof.Machine.execSlvSubmit e who hi s
  | .batchStart e => Sys2Proof.Machine.execBatchStart e s
  | .batchEngineDone e => Sys2Proof.Machine.execBatchEngineDone e s
  | .redoDone e => Sys2Proof.Machine.execRedoDone e s
  | .batchDeadline e started => Sys2Proof.Machine.execBatchDeadline e started s
  | .batchComplete e => Sys2Proof.Machine.execBatchComplete e s
  | .stackOpApply k pc => Sys2Proof.Machine.execStackOpApply k pc s
  | .digestJobDone unit => Sys2Proof.Machine.execDigestJobDone unit s
  | .memScrub k struck => Sys2Proof.Machine.execMemScrub k struck s
  | .farTierAccess x => Sys2Proof.Machine.execFarTierAccess x s
  | .ftDevCommit dev v => Sys2Proof.Machine.execFtDevCommit dev v s
  | .ftLinkDown dev viral => Sys2Proof.Machine.execFtLinkDown dev viral s
  | .ftLinkUp dev => Sys2Proof.Machine.execFtLinkUp dev s
  | .ftBadResponse dev tag => Sys2Proof.Machine.execFtBadResponse dev tag s
  | .flitReceive p fec blockCount words => Sys2Proof.Machine.execFlitReceive p fec blockCount words s
  | .nakReceive p words => Sys2Proof.Machine.execNakReceive p words s
  | .creditReceive p words => Sys2Proof.Machine.execCreditReceive p words s
  | .identReceive p words laneRev => Sys2Proof.Machine.execIdentReceive p words laneRev s
  | .quarantineReceive p words => Sys2Proof.Machine.execQuarantineReceive p words s
  | .portDown p cause => Sys2Proof.Machine.execPortDown p cause s
  | .portTrainStart p => Sys2Proof.Machine.execPortTrainStart p s
  | .trainingTimeout p => Sys2Proof.Machine.execTrainingTimeout p s
  | .portRelease p role => Sys2Proof.Machine.execPortRelease p role s
  | .retrain p => Sys2Proof.Machine.execRetrain p s
  | .portEnable p on => Sys2Proof.Machine.execPortEnable p on s
  | .knock p => Sys2Proof.Machine.execKnock p s
  | .packetForward inp pkt overrun => Sys2Proof.Machine.execPacketForward inp pkt overrun s
  | .congSample node group system peers => Sys2Proof.Machine.execCongSample node group system peers s
  | .routeNotice pkt unreachable => Sys2Proof.Machine.execRouteNotice pkt unreachable s
  | .resendTimeout dst seq => Sys2Proof.Machine.execResendTimeout dst seq s
  | .requestSend => Sys2Proof.Machine.execRequestSend s
  | .remoteRequestReceive pkt => Sys2Proof.Machine.execRemoteRequestReceive pkt s
  | .heldRequestRelease src seq => Sys2Proof.Machine.execHeldRequestRelease src seq s
  | .ackSend dst => Sys2Proof.Machine.execAckSend dst s
  | .ackReceive pkt => Sys2Proof.Machine.execAckReceive pkt s
  | .readRespReceive pkt status poison => Sys2Proof.Machine.execReadRespReceive pkt status poison s
  | .atomicRespReceive pkt status => Sys2Proof.Machine.execAtomicRespReceive pkt status s
  | .respAckReceive pkt => Sys2Proof.Machine.execRespAckReceive pkt s
  | .fenceComplete a => Sys2Proof.Machine.execFenceComplete a s
  | .cpeSubmit e who hi => Sys2Proof.Machine.execCpeSubmit e who hi s
  | .cpeWrite e => Sys2Proof.Machine.execCpeWrite e s
  | .cpeAtomic e => Sys2Proof.Machine.execCpeAtomic e s
  | .cpeCopy e => Sys2Proof.Machine.execCpeCopy e s
  | .cpeFence e => Sys2Proof.Machine.execCpeFence e s
  | .cpeDescriptorComplete e => Sys2Proof.Machine.execCpeDescriptorComplete e s
  | .teamCreate h ps => Sys2Proof.Machine.execTeamCreate h ps s
  | .teamDestroy h ps => Sys2Proof.Machine.execTeamDestroy h ps s
  | .teamReset h ps => Sys2Proof.Machine.execTeamReset h ps s
  | .teamInfo h ps => Sys2Proof.Machine.execTeamInfo h ps s
  | .collBarrier die rec => Sys2Proof.Machine.execCollBarrier die rec s
  | .collScalar die rec => Sys2Proof.Machine.execCollScalar die rec s
  | .collVote d team ovf unable => Sys2Proof.Machine.execCollVote d team ovf unable s
  | .collBcast die rec => Sys2Proof.Machine.execCollBcast die rec s
  | .collReduce die rec => Sys2Proof.Machine.execCollReduce die rec s
  | .collAllreduce die rec => Sys2Proof.Machine.execCollAllreduce die rec s
  | .upMessageReceive m => Sys2Proof.Machine.execUpMessageReceive m s
  | .releaseReceive m => Sys2Proof.Machine.execReleaseReceive m s
  | .alignedCompletion team seq die => Sys2Proof.Machine.execAlignedCompletion team seq die s
  | .chunkReceive m => Sys2Proof.Machine.execChunkReceive m s
  | .chunkAckReceive team seq child chunk => Sys2Proof.Machine.execChunkAckReceive team seq child chunk s
  | .doneReceive team seq child ranks flags => Sys2Proof.Machine.execDoneReceive team seq child ranks flags s
  | .heartbeat team peer => Sys2Proof.Machine.execHeartbeat team peer s
  | .parentLost team => Sys2Proof.Machine.execParentLost team s
  | .inputLost team child => Sys2Proof.Machine.execInputLost team child s
  | .resumeReceive team seq child ask => Sys2Proof.Machine.execResumeReceive team seq child ask s
  | .callTimeout team seq die => Sys2Proof.Machine.execCallTimeout team seq die s
  | .sensorSample rs => Sys2Proof.Machine.execSensorSample rs s
  | .clockDemandEnd d cause => Sys2Proof.Machine.execClockDemandEnd d cause s
  | .droopDetect d region => Sys2Proof.Machine.execDroopDetect d region s
  | .tbSyncSend => Sys2Proof.Machine.execTbSyncSend s
  | .tbSync p m rx => Sys2Proof.Machine.execTbSync p m rx s
  | .tbDelayReq p m rx => Sys2Proof.Machine.execTbDelayReq p m rx s
  | .tbDelayResp p m => Sys2Proof.Machine.execTbDelayResp p m s
  | .upstreamLoss => Sys2Proof.Machine.execUpstreamLoss s
  | .ppsEdge => Sys2Proof.Machine.execPpsEdge s
  | .ppsMiss => Sys2Proof.Machine.execPpsMiss s
  | .tbReselect => Sys2Proof.Machine.execTbReselect s
  | .tbNowRead => Sys2Proof.Machine.execTbNowRead s
  | .commandLaunch chan seq => Sys2Proof.Machine.execCommandLaunch chan seq s
  | .chReqPush who chan w => Sys2Proof.Machine.execChReqPush who chan w s
  | .chRspRead who chan => Sys2Proof.Machine.execChRspRead who chan s
  | .keepalive who chan => Sys2Proof.Machine.execKeepalive who chan s
  | .resync who chan => Sys2Proof.Machine.execResync who chan s
  | .commandPacketReceive chan => Sys2Proof.Machine.execCommandPacketReceive chan s
  | .commandAcknowledge chan => Sys2Proof.Machine.execCommandAcknowledge chan s
  | .sessionIdleTimeout chan => Sys2Proof.Machine.execSessionIdleTimeout chan s
  | .cmdFwd pkt => Sys2Proof.Machine.execCmdFwd pkt s
  | .cmdRpl pkt => Sys2Proof.Machine.execCmdRpl pkt s
  | .memberReplyTimeout chan seq unit => Sys2Proof.Machine.execMemberReplyTimeout chan seq unit s
  | .mgmtRead pkt => Sys2Proof.Machine.execMgmtRead pkt s
  | .mgmtWrite pkt => Sys2Proof.Machine.execMgmtWrite pkt s
  | .mgmtResp pkt status => Sys2Proof.Machine.execMgmtResp pkt status s
  | .sessionChallenge h ps => Sys2Proof.Machine.execSessionChallenge h ps s
  | .sessionOpen h ps => Sys2Proof.Machine.execSessionOpen h ps s
  | .sessionClose h ps => Sys2Proof.Machine.execSessionClose h ps s
  | .sessionInfo h ps => Sys2Proof.Machine.execSessionInfo h ps s
  | .nopCommand h ps => Sys2Proof.Machine.execNopCommand h ps s
  | .unitArm h ps => Sys2Proof.Machine.execUnitArm h ps s
  | .unitStop h ps => Sys2Proof.Machine.execUnitStop h ps s
  | .unitAbort h ps => Sys2Proof.Machine.execUnitAbort h ps s
  | .regRead h ps => Sys2Proof.Machine.execRegRead h ps s
  | .regWrite h ps => Sys2Proof.Machine.execRegWrite h ps s
  | .taskSet h ps => Sys2Proof.Machine.execTaskSet h ps s
  | .modeSet h ps => Sys2Proof.Machine.execModeSet h ps s
  | .memRead h ps => Sys2Proof.Machine.execMemRead h ps s
  | .memWrite h ps => Sys2Proof.Machine.execMemWrite h ps s
  | .memFill h ps => Sys2Proof.Machine.execMemFill h ps s
  | .copyCommand h ps => Sys2Proof.Machine.execCopyCommand h ps s
  | .mrtWrite h ps => Sys2Proof.Machine.execMrtWrite h ps s
  | .scrClear h ps => Sys2Proof.Machine.execScrClear h ps s
  | .stratumConfig h ps => Sys2Proof.Machine.execStratumConfig h ps s
  | .stratumTensor h ps => Sys2Proof.Machine.execStratumTensor h ps s
  | .stratumArm h ps => Sys2Proof.Machine.execStratumArm h ps s
  | .stratumAbandon h ps => Sys2Proof.Machine.execStratumAbandon h ps s
  | .stratumCommitted h ps => Sys2Proof.Machine.execStratumCommitted h ps s
  | .stratumList h ps => Sys2Proof.Machine.execStratumList h ps s
  | .stratumTimerExpire job => Sys2Proof.Machine.execStratumTimerExpire job s
  | .shardForm job => Sys2Proof.Machine.execShardForm job s
  | .stratumCommit job => Sys2Proof.Machine.execStratumCommit job s
  | .stratumCommitTimeout job => Sys2Proof.Machine.execStratumCommitTimeout job s
  | .strAbandon d => Sys2Proof.Machine.execStrAbandon d s
  | .restore h ps => Sys2Proof.Machine.execRestore h ps s
  | .capSet h ps => Sys2Proof.Machine.execCapSet h ps s
  | .pwrCapWrite v => Sys2Proof.Machine.execPwrCapWrite v s
  | .domainState h ps => Sys2Proof.Machine.execDomainState h ps s
  | .domainChangeDone code => Sys2Proof.Machine.execDomainChangeDone code s
  | .powerRead h ps => Sys2Proof.Machine.execPowerRead h ps s
  | .governorSample watts => Sys2Proof.Machine.execGovernorSample watts s
  | .capUnmet => Sys2Proof.Machine.execCapUnmet s
  | .thermalTrip => Sys2Proof.Machine.execThermalTrip s
  | .laneWake src => Sys2Proof.Machine.execLaneWake src s
  | .slumpDetect cause => Sys2Proof.Machine.execSlumpDetect cause s
  | .slumpSaveDone => Sys2Proof.Machine.execSlumpSaveDone s
  | .supplyReturn => Sys2Proof.Machine.execSupplyReturn s
  | .reset h ps => Sys2Proof.Machine.execReset h ps s
  | .coldReset straps puf => Sys2Proof.Machine.execColdReset straps puf s
  | .warmReset => Sys2Proof.Machine.execWarmReset s
  | .hostReset => Sys2Proof.Machine.execHostReset s
  | .dieReset die => Sys2Proof.Machine.execDieReset die s
  | .fwGo => Sys2Proof.Machine.execFwGo s
  | .firmwareVerifyDone => Sys2Proof.Machine.execFirmwareVerifyDone s
  | .tbConfig h ps => Sys2Proof.Machine.execTbConfig h ps s
  | .tbRelease h ps => Sys2Proof.Machine.execTbRelease h ps s
  | .tbRead h ps => Sys2Proof.Machine.execTbRead h ps s
  | .countersRead h ps => Sys2Proof.Machine.execCountersRead h ps s
  | .journalRead h ps => Sys2Proof.Machine.execJournalRead h ps s
  | .evtSubscribe h ps => Sys2Proof.Machine.execEvtSubscribe h ps s
  | .journalClear h ps => Sys2Proof.Machine.execJournalClear h ps s
  | .keyWrite h ps => Sys2Proof.Machine.execKeyWrite h ps s
  | .keyRevoke h ps => Sys2Proof.Machine.execKeyRevoke h ps s
  | .rightsSet h ps => Sys2Proof.Machine.execRightsSet h ps s
  | .partitionSet h ps => Sys2Proof.Machine.execPartitionSet h ps s
  | .ownershipSet h ps => Sys2Proof.Machine.execOwnershipSet h ps s
  | .attest h ps => Sys2Proof.Machine.execAttest h ps s
  | .identityRead h ps => Sys2Proof.Machine.execIdentityRead h ps s
  | .drfClearGo u => Sys2Proof.Machine.execDrfClearGo u s
  | .journalPersist => Sys2Proof.Machine.execJournalPersist s
  | .hostWindowWrite fn off data poisoned store => Sys2Proof.Machine.execHostWindowWrite fn off data poisoned store s
  | .hostWindowRead fn off len => Sys2Proof.Machine.execHostWindowRead fn off len s
  | .hostWriteRelease fn => Sys2Proof.Machine.execHostWriteRelease fn s
  | .flr fn => Sys2Proof.Machine.execFlr fn s
  | .mctpMessageReceive mtype iana pecOk words => Sys2Proof.Machine.execMctpMessageReceive mtype iana pecOk words s
  | .bypass tdi => Sys2Proof.Machine.execBypass tdi s
  | .idcode => Sys2Proof.Machine.execIdcode s
  | .samplePreload pins chain => Sys2Proof.Machine.execSamplePreload pins chain s
  | .extest pins => Sys2Proof.Machine.execExtest pins s
  | .clamp => Sys2Proof.Machine.execClamp s
  | .highz => Sys2Proof.Machine.execHighz s
  | .dynamicAddressAssignment addr => Sys2Proof.Machine.execDynamicAddressAssignment addr s
  | .hostLinkTrained rate width flit => Sys2Proof.Machine.execHostLinkTrained rate width flit s

end Sys2Proof.Machine
end

