-- ==== Sys2Proof/Safety.lean ====
section
/-! DEFINITION. What claims take for granted of a state, and what counts as a safe run: one in which every step answers a next
state. -/

namespace Sys2Proof.Machine

/-- A sparse map in canonical form: keys strictly rising, and no entry that equals what an unlisted key reads as. -/
def canonMap {α : Type} [DecidableEq α] (d : Nat → α) (m : FMap α) : Bool :=
  keysRise 0 m && m.all fun e => decide (e.2 ≠ d e.1)

/-- The byte memory, the registers and the slot tags are in canonical form, so that equal contents are equal data. -/
def State.canon (s : State) : Bool :=
  Memory.wf s.mem && canonMap resetWord s.regs && canonMap (fun _ => Tag.empty) s.tags

/-- `n` steps from `s`; none where one of them does not answer a next state. -/
def runFor : Nat → State → Option State
  | 0, s => some s
  | n + 1, s =>
    match step s with
    | .next t => runFor n t
    | _ => none

/-- A run of any length from `s` goes on. -/
def State.safe (s : State) : Prop := ∀ n, (runFor n s).isSome = true

/-! ### What a statement about a tile takes for granted -/

/-- Die `d` issues: it is RUNNING, no stream runs on it, no word is under way in its switches and no upset waits in it. -/
def State.dieCalm (s : State) (d : Nat) : Bool :=
  s.dieState d == dsRUNNING && (s.die d).flights.isEmpty && (s.die d).upsets.isEmpty &&
    s.tiles.all fun e => e.1 / 768 != d || (e.2.snd.isEmpty && e.2.rcv.isEmpty)

/-- Tile `t` issues `w` next, with opcode `op` and without waiting for tags, on a calm die; its own matrix unit, vector engine
and local output are idle. -/
def State.issuesNow (s : State) (d t : Nat) (w : BitVec 128) (op : Nat) : Bool :=
  s.dieCalm d && s.atMicro d t w op && !microTc w && (s.tile d t).mma.isNone && (s.tile d t).vec.isNone &&
    (s.tile d t).locOut.isEmpty

/-- Every stream of die `d` has moved its last word, no word is under way in its switches and no upset waits in it. -/
def State.streamsOver (s : State) (d : Nat) : Bool :=
  let gone := fun (l : List Stream) => (liveStream l).isNone
  (s.die d).flights.isEmpty && (s.die d).upsets.isEmpty && s.tiles.all fun e => e.1 / 768 != d || (gone e.2.snd && gone e.2.rcv)

/-- A tile past its micro-instruction `w`: the next program position and issue cycle, with the route entry of `w` (R91, R112). -/
def TileX.past (x : TileX) (w : BitVec 128) : TileX :=
  { x with pc := x.pc + 1, cycle := x.cycle + 1, hist := noteRoute x.cycle (microRoute w) x.hist }

/-! ### Vector instructions -/

/-- The elementwise instructions of the vector engine with their opcodes (R137, R138). -/
def elementCommands : List ((Fin 12 → Fin 768 → BitVec 64 → Instr) × Nat) :=
  [(.copy, 0x01), (.add, 0x02), (.sub, 0x03), (.mul, 0x04), (.fma, 0x05), (.min, 0x06), (.max, 0x07), (.abs, 0x08),
   (.neg, 0x09), (.div, 0x10), (.sqrt, 0x11), (.rsqrt, 0x12), (.exp, 0x18), (.log, 0x19), (.tanh, 0x1A), (.sigm, 0x1B),
   (.sin, 0x1C), (.cos, 0x1D)]

/-- Conversions, reductions and moves of scalars with their opcodes (R133, R147, R152-R156). -/
def otherVecCommands : List ((Fin 12 → Fin 768 → BitVec 64 → Instr) × Nat) :=
  [(.cvt, 0x20), (.bamax, 0x21), (.rsum, 0x28), (.rmax, 0x29), (.rmin, 0x2A), (.ramax, 0x2B), (.argmax, 0x2C),
   (.amxrd, 0x30), (.flg, 0x31), (.lds, 0x32), (.sts, 0x33)]

/-- The instruction `w` with opcode `vop` is the next one of the program that runs as `r` in tile `t` of a calm die with no
matrix operation in the tile; its local words `loc` have come, and it reads no POISON slot. -/
def State.vecNext (s : State) (d t : Nat) (w : BitVec 64) (vop : Nat) (r : VecRun) (loc : List (List Byte)) : Bool :=
  let i := vInstr w.toNat
  let p := s.vecProg d t r.prog
  s.dieCalm d && (s.tile d t).mma.isNone && decide ((s.tile d t).vec = some r) && i.vop == vop &&
    decide (p.instrs[r.next]? = some i) && decide ((s.tile d t).localAt r.takeCycles = some loc) &&
    (s.poisonRead d t ((p.reads r i).map fun v => (v.ofs, v.len))).isNone

/-- The operand at location `code` of an instruction that runs as `r`, as the codes of its computing format (R133, R136). -/
def State.operand (s : State) (d t : Nat) (r : VecRun) (i : VInstr) (loc : List (List Byte)) (code : Nat) : List Nat :=
  let v := s.readSrc d t (s.vecProg d t r.prog) r i (r.s0 + r.now.s) r.now.rate loc code
  (List.range i.readCount).map fun j => (v.elem i j).1

/-- Where an instruction that runs as `r` stores in scratch, and how many bytes: a stream destination of elements, or the 8
bytes of an STS (R133). -/
def State.storesAt (s : State) (d t : Nat) (r : VecRun) (i : VInstr) : Nat × Nat :=
  (slotAddr d t (s.phys d 0) + ((s.vecProg d t r.prog).stream i.dst).at_ r,
    if i.dst < 8 ∨ scalarResult i.vop then 0 else if i.vop = 0x33 then 8 else packedLen (i.storeFmt true) i.writeCount)

/-! ### Accesses of the own package -/

/-- The operations that wait at the pseudo-channel of a stack address, oldest first (R278, R279). -/
def State.waitsAt (s : State) (a : Nat) : List Req :=
  mapGet [] (s.stack (a / 0x2000000000)).queues (pseudoChannel (a % 0x2000000000))

/-- `n` bytes at global address `ga` lie in one block of an own stack (R276, R315). -/
def State.ownBlock (s : State) (ga n : Nat) : Bool :=
  gaSpace ga == 0 && gaPlace ga == s.place && s.placeOk s.place && decide (gaLocal ga < 0x18000000000) && decide (1 ≤ n) &&
    decide (gaLocal ga % 256 + n ≤ 256)

/-- The home's queue admits an access of an agent, and nothing is held before it (R350, R490, R491, R493). -/
def State.homeLets (s : State) (who : Agent) (ga n : Nat) (write : Bool) : Bool :=
  s.partLets (s.agentSecure who) (gaLocal ga) n && s.rightsLet (s.agentChan who) (gaLocal ga) n write &&
    s.fabric.held.isEmpty

/-- Stack `k` answers: both of its domains are ON, no image is open and no upset waits (R286, R293, R497). -/
def State.stackCalm (s : State) (k : Nat) : Bool :=
  s.domOn (domM k) && s.domOn (domC k) && !s.memOpen k && (s.stack k).upsets.isEmpty

/-! ### Control cores -/

/-- The core executes system instruction `w` of function `fn`, whose unused register fields are zero (R217). -/
def State.sysNow (s : State) (c : Nat) (w : Word) (fn : Nat) (useA useB : Bool) : Bool :=
  s.coreReady c && bitsOf w.toNat 31 26 == 0x3E && sysKnown fn && sysFn w == fn && (useA || sysA w == 0) && (useB || sysB w == 0)

/-- The core executes vector instruction `w` of a major opcode and function, which is not ILLEGAL (R229). -/
def State.lvNow (s : State) (c : Nat) (w : Word) (major fn : Nat) (bad : Bool) : Bool :=
  s.coreReady c && lvMajor w == major && lvFn w == fn && !bad

/-- The elementwise instructions of vector arithmetic with one result an element, and their functions (R242). -/
def lvElementCommands : List ((Fin 128 → Word → Instr) × Nat) :=
  [(.vadd, 0x00), (.vsub, 0x01), (.vmul, 0x02), (.vdiv, 0x03), (.vsqrt, 0x04), (.vmin, 0x05), (.vmax, 0x06), (.vsel, 0x07),
   (.vfma, 0x08), (.vfms, 0x09), (.vneg, 0x0A), (.vcmul, 0x10), (.vcmulc, 0x11), (.vcmula, 0x12), (.viadd, 0x20),
   (.visub, 0x21), (.vimul, 0x22), (.vand, 0x23), (.vor, 0x24), (.vxor, 0x25), (.vsll, 0x26), (.vsra, 0x27),
   (.vfcvtI, 0x28), (.vicvtF, 0x29), (.vsplat, 0x3C)]

/-- The width-changing conversions, the compares and the reductions with their functions (R232, R234, R242). -/
def lvConvCommands : List ((Fin 128 → Word → Instr) × Nat) := [(.vwcvt, 0x2A), (.vncvt, 0x2B)]
def lvCompCommands : List ((Fin 128 → Word → Instr) × Nat) := [(.vcmpeq, 0x18), (.vcmplt, 0x19), (.vcmple, 0x1A)]
def lvRedCommands : List ((Fin 128 → Word → Instr) × Nat) := [(.vrsum, 0x30), (.vrmax, 0x31), (.vrmin, 0x32)]

/-- Register `r` as it reads after a write of `v`: g0 stays zero (R202). -/
def gAfter (r : Nat) (v : Word64) : Word64 := if r = 0 then 0 else v

/-- A value as `lvBytes` bytes keep it. -/
def lvKept (w32 : Bool) (v : Nat) : Nat := v % 2 ^ (8 * lvBytes w32)

/-! ### Registers -/

/-- Register row `r` after a write of `v` over `old`: RW bits take the new value, RWS and RWL bits only while the owner does
not run, and a 1 clears a W1C bit (R6). -/
def codedValue (r : RegDesc) (runs : Bool) (old v : Word) : Word :=
  let now := BitVec.ofNat 32 (if runs then r.rw else r.rw + r.rws + r.rwl)
  ((old &&& ~~~now) ||| (v &&& now)) &&& ~~~(v &&& BitVec.ofNat 32 r.w1c)

/-- Blocks whose registers do nothing beyond their access codes when a core writes them. -/
def plainBlock (b : Blk) : Bool := b == .mem || b == .tve || b == .hst || b == .glp || b == .mgt

/-! ### Collectives -/

/-- The commands by which a member enters a call, with the OP of their record (R375). -/
def collCommands : List ((Fin 14 → Word64 → Instr) × Nat) :=
  [(.collBarrier, 1), (.collScalar, 2), (.collBcast, 4), (.collReduce, 5), (.collAllreduce, 6)]

/-! ### Commands -/

/-- The package controller runs the command itself, in time, and no record of the same command is open (R18, R410). -/
def State.runsHere (s : State) (h : CmdHdr) (op : Nat) : Bool :=
  !h.member && !s.forwards h && (h.launch == 0 || decide (s.now ≤ h.launch.toNat + 1)) && (s.cmdRec h op).isNone

/-- The command's channel got one final reply: header with the command's opcode, sequence, TARGET, completion grain and
status, then the parameters; the controller holds no record of the command (R18, R456). -/
def State.replied (s u : State) (h : CmdHdr) (op st : Nat) (ps : List Word64) : Prop :=
  (u.chan h.chan).rspQ = (s.chan h.chan).rspQ ++
    (pairWords (cmdHead op flagREPLY h.seq h.target ps.length h.chan s.now st) ++ ps) ∧
  (u.chan h.chan).replies = (s.chan h.chan).replies ++ [(4 + ps.length, h.seq, true)] ∧ u.pkc.forwards = s.pkc.forwards

/-- The command names one die, which is ON (R497) and which another channel does not own (R472, R492). -/
def State.onDie (s : State) (h : CmdHdr) (d : Nat) : Bool :=
  unitLevel h.target.toNat == 1 && unitDie h.target.toNat == d && !s.excluded h d && s.dieOn d

end Sys2Proof.Machine
end

