-- ==== Sys2Proof/Certificates/Slice0/Obligations.lean ====
section
/-! DEFINITION. The statements about the model, for the provers. -/

open Sys2Proof Sys2Proof.Machine

/-! ### The queue, reset and what every command keeps -/

/-- A step takes the command at the front of the queue and runs it on the state with the queue's rest (log entry 1). -/
def Obligations.StepRunsTheFrontCommand : Prop :=
  ∀ (c : Instr) (q : List Instr) (s : State), s.pending = c :: q → step s = exec c { s with pending := q }

/-- On an empty queue a step lets one grain pass (log entry 1): where no die runs or clears and no core's write buffer holds a
line, the timebase counter rises by one, memory and tags stay as they are, and the clock period of each die comes down by at most 16 units toward what its demands
require; where the clocks stand still, every register keeps its value (R396, R401). -/
def Obligations.IdleStepPassesOneGrain : Prop :=
  ∀ s : State,
    let idle := (∀ d, d < 12 → s.dieRuns d = false ∧ (s.die d).clear = none) ∧ ∀ e ∈ s.cores, e.2.wbuf = []
    s.pending = [] → (s.clocksRun = false ∨ idle) →
      ∃ t, step s = .next t ∧ t.now = s.now + 1 ∧ t.mem = s.mem ∧ t.tags = s.tags ∧ t.pending = [] ∧
        (s.clocksRun = false → t.regs = s.regs) ∧
        (s.clocksRun = true → ∀ d, d < 14 → t.clockNow d =
          if s.clockTarget d < s.clockNow d then max (s.clockTarget d) (s.clockNow d - 16) else s.clockNow d)

/-- The state after reset has an empty queue and is canonical; every register reads as its Reset column says. -/
def Obligations.ResetStateIsCanonical : Prop :=
  State.reset.pending = [] ∧ State.reset.canon = true ∧ (∀ a, State.reset.reg a = resetWord a) ∧
    ∀ a, readByte State.reset.mem a = 0

/-- Every command of the table answers a next state in every state, and no command touches the queue of the commands that
wait behind it. -/
def Obligations.EveryCommandLeavesTheQueue : Prop :=
  ∀ (i : Instr) (s : State), ∃ t, exec i s = .next t ∧ t.pending = s.pending

/-- Every step keeps memory, registers and slot tags in canonical form, so that equal contents stay equal data. -/
def Obligations.EveryStepKeepsCanonicalForm : Prop :=
  ∀ s t : State, s.canon = true → step s = .next t → t.canon = true

/-- A run from a state with a canonical memory goes on for as long as one likes: no command and no idle step ends it, and
every state it comes to is canonical. -/
def Obligations.RunsGoOnInCanonicalStates : Prop :=
  ∀ s : State, s.canon = true → ∀ n, ∃ t, runFor n s = some t ∧ t.canon = true

/-! ### Tiles: micro-instructions (R112-R116) -/

/-- NOP, END, IDLE, LOOP and BRL issue: the tile moves past the instruction with its route entry, END ends its issue with
entry 0 from the next cycle on, IDLE lets its count of cycles pass, LOOP loads a counter, BRL counts down and branches while
the counter is not 0; the whole state but that tile stays as it is. -/
def Obligations.ControlInstructionsMoveTheTile : Prop :=
  ∀ (s : State) (d : Fin 12) (t : Fin 768) (w : BitVec 128),
    let x := s.tile d t
    let y := x.past w
    let ctr := bitsOf (microA w) 31 29
    (s.issuesNow d t w 0x00 = true → exec (.nop d t w) s = .next (s.setTile d t y)) ∧
    (s.issuesNow d t w 0x01 = true →
      exec (.endStep d t w) s = .next (s.setTile d t { y with ended := true, hist := noteRoute y.cycle 0 y.hist })) ∧
    (s.issuesNow d t w 0x02 = true →
      exec (.idle d t w) s = .next (s.setTile d t { y with cycle := x.cycle + 1 + bitsOf (microA w) 15 0 })) ∧
    (s.issuesNow d t w 0x03 = true →
      exec (.loop d t w) s = .next (s.setTile d t { y with loops := mapSet 0 x.loops ctr (microB w) })) ∧
    (s.issuesNow d t w 0x04 = true →
      exec (.brl d t w) s = .next (s.setTile d t
        (if mapGet 0 x.loops ctr = 0 then y
         else { y with loops := mapSet 0 x.loops ctr (mapGet 0 x.loops ctr - 1), pc := bitsOf (microA w) 9 0 })))

/-- MMA, VEC, SEND and RECV start their engines in the cycle after the issue: the matrix operation with the descriptor of its
register, bank and INIT of the word and nothing done yet, the vector program with its issue number and TVE_STATUS showing it,
the streams with their slots; no byte and no tag changes yet. -/
def Obligations.EnginesAndStreamsStartAtTheIssue : Prop :=
  ∀ (s : State) (d : Fin 12) (t : Fin 768) (w : BitVec 128),
    let x := s.tile d t
    let p := bitsOf (microA w) 31 24
    let st : Stream := ⟨bitsOf (microA w) 31 19, bitsOf (microA w) 18 6, microTagop w, x.cycle + 1, 0⟩
    (s.issuesNow d t w 0x10 = true → ∃ m : MmaRun,
      exec (.mma d t w) s = .next (s.setTile d t { x.past w with mma := some m }) ∧
      m.desc = s.mmaWords d t (bitsOf (microA w) 31 24) ∧ m.bank = bitsOf (microA w) 23 23 ∧ m.init = bitOf (microA w) 22 ∧
      m.cycle = x.cycle + 1 ∧ m.tagop = microTagop w ∧ m.rows = [] ∧ m.entered = 0 ∧ m.upto = 0) ∧
    (s.issuesNow d t w 0x20 = true → ∃ (u : State) (r : VecRun),
      exec (.vec d t w) s = .next u ∧
      u.tile d t = { x.past w with vec := some r, issues := mapPut x.issues p (mapGet 0 x.issues p + 1) } ∧
      r.prog = p ∧ r.k = mapGet 0 x.issues p ∧ r.slotOfs = bitsOf (microB w) 31 19 ∧ r.indexOfs = microC w ∧
      r.next = 0 ∧ r.s0 = x.cycle + 1 ∧ r.tagop = microTagop w ∧
      u.reg (tveB d t + TVE_STATUS.off) = BitVec.ofNat 32 (p * 2 ^ 24 + min (mapGet 0 x.issues p) 0xFFFF * 256 + 1) ∧
      (∀ a, a ≠ tveB d t + TVE_STATUS.off → u.reg a = s.reg a) ∧ u.mem = s.mem ∧ u.tags = s.tags ∧ u.dies = s.dies) ∧
    (s.issuesNow d t w 0x30 = true → ∃ u, exec (.send d t w) s = .next u ∧ u.tile d t = { x.past w with snd := [st] } ∧
      u.mem = s.mem ∧ u.tags = s.tags ∧ u.regs = s.regs ∧ u.stackMap = s.stackMap) ∧
    (s.issuesNow d t w 0x31 = true → ∃ u, exec (.recv d t w) s = .next u ∧ u.tile d t = { x.past w with rcv := [st] } ∧
      u.mem = s.mem ∧ u.tags = s.tags ∧ u.regs = s.regs ∧ u.stackMap = s.stackMap)

/-- TAGS sets the tags of its range of slots, each of them and no other, and moves no byte (R114). -/
def Obligations.TagsSetsTheTagsOfItsRange : Prop :=
  ∀ (s : State) (d : Fin 12) (t : Fin 768) (w : BitVec 128), s.issuesNow d t w 0x3C = true →
    let first := s.phys d (bitsOf (microA w) 31 19)
    let count := bitsOf (microA w) 18 6
    first + count ≤ 5120 → ∃ u, exec (.tags d t w) s = .next u ∧ u.tile d t = (s.tile d t).past w ∧
      (∀ p, first ≤ p → p < first + count → u.tag d t p = if bitsOf (microA w) 1 0 = 1 then .full else .empty) ∧
      (∀ e k p, k < 768 → p < 5120 → (e ≠ d.val ∨ k ≠ t.val ∨ p < first ∨ first + count ≤ p) → u.tag e k p = s.tag e k p) ∧
      u.mem = s.mem ∧ u.regs = s.regs

/-- The engines of a tile become free when their work is over: the program that has executed all its instructions, the cycle of
its last write gone by, the
matrix operation whose rows have landed and whose cycles have gone by, the streams whose words have gone or come. -/
def Obligations.EnginesBecomeFree : Prop :=
  ∀ (s : State) (d : Fin 12) (t : Fin 768), s.dieState d = dsRUNNING → s.streamsOver d = true →
    let x := s.tile d t
    (∀ r, x.mma = none → x.vec = some r → (s.vecProg d t r.prog).instrs.length ≤ r.next →
      0 < s.reached d → (∀ v ∈ r.sched, r.s0 + v.last < s.reached d) →
      ∃ u, exec (.vecProgramComplete d t) s = .next u ∧ u.tile d t = { x with vec := none } ∧
        u.flag (tveB d t) TVE_STATUS.RUNNING = false ∧ u.mem = s.mem ∧ u.tags = s.tags) ∧
    (∀ m, x.mma = some m → m.rows = [] → m.tagop ≠ 1 → m.pos.done (mmaDesc m.desc) = true →
      m.upto = (mmaDesc m.desc).passes * (mmaDesc m.desc).m →
      m.cycle + latencyOf (mmaDesc m.desc).fmt (mmaDesc m.desc).step ≤ s.reached d →
      ∃ u, exec (.mmaComplete d t) s = .next u ∧ u.tile d t = { x with mma := none } ∧
        u.mem = s.mem ∧ u.tags = s.tags ∧ u.regs = s.regs) ∧
    (∀ st rest, x.mma = none → x.snd = st :: rest →
      ∃ u, exec (.sendComplete d t) s = .next u ∧ u.tile d t = { x with snd := rest } ∧
        u.mem = s.mem ∧ u.tags = s.tags ∧ u.regs = s.regs) ∧
    (∀ st rest, x.rcv = st :: rest → ∃ u, exec (.recvComplete d t) s = .next u ∧ u.tile d t = { x with rcv := rest } ∧
      u.mem = s.mem ∧ u.tags = s.tags ∧ u.regs = s.regs)

/-! ### Tags, holds and arrivals (R92-R95, R104, R159-R162, R168-R177) -/

/-- Tag waits. A SEND whose tags count and whose slots are not all allowed holds the die: nothing is issued, the waits and the
grain are kept, DSQ_STATUS shows HELD. A hold whose tags all allow their accesses ends: issue goes on, and one tag wait and the
cycles of the hold are counted. A hold longer than a LIMIT that is not 0 aborts the die: it stands in STOPPED with WAIT_TIMEOUT
set. Neither bytes nor tags move (R92, R95, R104). -/
def Obligations.TagWaitsHoldTheDie : Prop :=
  ∀ (s : State) (d : Fin 12),
    (∀ (t : Fin 768) (w : BitVec 128), s.dieCalm d = true → s.atMicro d t w 0x30 = true → (s.tile d t).mma = none →
      (s.die d).hold = none →
      let ws := s.tagWaits d t w (s.physRange d (bitsOf (microA w) 31 19) (bitsOf (microA w) 18 6)) []
      ws ≠ [] → ∃ u h, exec (.send d t w) s = .next u ∧ u.dieState d = dsHELD ∧ (u.die d).hold = some h ∧ h.waits = ws ∧
        h.since = s.now ∧ u.tiles = s.tiles ∧ u.mem = s.mem ∧ u.tags = s.tags) ∧
    (∀ h : HoldX, (s.die d).hold = some h →
      (h.waits.all (s.waitMet d) = true → (s.die d).upsets = [] → s.foundAt d h < (s.die d).wall + s.grainCycles d →
        ∃ u, exec (.tagWaitRelease d) s = .next u ∧ u.dieState d = dsRUNNING ∧ (u.die d).hold = none ∧
          (u.die d).holds = (h.cycle, s.foundAt d h + 2 - h.wall) :: (s.die d).holds ∧
          u.fld (dsqB d) DSQ_TAGWAIT_COUNT.WAITS =
            min (s.fld (dsqB d) DSQ_TAGWAIT_COUNT.WAITS + 1) (2 ^ 32 - 1) ∧
          u.fld (dsqB d) DSQ_HOLD_CYCLES.HOLD =
            min (s.fld (dsqB d) DSQ_HOLD_CYCLES.HOLD + (s.foundAt d h + 2 - h.wall)) (2 ^ 32 - 1) ∧
          u.mem = s.mem ∧ u.tags = s.tags ∧ u.tiles = s.tiles) ∧
      (let limit := s.fld (dsqB d) DSQ_TAGWAIT_LIMIT.LIMIT
       s.dieState d = dsHELD → limit ≠ 0 → h.since + limit < s.now → (∀ e ∈ s.shadow, e.1 ≠ dsqB d + DSQ_EVENTS.off) →
       ∃ u, exec (.tagWaitTimeout d) s = .next u ∧ u.dieState d = dsSTOPPED ∧
         u.flag (dsqB d) DSQ_EVENTS.WAIT_TIMEOUT = true ∧ (u.die d).hold = none ∧ u.mem = s.mem ∧ u.tags = s.tags))

/-- Bytes that arrive in a slot of a scratch die that is ON, from outside or over a static route into the region of a task of the
same job: the bytes stand there, every other byte of memory stays, and the slot's tag follows R159 and R160 while every other tag
stays. -/
def Obligations.ArrivalsFillTheirSlot : Prop :=
  ∀ (s : State) (d : Fin 12) (t : Fin 768) (slot : Fin 5120) (data : List Byte), (s.die d).upsets = [] →
    (∀ g, (s.die d).sCut.mem g = false) →
    (∀ (ofs : Fin 256) (fill : Bool), ofs + data.length ≤ 256 → (fill = true → s.tag d t slot ≠ .full) →
      s.domOn (domS d) = true → ∃ u, exec (.scratchArrival d t slot ofs data fill false) s = .next u ∧
        u.mem = writeBytes s.mem (slotAddr d t slot + ofs) data ∧
        u.tag d t slot = tagAfter (s.tag d t slot) (ofs.val == 0 && data.length == 256) fill ∧
        (∀ e k p, k < 768 → p < 5120 → (e ≠ d.val ∨ k ≠ t.val ∨ p ≠ slot.val) → u.tag e k p = s.tag e k p) ∧
        u.regs = s.regs) ∧
    (∀ (src : Fin 12) (lane : Nat), data.length = 256 → s.routeLane src d data = some lane →
      s.jobOf src = s.jobOf d → slot.val < (s.die d).bound →
      (s.die d).base + slot.val < 5120 → s.domOn (domS d) = true → s.tag d t ((s.die d).base + slot) ≠ .full →
      ∃ u, exec (.staticRouteArrival src d t slot data) s = .next u ∧
        u.mem = writeBytes s.mem (slotAddr d t ((s.die d).base + slot)) data ∧
        u.tag d t ((s.die d).base + slot) = .full ∧ u.regs = s.regs)

/-- An access through the scratch window. A read that R158 and R169 admit changes nothing. A write that they admit puts its bytes
in their place, every other byte stays, and the slot's tag follows R159 and R160 (POISON where the bytes are poisoned) while
every other tag stays. An access beyond the slots, an atomic, one to a scratch die that is not ON, and one that no region of
its job admits are dropped with their count (R158, R168, R171). -/
def Obligations.WindowAccessesAreAdmittedOrDropped : Prop :=
  ∀ (s : State) (d : Fin 12) (off : Nat) (job : Word) (place : Nat), (s.die d).upsets = [] →
    (∀ g, (s.die d).sCut.mem g = false) →
    let t := off / 0x140000
    let p := off % 0x140000 / 0x100
    let ofs := off % 0x100
    (off < 0x3C000000 → s.domOn (domS d) = true → s.slotAdmits d p job.toNat = true →
      (∀ n, ofs + n ≤ 256 → exec (.scratchWindowAccess d ⟨off, .read n, job, place⟩) s = .next s) ∧
      (∀ (data : List Byte) (fill poison : Bool), ofs + data.length ≤ 256 → (fill = true → s.tag d t p ≠ .full) →
        ∃ u, exec (.scratchWindowAccess d ⟨off, .write data fill poison, job, place⟩) s = .next u ∧
          u.mem = writeBytes s.mem (slotAddr d t p + ofs) data ∧
          u.tag d t p = (if poison then .poison else tagAfter (s.tag d t p) (ofs == 0 && data.length == 256) fill) ∧
          (∀ e k q, k < 768 → q < 5120 → (e ≠ d.val ∨ k ≠ t ∨ q ≠ p) → u.tag e k q = s.tag e k q) ∧ u.regs = s.regs)) ∧
    (∀ op : WindowOp, (0x3C000000 ≤ off ∨ op = .atomic ∨ s.domOn (domS d) = false ∨ s.slotAdmits d p job.toNat = false) →
      ∃ u, exec (.scratchWindowAccess d ⟨off, op, job, place⟩) s = .next u ∧
        u.flag (scrB d) SCR_EVENTS.DROPPED = true ∧
        u.fld (scrB d) SCR_DROP_COUNT.COUNT = min (s.fld (scrB d) SCR_DROP_COUNT.COUNT + 1) (2 ^ 32 - 1) ∧
        u.mem = s.mem ∧ u.tags = s.tags)

/-- SCR_CLEAR.GO starts a clear of its range and moves no byte; the clear is over when all its slots are done, and before that
SCR_CLEAR_DONE leaves the state as it is (R173).

A clear zeroes one slot of every tile in each cycle of its die, four in a grain at the nominal clock: the slots done in the
grain hold zero and EMPTY in every tile, and every other byte and tag stays (R173). Stated for a step on an empty queue in
which no die runs and no other die clears. -/
def Obligations.ScratchClearZeroesItsRange : Prop :=
  (∀ (s : State) (d : Fin 12),
     (∀ v : Word, (s.die d).clear = none → s.dieRuns d = false → bitOf v.toNat 0 = true →
       ∃ u, exec (.scrClearGo d v) s = .next u ∧
         (u.die d).clear = some { clearRange (bitsOf v.toNat 31 19) (bitsOf v.toNat 18 6) with go := (s.die d).wall } ∧
         u.fld (scrB d) SCR_CLEAR.FIRST_SLOT = bitsOf v.toNat 31 19 ∧
         u.fld (scrB d) SCR_CLEAR.SLOT_COUNT = bitsOf v.toNat 18 6 ∧ u.mem = s.mem ∧ u.tags = s.tags) ∧
     (∀ c : ClearX, (s.die d).clear = some c → c.count ≤ c.did → c.rest = [] → c.task = .none →
       ∃ u, exec (.scrClearDone d) s = .next u ∧ (u.die d).clear = none ∧ u.mem = s.mem ∧ u.tags = s.tags ∧
         u.regs = s.regs) ∧
     (∀ c : ClearX, (s.die d).clear = some c → c.did < c.count → exec (.scrClearDone d) s = .next s)) ∧
  (∀ (s : State) (d : Fin 12) (c : ClearX), s.pending = [] → s.clocksRun = true →
     (∀ e, e < 12 → s.dieRuns e = false ∧ (e ≠ d.val → (s.die e).clear = none)) →
     (∀ e, e < 14 → s.clockTarget e ≤ 0x1000 ∧ s.clockNow e = 0x1000) →
     (∀ e ∈ s.cores, e.2.wbuf = []) → (∀ g, (s.die d).sCut.mem g = false) → (s.die d).frac = 0 →
     (s.die d).clear = some c → c.go + 1 + c.did = (s.die d).wall → c.did ≤ c.count → c.first + c.count ≤ 5120 →
     let upto := min c.count (c.did + 4)
     ∃ u, step s = .next u ∧ (u.die d).clear = some { c with did := upto } ∧
       (∀ t p b, t < 768 → c.first + c.did ≤ p → p < c.first + upto → b < 256 →
         readByte u.mem (slotAddr d t p + b) = 0 ∧ u.tag d t p = .empty) ∧
       (∀ t p b, t < 768 → p < 5120 → (p < c.first + c.did ∨ c.first + upto ≤ p) → b < 256 →
         readByte u.mem (slotAddr d t p + b) = readByte s.mem (slotAddr d t p + b) ∧ u.tag d t p = s.tag d t p) ∧
       ∀ a, a < slotAddr d 0 0 ∨ slotAddr d 768 0 ≤ a → readByte u.mem a = readByte s.mem a)

/-! ### The die sequencer (R29, R98-R102, R116, R124, R129, R195) -/

/-- ARM takes the lowest-numbered runnable task into a STOPPED die whose start grain is 0 or whose timebase runs: its slot
becomes ACTIVE, its scratch region is loaded, and the die waits in ARMED, or, where its start grain is 0 or has passed, runs at
once, in the latter case with LATE_START set (R98, R99); memory stays. In any other state, or with no
runnable task, ARM leaves the die as it is and BUSY is logged (R129). -/
def Obligations.ArmTakesTheLowestRunnableTask : Prop :=
  ∀ (s : State) (d : Fin 12),
    (∀ n, s.dieState d = dsSTOPPED → s.dieLoading d = false → s.domOn (domC d) = true →
      (s.reg64 (dsqB d + DSQ_START_GRAIN_LO.off) = 0 ∨ 2 ≤ s.fld tbB TB_STATUS.STATE) →
      (List.range 16).find? (s.runnable d) = some n →
      let start := s.reg64 (dsqB d + DSQ_START_GRAIN_LO.off)
      ∃ u, exec (.arm d) s = .next u ∧
        u.dieState d = (if start = 0 ∨ start < s.now then dsRUNNING else dsARMED) ∧
        (0 < start → start < s.now → u.flag (dsqB d) DSQ_EVENTS.LATE_START = true) ∧ u.taskOf d = n ∧ u.slotOf d = s.tsk d n TSK_CFG.SLOT ∧
        u.slotState d (s.tsk d n TSK_CFG.SLOT) = slACTIVE ∧ (u.die d).base = s.fld (scrB d + 4 * n) SCR_TASK.BASE ∧
        (u.die d).bound = s.fld (scrB d + 4 * n) SCR_TASK.BOUND ∧ (u.die d).stopPending = false ∧ u.mem = s.mem) ∧
    ((s.dieState d ≠ dsSTOPPED ∨ (List.range 16).find? (s.runnable d) = none) → ∃ u, exec (.arm d) s = .next u ∧
      u.dies = s.dies ∧ u.mem = s.mem ∧ u.tags = s.tags ∧ u.dieState d = s.dieState d ∧
      (s.jrn.buf.length < jrnCap → ∃ e es, u.jrn.buf = e :: es ∧ e.status = stBUSY ∧ e.unit = s.dieUnit d))

/-- STOP waits for the next step cut and touches nothing else; it does nothing to a die in STOPPED (R101). ABORT stops issue at
once: the die stands in STOPPED with the event set, no byte and no tag moves, and the banks keep what they hold (R102). -/
def Obligations.StopWaitsForTheCutAndAbortDoesNot : Prop :=
  ∀ (s : State) (d : Fin 12),
    (s.dieState d ≠ dsSTOPPED → s.dieState d ≠ dsLOADING →
      exec (.stop d) s = .next (s.modDie d fun x => { x with stopPending := true })) ∧
    (s.dieState d = dsSTOPPED → exec (.stop d) s = .next s) ∧
    ((s.die d).hold = none → s.dieState d = dsSTOPPED → exec (.abort d) s = .next s) ∧
    (s.dieState d ≠ dsSTOPPED → s.dieState d ≠ dsLOADING →
      ∃ u, exec (.abort d) s = .next u ∧ u.dieState d = dsSTOPPED ∧ u.flag (dsqB d) DSQ_EVENTS.STOPPED = true ∧
        (u.die d).flights = [] ∧ (u.die d).stopPending = false ∧ u.mem = s.mem ∧ u.tags = s.tags ∧
        (∀ t, (u.tile d t).banks = (s.tile d t).banks))

/-- A step's two ends. An ARMED die whose start grain has come begins its first step at issue cycle 0, and its first cut is
planned one PERIOD after its start grain; memory and tags stay (R98, R100). A
RUNNING die whose tiles have all ended, with nothing left in its engines, enters AT_END and sets MOULD_END; where the step does
not vote nothing more happens (R116). -/
def Obligations.StepsStartAndEnd : Prop :=
  ∀ (s : State) (d : Fin 12),
    (let start := s.reg64 (dsqB d + DSQ_START_GRAIN_LO.off)
     let period := s.fld (dsqB d) DSQ_CUT_PERIOD.PERIOD
     s.dieState d = dsARMED → start ≤ s.now → s.launchesFirst d = false → start + period < 2 ^ 64 →
     ∃ u, exec (.dieStart d) s = .next u ∧ u.dieState d = dsRUNNING ∧ u.reg64 (dsqB d + DSQ_STEP_CYCLES_LO.off) = 0 ∧
       u.reg64 (dsqB d + DSQ_NEXT_CUT_LO.off) = (if period = 0 then 0 else start + period) ∧
       u.flag (dsqB d) TNM_STATUS.STEP_OVF = false ∧ (u.die d).switching = none ∧ u.mem = s.mem ∧ u.tags = s.tags) ∧
    (s.dieState d = dsRUNNING → (s.die d).switching = none → s.allEnded d = true →
      s.flag (tnmB d (s.slotOf d)) TNM_SLOT.ENABLE = false → (s.die d).refired = false →
      ∃ u, exec (.dieAtEnd d) s = .next u ∧ u.dieState d = dsAT_END ∧ u.flag (dsqB d) DSQ_EVENTS.MOULD_END = true ∧
        (u.die d).endAt = s.now + 1 ∧ u.mem = s.mem ∧ u.tags = s.tags ∧ u.tiles = s.tiles)

/-- The replay of a step: at its grain a die in AT_END goes on in the NEXT slot of its ladder, counts the refire and shows
one rung more (R195, R199). The switch time over, issue begins and the step overflow latch is 0 (R125, R190). -/
def Obligations.RefireReplaysInTheNextSlot : Prop :=
  ∀ (s : State) (d : Fin 12) (g : Nat),
    (s.dieState d = dsAT_END → (s.die d).refireAt = some g → g ≤ s.now →
      ∃ u, exec (.refireSwitch d) s = .next u ∧ u.dieState d = dsRUNNING ∧
        u.slotOf d = s.fld (tnmB d (s.slotOf d)) TNM_SLOT.NEXT ∧ (u.die d).refired = true ∧ (u.die d).refireAt = none ∧
        u.flag (dsqB d) TNM_EVENTS.REFIRE = true ∧
        u.fld (dsqB d) TNM_REFIRE_COUNT.COUNT = min (s.fld (dsqB d) TNM_REFIRE_COUNT.COUNT + 1) (2 ^ 32 - 1) ∧
        u.fld (dsqB d) TNM_STATUS.RUNG = (s.fld (dsqB d) TNM_STATUS.RUNG + 1) % 4 ∧
        u.taskOf d = s.taskOf d ∧ u.mem = s.mem) ∧
    ((s.die d).switching = some g →
      (s.zeroDue d = true → ∃ u, exec (.switchStepStart d) s = .next u ∧ (u.die d).switching = none ∧
        u.flag (dsqB d) TNM_STATUS.STEP_OVF = false ∧ (u.die d).wall0 = max (s.die d).wall0 (s.die d).wall ∧
        u.mem = s.mem ∧ u.tags = s.tags) ∧
      (s.zeroDue d = false → exec (.switchStepStart d) s = .next s))

/-- A step cut that may be taken: the task's count of steps rises by one, CUT_TAKEN is set, the rung is 0 again, and the die
goes on RUNNING or, with a pending stop, stands in STOPPED; memory stays (R29, R101). Stated for a die with no pending shadow
value and no waiting counter read, whose task is not the one of STR_CTRL.

A step cut that may be taken completes: CUT_TAKEN is set, COUNT of the step's drift is 0, the rung is 0, the closing calls
of the step are over, and the die goes on RUNNING or, where a stop is pending, stands in STOPPED; memory stays (R29-R32, R100,
R101). What it means for the strata of jobs is said elsewhere, so the die's task is not the one of STR_CTRL, or no job has
strata. -/
def Obligations.StepCutCountsTheStep : Prop :=
  (∀ (s : State) (d : Fin 12), s.cutReady d = true → s.shadow = [] → (s.die d).atCut = [] →
     s.strTask d = false →
     ∃ u, exec (.stepCut d) s = .next u ∧
       u.tsk d (s.taskOf d) TSK_STEPS.STEPS = (s.tsk d (s.taskOf d) TSK_STEPS.STEPS + 1) % 2 ^ 32 ∧
       u.flag (dsqB d) DSQ_EVENTS.CUT_TAKEN = true ∧ u.fld (dsqB d) TNM_STATUS.RUNG = 0 ∧
       (u.dieState d = dsRUNNING ∨ u.dieState d = dsSTOPPED) ∧
       ((s.die d).stopPending = true → u.dieState d = dsSTOPPED) ∧ u.mem = s.mem) ∧
  (∀ (s : State) (d : Fin 12), s.cutReady d = true → (s.die d).atCut = [] → (s.strata = [] ∨ s.strTask d = false) →
     ∃ u, exec (.stepCut d) s = .next u ∧ u.flag (dsqB d) DSQ_EVENTS.CUT_TAKEN = true ∧
       u.fld (drfB d) DRF_STEP.COUNT = 0 ∧ u.fld (dsqB d) TNM_STATUS.RUNG = 0 ∧ (u.die d).closing = ⟨0, 0, 0, 0⟩ ∧
       (u.die d).refired = false ∧ (u.dieState d = dsRUNNING ∨ u.dieState d = dsSTOPPED) ∧
       ((s.die d).stopPending = true → u.dieState d = dsSTOPPED) ∧ u.mem = s.mem)

/-! ### Vector instructions (R133-R156) -/

/-- Every vector instruction that is next in its program executes: the program comes to the instruction after it, the tile's
place in its micro-program stays, and of memory only the bytes of a stream destination change. -/
def Obligations.VectorInstructionsAdvanceTheirProgram : Prop :=
  ∀ (s : State) (d : Fin 12) (t : Fin 768) (w : BitVec 64) (r : VecRun) (loc : List (List Byte)),
    ∀ e ∈ elementCommands ++ otherVecCommands, s.vecNext d t w e.2 r loc = true → (∀ g, (s.die d).sCut.mem g = false) →
      let at_ := s.storesAt d t r (vInstr w.toNat)
      ∃ u fs, exec (e.1 d t w) s = .next u ∧ (u.tile d t).vec = some { r with next := r.next + 1, flags := fs } ∧
        (u.tile d t).pc = (s.tile d t).pc ∧ (u.tile d t).cycle = (s.tile d t).cycle ∧ u.stackMap = s.stackMap ∧
        ∀ a, (a < at_.1 ∨ at_.1 + at_.2 ≤ a) → readByte u.mem a = readByte s.mem a

/-- The elementwise instructions compute each element of the destination from the elements of their operands at the same
position, whatever locations the operands have; a vector buffer holds the results packed from its first byte on, and a
stream destination holds them in memory (R133, R137, R138). A byte that an earlier instruction of the program writes later keeps
that instruction's value (R141). -/
def Obligations.ElementwiseInstructionsComputeEachElement : Prop :=
  ∀ (s : State) (d : Fin 12) (t : Fin 768) (w : BitVec 64) (r : VecRun) (loc : List (List Byte)),
    ∀ e ∈ elementCommands, s.vecNext d t w e.2 r loc = true → (∀ g, (s.die d).sCut.mem g = false) →
      let i := vInstr w.toNat
      let f := computeFmt i.code
      let a := s.operand d t r i loc i.src1
      let b := if usesSrc2 i.vop then s.operand d t r i loc i.src2 else a.map fun _ => 0
      let c := if usesDst i.vop then s.operand d t r i loc i.dst else a.map fun _ => 0
      let rs := (List.range i.len).map fun j => (vElemOp i.vop f i.mode (nthD 0 c j) (nthD 0 a j) (nthD 0 b j)).1
      let p := s.vecProg d t r.prog
      let at_ := (p.stream i.dst).at_ r
      ∃ u, exec (e.1 d t w) s = .next u ∧
        ∀ j, j < packedLen f i.len →
          (i.dst < 4 → r.overtaken p i.dst j (r.outCycle i f.width j) = false →
            ((u.tile d t).bytes i.dst 0 (packedLen f i.len))[j]? = (packElems f 0 rs)[j]?) ∧
          (8 ≤ i.dst → r.overtaken p 8 (at_ + j) (r.outCycle i f.width j) = false →
            (u.taskBytes d t at_ (packedLen f i.len))[j]? = (packElems f 0 rs)[j]?)

/-- CVT without stochastic rounding converts each element to the destination format; BAMAX gives the largest magnitude of each
block of 32 elements (R147, R154). Stated for a vector buffer as the destination, and for the bytes that no earlier instruction
of the program writes later (R141). -/
def Obligations.ConversionsFillTheirBuffer : Prop :=
  ∀ (s : State) (d : Fin 12) (t : Fin 768) (w : BitVec 64) (r : VecRun) (loc : List (List Byte)),
    let i := vInstr w.toNat
    let f := computeFmt i.code
    let a := s.operand d t r i loc i.src1
    i.dst < 4 →
    (s.vecNext d t w 0x20 r loc = true → i.round ≠ 4 →
      (i.top = true → i.dst ≠ 3 ∧ packedLen (i.storeFmt false) i.len ≤ 32768) →
      let g := i.storeFmt false
      ∃ u, exec (.cvt d t w) s = .next u ∧
        ∀ j, j < packedLen g i.len → r.overtaken (s.vecProg d t r.prog) i.dst j (r.outCycle i g.width j) = false →
          ((u.tile d t).bytes i.dst 0 (packedLen g i.len))[j]? =
            (packElems g 0 (a.map fun c => (convert g i.mode i.sat 0 (decode f c)).1))[j]?) ∧
    (s.vecNext d t w 0x21 r loc = true →
      ∃ u, exec (.bamax d t w) s = .next u ∧
        ∀ j, j < 4 * ceilDiv i.len 32 → r.overtaken (s.vecProg d t r.prog) i.dst j (r.outCycle i 32 j) = false →
          ((u.tile d t).bytes i.dst 0 (4 * ceilDiv i.len 32))[j]? =
            (packElems .b32 0 ((chunksOf 32 (i.len + 1) a).map (vBamax f)))[j]?)

/-- The instructions with a scalar result leave it in the scalar register VD and nowhere else in memory: sums in the order of
lanes and the pair tree, extremes, the position of the maximum in the next register, a tracker that is read and cleared, the
tile's flags of the cycles before, eight bytes of a location; STS puts a scalar register into a location (R133, R152-R156).
Where an earlier instruction of the program writes the same register or byte later, that one stands (R141). -/
def Obligations.ScalarResultsGoToTheirRegister : Prop :=
  ∀ (s : State) (d : Fin 12) (t : Fin 768) (w : BitVec 64) (r : VecRun) (loc : List (List Byte)),
    let i := vInstr w.toNat
    let f := computeFmt i.code
    let a := s.operand d t r i loc i.src1
    let x := s.tile d t
    let p := s.vecProg d t r.prog
    let free := fun v => r.scalarOvertaken p v = false
    (s.vecNext d t w 0x28 r loc = true → ∃ u, exec (.rsum d t w) s = .next u ∧
      (free i.vd → (u.tile d t).vs i.vd = (vSum f i.mode a).1 % 2 ^ f.width.max 32) ∧ u.mem = s.mem) ∧
    (s.vecNext d t w 0x29 r loc = true → ∃ u, exec (.rmax d t w) s = .next u ∧
      (free i.vd → (u.tile d t).vs i.vd = vPick f true a % 2 ^ f.width) ∧ u.mem = s.mem) ∧
    (s.vecNext d t w 0x2A r loc = true → ∃ u, exec (.rmin d t w) s = .next u ∧
      (free i.vd → (u.tile d t).vs i.vd = vPick f false a % 2 ^ f.width) ∧ u.mem = s.mem) ∧
    (s.vecNext d t w 0x2B r loc = true → ∃ u, exec (.ramax d t w) s = .next u ∧
      (free i.vd → (u.tile d t).vs i.vd = (vRamax f a).1 % 2 ^ f.width) ∧ u.mem = s.mem) ∧
    (s.vecNext d t w 0x2C r loc = true → ∃ u, exec (.argmax d t w) s = .next u ∧
      (free i.vd → (u.tile d t).vs i.vd = (vArgmax f a).1 % 2 ^ f.width) ∧
      (free ((i.vd + 1) % 8) → (u.tile d t).vs ((i.vd + 1) % 8) = (vArgmax f a).2 % 2 ^ 32) ∧ u.mem = s.mem) ∧
    (s.vecNext d t w 0x30 r loc = true → ∃ u, exec (.amxrd d t w) s = .next u ∧
      (free i.vd → (u.tile d t).vs i.vd = x.amx i.trk % 2 ^ 32) ∧ (u.tile d t).amx i.trk = 0 ∧ u.mem = s.mem) ∧
    (s.vecNext d t w 0x31 r loc = true → ∃ u, exec (.flg d t w) s = .next u ∧
      (free i.vd → (u.tile d t).vs i.vd =
        ((s.flagsDue d t (r.s0 + r.now.s + r.now.l)).readTileFlags d t i.top).1 % 2 ^ 32) ∧ u.mem = s.mem) ∧
    (s.vecNext d t w 0x32 r loc = true → i.src1 < 4 → ∃ u, exec (.lds d t w) s = .next u ∧
      (free i.vd → (u.tile d t).vs i.vd = leNat (x.bytes i.src1 0 8)) ∧ u.mem = s.mem) ∧
    (s.vecNext d t w 0x33 r loc = true → i.dst < 4 → ∃ u, exec (.sts d t w) s = .next u ∧
      (∀ j, j < 8 → r.overtaken p i.dst j (r.outCycle i 64 j) = false →
        ((u.tile d t).bytes i.dst 0 8)[j]? = (toBytes (x.vs i.vsrc) 8)[j]?) ∧ u.mem = s.mem)

/-! ### Requests of tiles and memory stacks (R96, R275-R290, R353-R360) -/

/-- A request of a tile to a block of an own stack becomes outstanding and enters the queue of the block's pseudo-channel; no
byte of memory and no tag changes yet. A WRITE and an ATOMIC carry the bytes of their slot, a COPY those of its source
(R96, R276, R278, R357, R359). -/
def Obligations.TileRequestsReachTheirQueue : Prop :=
  ∀ (s : State) (d : Fin 12) (t : Fin 768) (w : BitVec 128) (x : ReqDesc) (slot : Nat),
    s.issuesNow d t w 0x38 = true → s.reqMicro d t w = some (x, slot) → (s.tile d t).reqs.length < 512 →
    (s.tile d t).waiting = [] → x.accepted true = true → x.counter = false → (x.flag = true → s.earlierWrites (s.fabric.nextReq + 1) = false) →
    s.ownBlock x.target x.len = true →
    s.poisonRead d t (x.reqSource slot) = none →
    let a := gaLocal x.target
    let sent := fun (i : Instr) (op : MemOp) => ∃ (u : State) (r : TileReq) (q : Req), exec i s = .next u ∧
      (u.tile d t).reqs = (s.tile d t).reqs ++ [r] ∧ r.op = x.op ∧ r.left = 1 ∧ r.epoch = (s.tile d t).epoch ∧
      u.waitsAt a = s.waitsAt a ++ [q] ∧ q.addr = a ∧ q.op = op ∧ q.job = s.jobOf d ∧ q.land = .tile d t r.id 0 ∧
      u.mem = s.mem ∧ u.tags = s.tags ∧ u.regs = s.regs
    (x.op = opREAD → s.homeLets (.tile d t) x.target x.len false = true → sent (.reqRead d t w) (.read x.len)) ∧
    (x.op = opWRITE → s.homeLets (.tile d t) x.target x.len true = true →
      sent (.reqWrite d t w) (.write (s.taskBytes d t (slot * 256) x.len))) ∧
    (x.op = opATOMIC →
      s.homeLets (.tile d t) x.target (atomicLen x.aop x.size64 (s.taskBytes d t (slot * 256) x.len)) true = true →
      sent (.reqAtomic d t w) (.atomic x.aop x.size64 (s.taskBytes d t (slot * 256) x.len))) ∧
    (x.op = opCOPY → s.homeLets (.tile d t) x.target x.len true = true →
      s.ownBlock x.source x.len = true → s.homeLets (.tile d t) x.source x.len false = true →
      s.stackCalm (gaLocal x.source / 0x2000000000) = true → s.waitsAt (gaLocal x.source) = [] →
      s.poisoned (gaLocal x.source) x.len = false →
      sent (.reqCopy d t w) (.copyData (readBytes s.mem (gaLocal x.source) x.len)))

/-- A fence of a tile begins a new epoch. It stays outstanding while a write or copy issued before it is; with no request
outstanding its completion word lands in its slot at once, which becomes FULL (R353, R354, R357). -/
def Obligations.TileFencesWaitForEarlierWrites : Prop :=
  ∀ (s : State) (d : Fin 12) (t : Fin 768) (w : BitVec 128) (x : ReqDesc) (slot : Nat),
    s.issuesNow d t w 0x38 = true → s.reqMicro d t w = some (x, slot) → x.op = opFENCE →
    let y := s.tile d t
    let p := s.phys d slot
    (y.reqs.length < 512 → (∀ q ∈ y.reqs, q.op ≠ opFENCE) →
      (∃ q ∈ y.reqs, q.op ≠ opREAD ∧ q.epoch ≤ y.epoch) →
      ∃ u r, exec (.reqFence d t w) s = .next u ∧ (u.tile d t).reqs = y.reqs ++ [r] ∧ r.op = opFENCE ∧
        r.epoch = y.epoch ∧ (u.tile d t).epoch = y.epoch + 1 ∧ u.mem = s.mem ∧ u.tags = s.tags) ∧
    (y.reqs = [] → slot < (s.die d).bound → p < 5120 → s.domOn (domS d) = true → s.tag d t p = .empty → (∀ g, (s.die d).sCut.mem g = false) →
      let a := mapGet (stOK, 0) y.acks y.epoch
      ∃ u, exec (.reqFence d t w) s = .next u ∧ (u.tile d t).reqs = [] ∧ (u.tile d t).epoch = y.epoch + 1 ∧
        u.mem = writeBytes s.mem (slotAddr d t p) (completionWord a.1 a.2) ∧ u.tag d t p = .full)

/-- The stack controller applies the oldest operation of a pseudo-channel, which leaves the queue: a read brings the bytes
as they are, a write stores its bytes at its address and nothing else, an atomic stores the result of its operation on the
old bytes, which a fetching one brings back (R276, R279, R282). What the answer does at its source follows. An operation of the
pseudo-channel that is applied and not yet answered is answered first. -/
def Obligations.StackOperationsReachMemory : Prop :=
  ∀ (s : State) (k : Fin 12) (pc : Fin 64) (r : Req) (rest : List Req),
    mapGet [] (s.stack k).queues pc = r :: rest → s.stackCalm k = true → (∀ g, (s.stack k).cut.mem g = false) →
    r.op.fits r.addr = true →
    (∀ a left, takeFirst (fun a => pseudoChannel (a.1.addr - stackAddr k 0) == pc.val) (s.stack k).answers = some (a, left) →
      exec (.stackOpApply k pc) s =
        .next (((s.modStack k fun x => { x with answers := left }).landReq a.1 a.2).goesOn a.1.land)) ∧
    let applied := fun (rep : Reply) (m : List Host.Cell) =>
      (∀ a ∈ (s.stack k).answers, pseudoChannel (a.1.addr - stackAddr k 0) ≠ pc) → ∃ v : State,
      exec (.stackOpApply k pc) s = .next ((v.landReq r rep).goesOn r.land) ∧ v.mem = m ∧ mapGet [] (v.stack k).queues pc = rest ∧
      v.tags = s.tags ∧ v.tiles = s.tiles
    (∀ n, r.op = .read n → applied ⟨stOK, readBytes s.mem r.addr n, s.poisoned r.addr n⟩ s.mem) ∧
    (∀ b, r.op = .write b → applied (Reply.ok []) (writeBytes s.mem r.addr b)) ∧
    (∀ aop w x, r.op = .atomic aop w x → s.poisoned r.addr (atomicLen aop w x) = false →
      let old := readBytes s.mem r.addr (atomicLen aop w x)
      applied ⟨stOK, if atomicReturns aop then old else [], false⟩ (writeBytes s.mem r.addr (atomicNew aop w old x).1))

/-- Before the first write to a granule of an open cut image the controller copies the granule to the lowest free granule of
the reserve region; then the write is applied (R287). -/
def Obligations.CutGranulesArePreservedBeforeAWrite : Prop :=
  ∀ (s : State) (k : Fin 12) (pc : Fin 64) (r : Req) (rest : List Req) (b : List Byte) (g free : Nat),
    mapGet [] (s.stack k).queues pc = r :: rest → s.domOn (domM k) = true → s.domOn (domC k) = true →
    (s.stack k).upsets = [] → r.op = .write b → r.op.fits r.addr = true →
    g = (r.addr - stackAddr k 0) / 65536 → s.inReserve k (r.addr - stackAddr k 0) = false → s.needsCopy k g = true →
    s.freeReserve k = some free → (∀ a ∈ (s.stack k).answers, pseudoChannel (a.1.addr - stackAddr k 0) ≠ pc) →
    ∃ v : State, exec (.stackOpApply k pc) s = .next ((v.landReq r (Reply.ok [])).goesOn r.land) ∧
      v.mem = writeBytes (writeBytes s.mem (stackAddr k (free * 65536)) (readBytes s.mem (stackAddr k (g * 65536)) 65536))
        r.addr b ∧ mapGet? (v.stack k).rsv g = some free

/-- The far-tier port applies the oldest access of a device that it serves, as a stack controller does, and an answer with bytes
carries the device's poison indication; while the device is not there the access completes with INTERNAL and changes nothing
(R294, R298, R300). -/
def Obligations.FarTierAccessesReachMemory : Prop :=
  ∀ (s : State) (dev : Fin 4) (poison : Bool) (r : Req) (rest : List Req), mapGet [] s.far.queues dev = r :: rest →
    s.domOn domCXL = true → r.op.fits r.addr = true → (∀ a ∈ s.far.answers, a.1 ≠ dev) →
    let applied := fun (rep : Reply) (m : List Host.Cell) => ∃ v : State,
      exec (.farTierAccess ⟨dev, poison⟩) s =
        .next ((v.landReq r { rep with poison := rep.poison || (poison && !rep.data.isEmpty) }).goesOn r.land) ∧ v.mem = m ∧ mapGet [] v.far.queues dev = rest ∧ v.tags = s.tags
    (s.farServes dev = true →
      (∀ n, r.op = .read n → applied ⟨stOK, readBytes s.mem r.addr n, s.poisoned r.addr n⟩ s.mem) ∧
      (∀ b, r.op = .write b → applied (Reply.ok []) (writeBytes s.mem r.addr b)) ∧
      (∀ aop w x, r.op = .atomic aop w x → s.poisoned r.addr (atomicLen aop w x) = false →
        let old := readBytes s.mem r.addr (atomicLen aop w x)
        applied ⟨stOK, if atomicReturns aop then old else [], false⟩ (writeBytes s.mem r.addr (atomicNew aop w old x).1))) ∧
    (s.farServes dev = false → applied ⟨stINTERNAL, List.replicate r.op.len 0, true⟩ s.mem)

/-- A scrub sweep that is enabled meets what has struck its stack: a single-bit upset is counted as corrected, one that cannot
be corrected poisons its sector; a sweep that is not enabled leaves the upsets in the array. No byte of memory changes
(R293-R295).

A sweep of the scrubber. One that is not enabled leaves its upsets in the array. One that is, of a scratch die that is ON,
meets every upset of the array: the correctable ones and the uncorrectable ones are counted, each slot with an uncorrectable
one is POISON, and no byte of memory changes (R175-R177). -/
def Obligations.ScrubbingMeetsUpsets : Prop :=
  (∀ (s : State) (k : Fin 12) (u : Upset), (s.stack k).upsets = [] → s.domOn (domM k) = true →
     stackAddr k 0 ≤ u.unit * 64 → u.unit * 64 < stackAddr (k + 1) 0 →
     (s.flag (memB k) MEM_SCRUB.ENABLE = true → u.kind = .sectorOne → ∃ v, exec (.memScrub k [u]) s = .next v ∧
       v.fld (memB k) MEM_CE_COUNT.COUNT = min (s.fld (memB k) MEM_CE_COUNT.COUNT + 1) (2 ^ 32 - 1) ∧
       v.flag (memB k) MEM_EVENTS.CE = true ∧ (v.stack k).upsets = [] ∧ v.poison = s.poison ∧ v.mem = s.mem) ∧
     (s.flag (memB k) MEM_SCRUB.ENABLE = true → u.kind = .sectorMany → ∃ v, exec (.memScrub k [u]) s = .next v ∧
       v.fld (memB k) MEM_UE_COUNT.COUNT = min (s.fld (memB k) MEM_UE_COUNT.COUNT + 1) (2 ^ 32 - 1) ∧
       v.flag (memB k) MEM_EVENTS.UE = true ∧ u.unit ∈ v.poison ∧ v.mem = s.mem) ∧
     (s.flag (memB k) MEM_SCRUB.ENABLE = false → ∃ v, exec (.memScrub k [u]) s = .next v ∧ (v.stack k).upsets = [u] ∧
       v.regs = s.regs ∧ v.poison = s.poison ∧ v.mem = s.mem)) ∧
  (∀ (s : State) (d : Fin 12) (us : List Upset),
     let all := (s.die d).upsets ++ us.filter fun u => u.unit / 5120 / 768 == d.val
     let lost := fun (u : Upset) => u.kind == .dataDouble || u.kind == .sectorMany || u.kind == .tagAll
     (s.flag (scrB d) SCR_SCRUB.ENABLE = false →
       exec (.scratchScrub d us) s = .next (s.modDie d fun x => { x with upsets := all })) ∧
     (s.flag (scrB d) SCR_SCRUB.ENABLE = true → s.domOn (domS d) = true →
       ∃ v, exec (.scratchScrub d us) s = .next v ∧ (v.die d).upsets = [] ∧ v.mem = s.mem ∧
         v.fld (scrB d) SCR_CE_COUNT.COUNT =
           min (s.fld (scrB d) SCR_CE_COUNT.COUNT + all.countP fun u => !lost u) (2 ^ 32 - 1) ∧
         v.fld (scrB d) SCR_UE_COUNT.COUNT = min (s.fld (scrB d) SCR_UE_COUNT.COUNT + all.countP lost) (2 ^ 32 - 1) ∧
         ∀ u ∈ all, lost u = true → v.tag d (u.unit / 5120 % 768) (u.unit % 5120) = .poison))

/-! ### Control cores (R202-R220) -/

/-- System instructions of a running core: the fences, with nothing in the core's write buffer, move past themselves and FENCE.G
waits exactly while earlier writes are not acknowledged, WAIT stops the core where no interrupt is due, GRAIN reads the timebase counter, GATE enters PL2 and the
secure state with the next address saved, ERET returns to the saved level and address (R203, R209, R210, R216, R217, R401).

The fences send the write buffer: the bytes that the core stored to a line leave as one write for their home, whose
acknowledgement the core awaits, and FENCE.G waits for it. A store that finds the buffer full sends it too, and is executed
again (R206, R209, R210, R340). Stated for a buffer with one run of bytes within a block of an own stack. -/
def Obligations.SystemInstructionsDoTheirEffect : Prop :=
  (∀ (s : State) (c : Fin 128) (w : Word),
     let x := s.core c
     let next := (x.pc + 4) % 2 ^ 64
     (s.sysNow c w 0x01 false false = true → x.wbuf = [] →
       ∃ u, exec (.fenceL c w) s = .next u ∧ u.core c = { x with pc := next } ∧ u.mem = s.mem ∧ u.regs = s.regs) ∧
     (s.sysNow c w 0x02 false false = true → x.wbuf = [] →
       ∃ u, exec (.fenceG c w) s = .next u ∧ u.core c = { x with pc := next, fencing := !x.drained } ∧ u.mem = s.mem ∧
         u.regs = s.regs) ∧
     (x.drained = true → ∃ u, exec (.fenceGComplete c) s = .next u ∧ u.core c = { x with fencing := false } ∧ u.mem = s.mem) ∧
     (s.sysNow c w 0x20 false false = true → s.irqNow c = none →
       ∃ u, exec (.wait c w) s = .next u ∧ u.coreState c = csWAITING ∧ u.core c = { x with pc := next } ∧ u.mem = s.mem) ∧
     (s.sysNow c w 0x40 true false = true →
       ∃ u, exec (.grain c w) s = .next u ∧ (u.core c).pc = next ∧
         u.greg c (sysA w) = gAfter (sysA w) (BitVec.ofNat 64 s.now) ∧
         (∀ r, r ≠ sysA w → u.greg c r = s.greg c r) ∧ u.regs = s.regs ∧ u.mem = s.mem) ∧
     (s.sysNow c w 0x30 false false = true → s.corePl c ≠ 2 →
       ∃ u, exec (.gate c w) s = .next u ∧ u.corePl c = 2 ∧ u.coreSecure c = true ∧ (u.core c).savedPl = s.corePl c ∧
         (u.core c).savedPc = next ∧ (u.core c).pc = (Config.coreEntry 2).toNat ∧ (u.core c).g = x.g ∧ u.mem = s.mem) ∧
     (s.sysNow c w 0x31 false false = true → s.corePl c ≠ 0 → x.savedPl ≤ 2 →
       ∃ u, exec (.eret c w) s = .next u ∧ u.corePl c = x.savedPl ∧ (u.coreSecure c = true ↔ x.savedPl = 2) ∧
         (u.core c).pc = x.savedPc ∧ (u.core c).g = x.g ∧ u.mem = s.mem)) ∧
  (∀ (s : State) (c : Fin 128) (w : Word) (l : BufLine) (a : Nat) (bs : List Byte),
     let x := s.core c
     x.wbuf = [l] → byteRuns (l.line * 128) l.bytes = [(a, bs)] → l.secure = s.coreSecure c → s.ownBlock a bs.length = true →
     s.homeLets (.core c) a bs.length true = true →
     let sent := fun (i : Instr) (pc : Nat) (fencing : Bool) => ∃ u q, exec i s = .next u ∧ (u.core c).pc = pc ∧
       (u.core c).wbuf = [] ∧ (u.core c).sent = x.sent ++ [(s.fabric.nextReq, a / 128)] ∧ (u.core c).fencing = fencing ∧
       (u.core c).g = x.g ∧ u.waitsAt (gaLocal a) = s.waitsAt (gaLocal a) ++ [q] ∧ q.addr = gaLocal a ∧ q.op = .write bs ∧
       q.land = .coreWrite c ∧ u.mem = s.mem ∧ u.regs = s.regs
     (s.sysNow c w 0x01 false false = true → sent (.fenceL c w) ((x.pc + 4) % 2 ^ 64) false) ∧
     (s.sysNow c w 0x02 false false = true → sent (.fenceG c w) ((x.pc + 4) % 2 ^ 64) true) ∧
     (∀ (rs : Fin 32) (addr : Word64) (size : MemSize) (priv : Bool), s.coreReady c = true →
       s.coreFaults c addr.toNat (MemSize.bytes size) priv = false → x.takesLine (addr.toNat / 128) = false →
       sent (.coreStore c rs addr size priv) x.pc false))

/-- An instruction of the system group that R217 does not define, and GATE at PL2 and ERET at PL0, take an ILLEGAL exception:
the address and level are saved, and the core goes on at the fixed entry of PL1, or of PL2 from PL2. A misaligned access, one
to the secure partition from the non-secure state, and one from PL0 to a privileged page take an ACCESS exception at the
instruction and change no memory (R203, R204, R217). -/
def Obligations.RefusedCoreInstructionsTakeAnException : Prop :=
  ∀ (s : State) (c : Fin 128) (w : Word),
    let pl := max 1 (s.corePl c)
    let trapped := fun (i : Instr) (cause : Nat) => ∃ u, exec i s = .next u ∧ u.corePl c = pl ∧
      (u.core c).savedPl = s.corePl c ∧ (u.core c).savedPc = (s.core c).pc ∧ (u.core c).pc = (Config.coreEntry pl).toNat ∧
      (u.core c).cause = cause ∧ (u.core c).g = (s.core c).g ∧ u.mem = s.mem ∧ u.stackMap = s.stackMap
    s.corePl c ≤ 2 →
    (s.coreReady c = true → bitsOf w.toNat 31 26 = 0x3E → sysKnown (sysFn w) = false → trapped (.fenceL c w) causeILLEGAL) ∧
    (s.sysNow c w 0x30 false false = true → s.corePl c = 2 → trapped (.gate c w) causeILLEGAL) ∧
    (s.sysNow c w 0x31 false false = true → s.corePl c = 0 → trapped (.eret c w) causeILLEGAL) ∧
    (∀ (rd : Fin 32) (addr : Word64) (size : MemSize) (priv : Bool), s.coreReady c = true →
      s.coreFaults c addr.toNat (MemSize.bytes size) priv = true →
      (∀ err, trapped (.coreLoad c rd addr size priv { err := err }) causeACCESS) ∧ trapped (.coreStore c rd addr size priv) causeACCESS)

/-- Invalidation: INVL drops the line of its address from the die's caches, INVR the lines of its range or every line
where the range exceeds 1 GiB, INVA every line; other lines and memory stay, and the core executes nothing until
INVALIDATION_COMPLETE, which does nothing before the cycles of the invalidation have passed: 4, one for each 16 lines up to
1,024, and 1,024 core cycles (R211, R213, R395). -/
def Obligations.InvalidationDropsItsLines : Prop :=
  ∀ (s : State) (c : Fin 128) (w : Word),
    let die := 12 + c.val / 64
    let a := (s.greg c (sysA w)).toNat
    let n := (s.greg c (sysB w)).toNat
    let ends := fun (cycles : Nat) => s.now + cycles * s.fld (clkB die) CLK_PERIOD.PERIOD_Q12 / 32768
    let dropped := fun (i : Instr) (cycles : Nat) (hit : Nat → Bool) => ∃ u, exec i s = .next u ∧
      (u.core c).invalEnd = ends cycles ∧
      (∀ k, mapGet? (u.proc die).lines k = if hit k then none else mapGet? (s.proc die).lines k) ∧
      u.coreState c = csINVALIDATING ∧ (u.core c).pc = ((s.core c).pc + 4) % 2 ^ 64 ∧ u.mem = s.mem
    (s.sysNow c w 0x10 true false = true → dropped (.invl c w) 4 fun k => k == a / 128) ∧
    (s.sysNow c w 0x11 true true = true → n ≤ 2 ^ 30 →
      dropped (.invr c w) (if n = 0 then 0 else min 1024 (((a + n - 1) / 128 + 1 - a / 128 + 15) / 16)) fun k => decide (a < (k + 1) * 128) && decide (k * 128 < a + n) && decide (0 < n)) ∧
    (s.sysNow c w 0x11 true true = true → 2 ^ 30 < n → dropped (.invr c w) 1024 fun _ => true) ∧
    (s.sysNow c w 0x12 false false = true → dropped (.inva c w) 1024 fun _ => true) ∧
    (s.now < (s.core c).invalEnd → exec (.invalidationComplete c) s = .next s) ∧
    (s.coreState c = csINVALIDATING → (s.core c).invalEnd ≤ s.now → ∃ u, exec (.invalidationComplete c) s = .next u ∧ u.coreState c = csRUNNING ∧
      (u.core c).inval = none ∧ (u.core c).pc = (s.core c).pc ∧ u.mem = s.mem)

/-- A core that is not HELD, that no redo holds and that awaits no atomic's value takes its source of highest priority at the
fixed entry of PL1, or of PL2 for a secure source, with level and address saved; it leaves WAITING. A machine error that its
mask lets through is taken first, and an NMI always. Sources pend as their commands say (R203, R218-R220). -/
def Obligations.InterruptsEnterTheirLevel : Prop :=
  ∀ (s : State) (c t : Fin 128),
    (∀ n error, s.coreState c ≠ csHELD → (s.core c).lent = none → ((s.core c).loads.any fun l => l.2.atomic) = false →
      (if error then n = 67 ∧ s.irqUnmasked c 67 = true else s.irqNow c = some n) →
      let pl := if irqSecure n then 2 else 1
      ∃ u, exec (.interruptTake ⟨c, error⟩) s = .next u ∧ u.corePl c = pl ∧ (u.core c).savedPl = s.corePl c ∧
        (u.core c).savedPc = (s.core c).at ∧ (n = 67 → (u.core c).machineError = false) ∧ (u.core c).pc = (Config.coreEntry pl).toNat ∧ (u.core c).cause = n ∧
        u.coreState c ≠ csWAITING ∧ (u.core c).g = (s.core c).g ∧ u.mem = s.mem) ∧
    (s.coreState c ≠ csHELD → ∃ u, exec (.nmi c) s = .next u ∧ u.corePl c = 2 ∧
      (u.core c).savedPl = (s.core c).lent.elim (s.corePl c) (·.1) ∧ (u.core c).savedPc = (s.core c).at ∧ (u.core c).pc = (Config.coreEntry 3).toNat ∧ u.coreState c ≠ csWAITING ∧
      u.mem = s.mem) ∧
    (s.coreState c = csHELD → s.domOn (domK c) = true → ∃ u, exec (.coreRelease c) s = .next u ∧
      u.coreState c = csRUNNING ∧ u.corePl c = 2 ∧ (u.core c).pc = s.reg64 (cpcB c + CPC_ENTRY_LO.off) ∧ u.mem = s.mem) ∧
    ((s.core c).cmpArmed = true → s.grainCmp c ≤ s.now → ∃ u, exec (.grainCmpMatch c) s = .next u ∧
      u.irqPends c 64 = true ∧ u.regs = s.regs ∧ u.mem = s.mem) ∧
    (s.domOn (domK c) = true → ∃ u, exec (.ipiSend c t) s = .next u ∧ u.irqPends t 65 = true ∧ u.regs = s.regs ∧ u.mem = s.mem) ∧
    (∃ u, exec (.ipiClear c) s = .next u ∧ u.irqPends c 65 = false ∧ u.regs = s.regs ∧ u.mem = s.mem)

/-- Loads, stores and atomics of a running core that take no exception: a load that hits brings its register from the die's
copy, one that misses asks for its line, a store goes into the write buffer and into the die's copy, an atomic to its home
with the die's copy dropped, and the reply of the oldest load brings the register that waited (R204-R206, R212).

An uncorrectable error in the line that a load hits is counted for every core that uses the cache in which it fell, the die's
copy is discarded, and the load asks for the line at its home as a miss does (R215). Stated for a load of a block of an own
stack. -/
def Obligations.CoreAccessesReachMemoryThroughTheCaches : Prop :=
  (∀ (s : State) (c : Fin 128) (rd rs rc : Fin 32) (addr : Word64) (size : MemSize) (priv : Bool),
     let x := s.core c
     let a := addr.toNat
     let n := MemSize.bytes size
     let next := (x.pc + 4) % 2 ^ 64
     let die := 12 + c.val / 64
     (s.coreReady c = true → s.coreFaults c a n priv = false → cacheable a = true →
       (∀ bs, s.lineHit c a n = some bs → ∃ u, exec (.coreLoad c rd addr size priv {}) s = .next u ∧ (u.core c).pc = next ∧
         u.greg c rd = gAfter rd (BitVec.ofNat 64 (leNat bs)) ∧ (∀ r, r ≠ rd.val → u.greg c r = s.greg c r) ∧
         u.regs = s.regs ∧ u.mem = s.mem) ∧
       (s.lineHit c a n = none → x.atomics < 64 → (∀ l ∈ x.wbuf, l.line ≠ a / 128) →
         s.ownBlock (a / 128 * 128) 128 = true → s.ownBlock a n = true → s.homeLets (.core c) (a / 128 * 128) 128 false = true →
         ∃ u q l, exec (.coreLoad c rd addr size priv {}) s = .next u ∧ (u.core c).pc = next ∧
           u.waitsAt (gaLocal a) = s.waitsAt (gaLocal a) ++ [q] ∧ q.addr = gaLocal a / 128 * 128 ∧ q.op = .read 128 ∧
           mapGet? (u.core c).loads s.fabric.nextReq = some l ∧ l.rd = rd.val ∧ l.addr = a ∧ l.size = n ∧
           q.land = .core c s.fabric.nextReq ∧ u.mem = s.mem)) ∧
     (s.coreReady c = true → s.coreFaults c a n priv = false → cacheable a = true → x.takesLine (a / 128) = true →
       let bs := toBytes (s.greg c rs).toNat n
       ∃ u, exec (.coreStore c rs addr size priv) s = .next u ∧ (u.core c).pc = next ∧
         (∃ l ∈ (u.core c).wbuf, l.line = a / 128 ∧ l.secure = s.coreSecure c ∧
           ∀ j, j < n → l.bytes[a % 128 + j]? = some (bs[j]?)) ∧
         ((s.lineHit c a n).isSome = true → u.lineHit c a n = some bs) ∧
         u.mem = s.mem ∧ u.regs = s.regs ∧ u.stackMap = s.stackMap) ∧
     (∀ (aop : Nat) (wide : Bool), s.coreReady c = true → s.coreFaults c a (if wide then 8 else 4) priv = false →
       x.atomics < 64 → (∀ l ∈ x.wbuf, l.line ≠ a / 128) →
       let v := atomicOperand aop (s.greg c rs) (s.greg c rc)
       s.ownBlock a (atomicLen aop wide v) = true → s.homeLets (.core c) a (atomicLen aop wide v) true = true →
       ∃ u q, exec (.coreAtomic c rd rs rc aop wide addr priv) s = .next u ∧ (u.core c).pc = next ∧
         u.waitsAt (gaLocal a) = s.waitsAt (gaLocal a) ++ [q] ∧ q.addr = gaLocal a ∧ q.op = .atomic aop wide v ∧
         mapGet? (u.proc die).lines (a / 128) = none ∧ u.mem = s.mem ∧
         (if atomicReturns aop then q.land = .core c s.fabric.nextReq ∧ (mapGet? (u.core c).loads s.fabric.nextReq).isSome = true
          else q.land = .coreWrite c ∧ (u.core c).atomics = x.atomics + 1)) ∧
     (∀ id l bs, x.loads.head? = some (id, l) → x.lent = none → l.fetch = false → l.vec = false →
       mapGet? x.replies id = some (stOK, bs, false) →
       ∃ u, exec (.coreLoadReply c id) s = .next u ∧
         u.greg c l.rd = gAfter l.rd (BitVec.ofNat 64 (leNat ((bs.drop (if l.line then l.addr % 128 else 0)).take l.size))) ∧
         mapGet? (u.core c).loads id = none ∧ mapGet? (u.core c).replies id = none ∧ u.regs = s.regs ∧ u.mem = s.mem ∧
         (l.line = true → x.noInstall.contains id = false →
           mapGet? (u.proc die).lines (l.addr / 128) = some (fitBytes 128 bs)))) ∧
  (∀ (s : State) (c : Fin 128) (rd : Fin 32) (addr : Word64) (size : MemSize) (priv : Bool) (level : Fin 3),
     let x := s.core c
     let a := addr.toNat
     let n := MemSize.bytes size
     let die := 12 + c.val / 64
     s.coreReady c = true → s.coreFaults c a n priv = false → x.atomics < 64 → (∀ l ∈ x.wbuf, l.line ≠ a / 128) →
     ((s.proc die).lines.countP fun e => e.1 == a / 128) = 1 →
     s.ownBlock (a / 128 * 128) 128 = true → s.ownBlock a n = true → s.homeLets (.core c) (a / 128 * 128) 128 false = true →
     ∃ u q, exec (.coreLoad c rd addr size priv { err := .line level }) s = .next u ∧
       mapGet? (u.proc die).lines (a / 128) = none ∧
       (∀ k ∈ cacheUsers c level, u.fld (cpcB k) CPC_CACHE_ERR.COUNT =
         min (s.fld (cpcB k) CPC_CACHE_ERR.COUNT + 1) (2 ^ 32 - 1)) ∧
       u.waitsAt (gaLocal a) = s.waitsAt (gaLocal a) ++ [q] ∧ q.addr = gaLocal a / 128 * 128 ∧ q.op = .read 128 ∧
       (mapGet? (u.core c).loads s.fabric.nextReq).isSome = true ∧ u.mem = s.mem)

/-! ### Long vectors (R223-R242) -/

/-- The elementwise instructions of vector arithmetic write the result of their function into the active elements below VL,
zero into the others under Z, and nothing else: no other element, register, mask or byte of memory (R228, R230-R234, R242). -/
def Obligations.LongVectorsComputeTheirActiveElements : Prop :=
  ∀ (s : State) (c : Fin 128) (w : Word), ∀ e ∈ lvElementCommands,
    let x := s.core c
    s.lvNow c w lvARITH e.2 (x.arithIllegal w) = true →
    ∃ u, exec (e.1 c w) s = .next u ∧ (u.core c).pc = (x.pc + 4) % 2 ^ 64 ∧
      (∀ i, i < vlMax (lvW w) → (u.core c).elem (lvW w) (lvD w) i =
        if i < x.vl ∧ x.active w i then lvKept (lvW w) (x.lvElem w e.2 i).1
        else if i < x.vl ∧ lvZ w then 0 else x.elem (lvW w) (lvD w) i) ∧
      (∀ r i, r < 32 → r ≠ lvD w → i < vlMax (lvW w) → (u.core c).elem (lvW w) r i = x.elem (lvW w) r i) ∧
      (u.core c).g = x.g ∧ (u.core c).m = x.m ∧ (u.core c).vl = x.vl ∧ (u.core c).vstart = x.vstart ∧ u.mem = s.mem

/-- Conversions between widths write their active elements in the other width; compares write the mask bits of active
elements, and mask 0 stays all ones; reductions write element 0 alone, with the canonical tree over the active elements, and
with VL = 0 nothing (R225, R228, R232, R234, R242). -/
def Obligations.LongVectorConversionsComparesAndReductions : Prop :=
  ∀ (s : State) (c : Fin 128) (w : Word),
    let x := s.core c
    let f := lvFmt (lvW w)
    (∀ e ∈ lvConvCommands, s.lvNow c w lvARITH e.2 (x.arithIllegal w) = true →
      ∃ u, exec (e.1 c w) s = .next u ∧ (u.core c).pc = (x.pc + 4) % 2 ^ 64 ∧ u.mem = s.mem ∧
        ∀ i, i < 128 → (u.core c).elem (!lvW w) (lvD w) i =
          if i < x.vl ∧ x.active w i then
            lvKept (!lvW w) (convert (lvFmt (!lvW w)) x.rm false 0 (decode f (x.elem (lvW w) (lvA w) i))).1
          else if i < x.vl ∧ lvZ w then 0 else x.elem (!lvW w) (lvD w) i) ∧
    (∀ e ∈ lvCompCommands, s.lvNow c w lvARITH e.2 (x.arithIllegal w) = true →
      ∃ u, exec (e.1 c w) s = .next u ∧ (u.core c).pc = (x.pc + 4) % 2 ^ 64 ∧ u.mem = s.mem ∧ (u.core c).v = x.v ∧
        (lvD w = 0 → (u.core c).m = x.m) ∧
        (lvD w ≠ 0 → ∀ i, i < 256 → ((u.core c).mask (lvD w)).getLsbD i =
          if i < x.vl ∧ x.active w i then
            lvCmp e.2 (decode f (x.elem (lvW w) (lvA w) i)) (decode f (x.elem (lvW w) (lvB w) i))
          else if i < x.vl ∧ lvZ w then false else (x.mask (lvD w)).getLsbD i)) ∧
    (∀ e ∈ lvRedCommands, s.lvNow c w lvARITH e.2 (x.arithIllegal w) = true →
      let xs := ((List.range x.vl).filter (x.active w)).map fun i => x.elem (lvW w) (lvA w) i
      ∃ u, exec (e.1 c w) s = .next u ∧ (u.core c).pc = (x.pc + 4) % 2 ^ 64 ∧ u.mem = s.mem ∧
        (u.core c).elem (lvW w) (lvD w) 0 =
          (if x.vl = 0 then x.elem (lvW w) (lvD w) 0 else lvKept (lvW w) (lvReduceVal e.2 f x.rm xs).1) ∧
        ∀ i, 0 < i → i < vlMax (lvW w) → (u.core c).elem (lvW w) (lvD w) i = x.elem (lvW w) (lvD w) i)

/-- Scalar floating point computes element 0 alone, whatever VL and VSTART (R224, R242). -/
def Obligations.ScalarOperationsComputeElementZero : Prop :=
  ∀ (s : State) (c : Fin 128) (w : Word),
    let x := s.core c
    s.lvNow c w lvSCALAR (lvFn w) (arithReserved w || bitsOf w.toNat 10 7 != 0) = true → scalarFns.contains (lvFn w) = true →
    (lvFn w ≠ 0x2A → lvFn w ≠ 0x2B → lvFn w ≠ 0x07 →
      ∃ u, exec (.scalarFpOp c w) s = .next u ∧ (u.core c).pc = (x.pc + 4) % 2 ^ 64 ∧
        (u.core c).elem (lvW w) (lvD w) 0 = lvKept (lvW w) (x.lvElem w (lvFn w) 0).1 ∧
        (∀ i, 0 < i → i < vlMax (lvW w) → (u.core c).elem (lvW w) (lvD w) i = x.elem (lvW w) (lvD w) i) ∧
        (u.core c).vl = x.vl ∧ (u.core c).vstart = x.vstart ∧ u.mem = s.mem) ∧
    (lvFn w = 0x2A ∨ lvFn w = 0x2B →
      ∃ u, exec (.scalarFpOp c w) s = .next u ∧ (u.core c).pc = (x.pc + 4) % 2 ^ 64 ∧
        (u.core c).elem (!lvW w) (lvD w) 0 =
          lvKept (!lvW w) (convert (lvFmt (!lvW w)) x.rm false 0 (decode (lvFmt (lvW w)) (x.elem (lvW w) (lvA w) 0))).1 ∧
        (u.core c).vl = x.vl ∧ u.mem = s.mem)

/-- The configuration instructions: VL, VSTART, masks, FSR and the moves between register files, each with its one
destination; g0 stays zero and m0 all ones (R202, R225, R226, R227, R242). -/
def Obligations.VectorConfigurationWritesItsRegister : Prop :=
  ∀ (s : State) (c : Fin 128) (w : Word),
    let x := s.core c
    let g := s.greg c (lvA w)
    let d := lvD w
    let ok := fun (fn : Nat) (bad : Bool) =>
      s.lvNow c w lvCONFIG fn (decide (vlMax (lvW w) < x.vl) || configReserved w || x.vstart != 0 || bad) = true
    let ends := fun (i : Instr) (y : CoreX) => exec i s = .next (s.setCore c { y with pc := (x.pc + 4) % 2 ^ 64 })
    (ok 0x00 false →
      let n := if g.toInt < 0 then 0 else min g.toNat (if lvW w = true then 256 else 128)
      ends (.setvl c w) { x.setG d (BitVec.ofNat 64 n) with vl := n }) ∧
    (ok 0x01 false → ends (.vlr c w) (x.setG d (BitVec.ofNat 64 x.vl))) ∧
    (ok 0x02 (decide (256 < g.toNat)) → ends (.vlw c w) { x with vl := g.toNat }) ∧
    (ok 0x03 false → ends (.vstr c w) (x.setG d (BitVec.ofNat 64 x.vstart))) ∧
    (ok 0x04 (s.corePl c == 0) → ends (.vstw c w) { x with vstart := g.toNat % 256 }) ∧
    (ok 0x08 false → ends (.mand c w) (x.setMask d (x.mask (lvA w) &&& x.mask (lvB w)))) ∧
    (ok 0x09 false → ends (.mor c w) (x.setMask d (x.mask (lvA w) ||| x.mask (lvB w)))) ∧
    (ok 0x0A false → ends (.mnot c w) (x.setMask d (~~~x.mask (lvA w)))) ∧
    (ok 0x0B false → ends (.mpop c w)
      (x.setG d (BitVec.ofNat 64 ((List.range x.vl).filter fun i => (x.mask (lvA w)).getLsbD i).length))) ∧
    (ok 0x0C false → ends (.mfirst c w)
      (x.setG d (((List.range x.vl).find? fun i => (x.mask (lvA w)).getLsbD i).elim (BitVec.allOnes 64) (BitVec.ofNat 64)))) ∧
    (ok 0x10 false → ends (.fsrr c w) (x.setG d (x.fsr.setWidth 64))) ∧
    (ok 0x11 false → ends (.fsrw c w) { x with fsr := fsrWrite x.fsr (g.setWidth 32) }) ∧
    (ok 0x20 false → ends (.vmvg c w) (x.setG d (BitVec.ofNat 64 (x.elem false (lvA w) 0)))) ∧
    (ok 0x21 false → ends (.vmvf c w) (x.setElem false d 0 g.toNat))

/-- A vector load whose active elements hit the die's copies brings each of them into its register; a vector store puts the
bytes of each active element into the core's write buffer, which has room for their lines. Both end with VSTART 0. An element
whose line is not there stops the load: VSTART names it, and the instruction is executed again from there. An element whose
translation fails stops the instruction there: VSTART names it and the exception is taken at the instruction (R206, R212,
R235-R239). -/
def Obligations.VectorMemoryMovesItsActiveElements : Prop :=
  ∀ (s : State) (c : Fin 128) (w : Word) (priv : List Nat),
    let x := s.core c
    let b := lvBytes (memW w)
    let at_ := fun (i f : Nat) => s.lvAddr c w i f
    let does := fun (i : Nat) => x.vstart ≤ i ∧ i < x.vl ∧ (x.mask (lvM w)).getLsbD i = true
    let lets := fun (i f : Nat) => s.coreFaults c (at_ i f) b (priv.contains i) = false ∧ cacheable (at_ i f) = true
    s.coreReady c = true →
    (∀ bs : Nat → Nat → List Byte, lvMajor w = lvLOAD → x.memIllegal w false = false →
      (∀ i f, does i → f < memNf w → lets i f ∧ s.lineHit c (at_ i f) b = some (bs i f) ∧ (bs i f).length = b) →
      ∃ u, exec (.vectorLoad c w ⟨priv, none⟩ none) s = .next u ∧ (u.core c).pc = (x.pc + 4) % 2 ^ 64 ∧ (u.core c).vstart = 0 ∧
        (∀ i f, does i → f < memNf w → (u.core c).elem (memW w) (lvD w + f) i = leNat (bs i f)) ∧
        (∀ r i, r < 32 → (r < lvD w ∨ lvD w + memNf w ≤ r) → i < vlMax (memW w) →
          (u.core c).elem (memW w) r i = x.elem (memW w) r i) ∧ u.mem = s.mem ∧ u.regs = s.regs) ∧
    (∀ lines : List Nat, lvMajor w = lvSTORE → x.memIllegal w true = false → lines.length ≤ 32 →
      (∀ l ∈ x.storeLines, l ∈ lines) →
      (∀ i f, does i → f < memNf w → lets i f ∧ at_ i f / 128 ∈ lines ∧
        ∀ j g, does j → g < memNf w → (i ≠ j ∨ f ≠ g) → at_ i f ≠ at_ j g) →
      ∃ u, exec (.vectorStore c w ⟨priv, none⟩ none) s = .next u ∧ (u.core c).pc = (x.pc + 4) % 2 ^ 64 ∧ (u.core c).vstart = 0 ∧
        (∀ i f, does i → f < memNf w → ∃ l ∈ (u.core c).wbuf, l.line = at_ i f / 128 ∧ l.secure = s.coreSecure c ∧
          ∀ j, j < b → l.bytes[at_ i f % 128 + j]? = some ((toBytes (x.elem (memW w) (lvD w + f) i) b)[j]?)) ∧
        (u.core c).v = x.v ∧ u.mem = s.mem ∧ u.stackMap = s.stackMap) ∧
    (lvMajor w = lvLOAD → x.memIllegal w false = false → does x.vstart → lets x.vstart 0 →
      s.lvRead c (at_ x.vstart 0) b = none →
      ∃ u, exec (.vectorLoad c w ⟨priv, none⟩ none) s = .next u ∧ (u.core c).vstart = x.vstart ∧ (u.core c).pc = x.pc ∧
        (u.core c).v = x.v ∧ (u.core c).g = x.g) ∧
    (lvMajor w = lvLOAD → x.memIllegal w false = false → does x.vstart → s.corePl c ≤ 2 →
      ∃ u, exec (.vectorLoad c w ⟨priv, some x.vstart⟩ none) s = .next u ∧ (u.core c).vstart = x.vstart ∧
        (u.core c).cause = causeTRANSLATION ∧ (u.core c).savedPc = x.pc ∧ u.corePl c = max 1 (s.corePl c) ∧
        (u.core c).v = x.v ∧ u.mem = s.mem)

/-! ### Registers (R4-R10) -/

/-- A core's write of a register takes the bits that its access codes let through: RW and W1C bits at once, RWS and RWL bits at
once only while the owner does not run; while it runs an RWS value waits in the shadow, and an attempt at an RWL field is
logged with BUSY. A 64-bit write is one of each half. Nothing else changes. A misaligned write takes nothing, and one to a
block in a domain that is not ON is logged. (A write that sets VALID of a task whose region other jobs held waits for the clears of R174
and is not meant here.)

A register of a block without side effects, written in 32 bits by any agent of the package where no RWL field is locked: the
write completes, the register holds what its access codes let through, and nothing else changes (R4, R6, R10, R497). -/
def Obligations.RegisterWritesFollowTheAccessCodes : Prop :=
  (∀ (s : State) (c : Fin 128) (a : Nat) (v : Word64),
     let who := Agent.core c
     let lo := v.setWidth 32
     let hi := (v >>> 32).setWidth 32
     (∀ b u o r i, descOf a = some (b, u, o, r, i) → plainBlock b = true → a % 4 = 0 → s.blockOn a = true →
       let runs := s.ownerRuns b u o
       ∃ t, exec (.registerWrite who a false v) s = .next (if runs && r.rwl != 0 then t.logRejected who a else t) ∧
         t.reg a = codedValue r runs (s.reg a) lo ∧ (∀ x, x ≠ a → t.reg x = s.reg x) ∧ t.mem = s.mem ∧ t.tags = s.tags ∧
         t.dies = s.dies ∧ t.stackMap = s.stackMap ∧ t.tiles = s.tiles ∧ t.cores = s.cores ∧ t.chans = s.chans) ∧
     (∀ b u o r i r' i', descOf a = some (b, u, o, r, i) → descOf (a + 4) = some (b, u, o + 4, r', i') →
       plainBlock b = true → a % 8 = 0 → s.blockOn a = true → r.rwl = 0 → r'.rwl = 0 →
       ∃ t, exec (.registerWrite who a true v) s = .next t ∧
         t.reg a = codedValue r (s.ownerRuns b u o) (s.reg a) lo ∧
         t.reg (a + 4) = codedValue r' (s.ownerRuns b u (o + 4)) (s.reg (a + 4)) hi ∧
         (∀ x, x ≠ a → x ≠ a + 4 → t.reg x = s.reg x) ∧ t.mem = s.mem ∧ t.tags = s.tags) ∧
     (∀ b u o r i, descOf a = some (b, u, o, r, i) → (b = .dsq ∨ b = .scr) → r.rws ≠ 0 → o ≠ STR_CTRL.off → a % 4 = 0 →
       s.blockOn a = true → (b = .dsq → s.validNeeds u o lo = []) →
       ∃ t, exec (.registerWrite who a false v) s = .next t ∧ t.mem = s.mem ∧ t.tags = s.tags ∧
         (s.dieRuns u = true → (∀ x, t.reg x = s.reg x) ∧
           mapGet? t.shadow a = some ⟨BitVec.ofNat 32 r.rws, lo &&& BitVec.ofNat 32 r.rws⟩) ∧
         (s.dieRuns u = false → t.reg a = codedValue r false (s.reg a) lo ∧ mapGet? t.shadow a = none)) ∧
     (∀ wide, regAligned a wide = false → exec (.registerWrite who a wide v) s = .next s) ∧
     (∀ wide b u o, regAligned a wide = true → locate a = some (b, u, o) → s.blockOn a = false →
       exec (.registerWrite who a wide v) s = .next (s.logRefused stDENIED (blkSource b) (s.blkUnit b u) s.place 0 []))) ∧
  (∀ (s : State) (who : Agent) (a : Nat) (v : Word64) (b : Blk) (u o : Nat) (r : RegDesc) (i : Nat),
     descOf a = some (b, u, o, r, i) → plainBlock b = true → a % 4 = 0 → s.blockOn a = true →
     (∀ fn secure, who ≠ .host fn secure) → routeTable a = false → (s.ownerRuns b u o = false ∨ r.rwl = 0) →
     ∃ t, exec (.registerWrite who a false v) s = .next t ∧
       t.reg a = codedValue r (s.ownerRuns b u o) (s.reg a) (v.setWidth 32) ∧ (∀ x, x ≠ a → t.reg x = s.reg x) ∧
       t.mem = s.mem ∧ t.tags = s.tags ∧ t.dies = s.dies ∧ t.stackMap = s.stackMap ∧ t.tiles = s.tiles ∧
       t.cores = s.cores ∧ t.chans = s.chans)

/-- Registers that act when written: GO of DRF_CLEAR zeroes the counters of its unit; ABANDON ends both images and makes
their granules dirty again; FT_DEV_d takes its range only while COMMIT is 0 and (log entry 39) the range lies in the far tier, and COMMIT from 0 to 1 lets a device that went
down be served; TNM_SLOT takes an enabled pair of distinct slots that stay on the die, while the die stands; PWR_CAP takes
every cap but 3. A submission of a core of the engine's die, or of the package controller, enters the engine's queue
(R272, R273, R297, R367, R438, R495, R527, R558). -/
def Obligations.RegistersActWhenWritten : Prop :=
  ∀ s : State,
    (∀ u : Fin 15, ∃ t, exec (.drfClearGo u) s = .next t ∧ t.reg (drfB u + DRF_TOTAL.off) = 0 ∧
      (∀ c, c < 7 → t.reg (drfB u + DRF_CAUSE.off + 4 * c) = 0) ∧
      (∀ a, a ≠ drfB u + DRF_TOTAL.off → (∀ c, c < 7 → a ≠ drfB u + DRF_CAUSE.off + 4 * c) → t.reg a = s.reg a) ∧
      t.mem = s.mem) ∧
    (∀ d : Fin 12, ∃ t, exec (.strAbandon d) s = .next t ∧ (t.stack d).cut = GranSet.none ∧ (t.stack d).rsv = [] ∧
      (∀ g, (t.stack d).dirty.mem g = ((s.stack d).dirty.mem g || (s.stack d).cut.mem g)) ∧
      (t.die d).sCut = GranSet.none ∧ (t.die d).sRsv = [] ∧
      (∀ g, (t.die d).sDirty.mem g = ((s.die d).sDirty.mem g || (s.die d).sCut.mem g)) ∧
      t.flag (dsqB d) STR_EVENTS.ABANDONED = true ∧ t.mem = s.mem) ∧
    (∀ (dev : Fin 4) (v : Word), s.domOn domCXL = true →
      let a := ftB + FT_DEV.off + FT_DEV.stride * dev
      (s.flag (ftB + FT_DEV.stride * dev) FT_DEV.COMMIT = false → ftRangeOk v.toNat = false →
        exec (.ftDevCommit dev v) s = .next s) ∧
      (s.flag (ftB + FT_DEV.stride * dev) FT_DEV.COMMIT = false → ftRangeOk v.toNat = true → ∃ t, exec (.ftDevCommit dev v) s = .next t ∧ t.reg a = v ∧
        (∀ x, x ≠ a → t.reg x = s.reg x) ∧ t.mem = s.mem ∧ (bitOf v.toNat 31 = true → dev.val ∉ t.far.stale)) ∧
      (s.flag (ftB + FT_DEV.stride * dev) FT_DEV.COMMIT = true → ∃ t, exec (.ftDevCommit dev v) s = .next t ∧
        t.reg a = ((s.reg a &&& 0x7FFFFFFF) ||| (v &&& 0x80000000)) ∧ t.mem = s.mem ∧ t.far = s.far)) ∧
    (∀ (d : Fin 12) (slot : Fin 4) (v : Word), s.dieRuns d = false →
      (bitOf v.toNat 31 = true → bitsOf v.toNat 1 0 ≠ slot ∧ ((s.die d).slot slot).leaves s.place d = none ∧
        ((s.die d).slot (bitsOf v.toNat 1 0)).leaves s.place d = none) →
      exec (.tnmSlotWrite d slot v) s = .next (s.setReg (tnmB d slot + TNM_SLOT.off) (v &&& 0xE0000003))) ∧
    (∀ v : Word, ∃ t, exec (.pwrCapWrite v) s = .next t ∧
      t.fld pwrB PWR_CAP.CAP = (if v.toNat % 4 = 3 then s.fld pwrB PWR_CAP.CAP else v.toNat % 4) ∧
      (∀ a, a ≠ pwrB + PWR_CAP.CAP.off → t.reg a = s.reg a) ∧ t.mem = s.mem) ∧
    (∀ (e : Fin 8) (who : Agent) (hi : Word), enginesWriter (engineDie e) who = true → s.domOn (blkDomain .slv e) = true →
      (s.solver e).queue.length < 16 →
      exec (.slvSubmit e who hi) s = .next (s.setSolver e { s.solver e with queue := (s.solver e).queue ++
        [⟨(s.solver e).subLo.toNat + hi.toNat * 2 ^ 32, s.agentChan who, s.agentSecure who, s.agentJob who, none⟩] })) ∧
    (∀ (e : Fin 20) (who : Agent) (hi : Word), enginesWriter (agentDie (.copy e)) who = true → s.domOn (blkDomain .cpe e) = true →
      (s.copy e).queue.length < 256 →
      exec (.cpeSubmit e who hi) s = .next (s.setCopy e { s.copy e with queue := (s.copy e).queue ++
        [⟨(s.copy e).subLo.toNat + hi.toNat * 2 ^ 32, s.agentChan who, s.agentSecure who, s.agentJob who, none⟩] }))

/-! ### Moulds (R119-R123, R128) -/

/-- A mould's way into its slot: MOULD_LOAD at one die leaves the slot LOADING with its job seed and its image to come; the
image that has streamed in and agrees with header and digest is CHECKING, one that does not fails the slot with its reason;
the checks that pass make it READY with its cycle count and MOULD_ID, those that fail fail it. MOULD_SWITCH gives a task of a
standing die a slot that is READY; MOULD_EVICT empties a slot that no valid task names. -/
def Obligations.MouldsPassThroughTheirSlotStates : Prop :=
  ∀ (s : State) (d : Fin 12),
    (∀ (h : CmdHdr) (ps : List Word64), s.runsHere h 0x0110 = true → s.onDie h d = true →
      let p := fun i => (nthD (0 : Word64) ps i).toNat
      let sl := p 1 % 4
      s.slotBusy d sl = false → s.slotNamed d sl = false →
      (∀ i, i < 4 → s.slotState d i ≠ slREADY ∧ s.slotState d i ≠ slACTIVE) →
      ∃ u, exec (.mouldLoad h ps) s = .next u ∧ u.slotState d sl = slLOADING ∧
        (u.die d).slot sl =
          { SlotX.init with jobSeed := p 2, load := some (h, p 0, p 1 / 2 ^ 32, word64Bytes ((ps.drop 3).take 4)) } ∧
        u.mem = s.mem ∧ u.tags = s.tags) ∧
    (∀ (sl : Fin 4) h addr total expect, ((s.die d).slot sl).load = some (h, addr, total, expect) →
      s.slotState d sl = slLOADING →
      let r := s.readFor h addr total
      r.2.status = stOK →
      match (headerFault r.2.data total).or (digestFault r.2.data expect) with
      | none => ∃ u, exec (.mouldStreamDone d sl) s = .next u ∧ u.slotState d sl = slCHECKING ∧
          ((u.die d).slot sl).image = r.2.data ∧ u.mem = r.1.mem
      | some reason => ∃ v : State, exec (.mouldStreamDone d sl) s =
            .next (v.partDone h 0x0110 (s.dieUnit d) (reasonStatus reason) (mouldReply reason noTile 0 0)) ∧
          v.slotState d sl = slFAILED ∧ (v.die d).slot sl = SlotX.init) ∧
    (∀ (sl : Fin 4) h addr total expect, ((s.die d).slot sl).load = some (h, addr, total, expect) →
      s.slotState d sl = slCHECKING →
      match ((s.die d).slot sl).check (if s.mustStay d sl then some (s.place, d.val) else none) with
      | .ok (y, cycles) => ∃ v : State, exec (.mouldCheckDone d sl) s =
            .next (v.partDone h 0x0110 (s.dieUnit d) stOK (mouldReply 0 noTile 0 cycles)) ∧
          v.slotState d sl = slREADY ∧ v.reg (mldB d sl + MLD_SLOT_CYCLES.off) = BitVec.ofNat 32 (sat32 cycles) ∧
          v.reg64 (mldB d sl + MLD_SLOT_ID_LO.off) = imgId y.image % 2 ^ 64 ∧ (v.die d).slot sl = { y with load := none } ∧
          v.mem = s.mem
      | .error (f, cycles) => ∃ v : State, exec (.mouldCheckDone d sl) s =
            .next (v.partDone h 0x0110 (s.dieUnit d) (reasonStatus f.reason) (mouldReply f.reason f.tile f.index cycles)) ∧
          v.slotState d sl = slFAILED ∧ (v.die d).slot sl = SlotX.init) ∧
    (∀ (h : CmdHdr) (ps : List Word64), s.runsHere h 0x0111 = true → s.onDie h d = true →
      let p := (nthD (0 : Word64) ps 0).toNat
      s.slotState d (p % 4) = slREADY → s.dieRuns d = false →
      ∃ u, exec (.mouldSwitch h ps) s = .next u ∧ u.tsk d (bitsOf p 7 4) TSK_CFG.SLOT = p % 4 ∧ u.mem = s.mem ∧
        s.replied u h 0x0111 stOK []) ∧
    (∀ (h : CmdHdr) (ps : List Word64), s.runsHere h 0x0112 = true → s.onDie h d = true →
      let sl := (nthD (0 : Word64) ps 0).toNat % 4
      s.slotBusy d sl = false → s.slotNamed d sl = false →
      ∃ u, exec (.mouldEvict h ps) s = .next u ∧ u.slotState d sl = slEMPTY ∧ (u.die d).slot sl = SlotX.init ∧
        u.mem = s.mem ∧ s.replied u h 0x0112 stOK [])

/-! ### Solver and copy engines (R253-R273, R354-R367) -/

/-- A batch's way through its engine: the descriptor in front of the queue that R255 accepts becomes the running batch at its
LAUNCH grain; the engine that has processed every matrix is done, and hands matrices to redo where REDO, a handed matrix and
a core that runs say so, on which firmware then runs at PL2; the redo ends; STOP_AT_DEADLINE limits what had started by DEADLINE; the acknowledged batch writes
its completion record, counts in SLV_BATCHES, raises DONE, notifies, and frees the engine, with MISS after its deadline
(R255, R258, R259, R263, R268-R270). -/
def Obligations.BatchesRunOnTheirEngine : Prop :=
  ∀ (s : State) (e : Fin 8),
    (∀ q rest, (s.solver e).batch = none → (s.solver e).queue = q :: rest → s.domOn (domK00 (engineDie e)) = true →
      let y := s.slvRead e q q.addr 128
      let ws := (leWords 4 (fitBytes 128 y.2.data)).map (BitVec.ofNat 32)
      let b := batchOf ws
      y.2.status = stOK → b.launch ≤ s.now → (b.launch = 0 ∨ y.1.now ≤ b.launch + 1) → b.structAddr = 0 →
      (b.stopAt = false ∨ y.1.now < b.deadline) →
      b.rejected e q.addr none = false → y.1.batchDenied b q none = false →
      ∃ u, exec (.batchStart e) s = .next u ∧ (u.solver e).batch = some (ws, q, y.1.now) ∧ (u.solver e).queue = rest ∧
        (u.solver e).stats = [] ∧ (u.solver e).done = false ∧ (u.solver e).redo = false ∧ (u.solver e).limit = none ∧
        u.reg64 (slvB e + SLV_CUR_LO.off) = q.addr % 2 ^ 64 ∧ u.mem = y.1.mem) ∧
    (∀ ws q start, (s.solver e).batch = some (ws, q, start) →
      let b := batchOf ws
      let m := s.batchMap e q b
      let a := m.1.slvAll e q b m.2.1 ((m.1.solver e).denied || !m.2.2)
      let known := b.stopAt = false ∨ s.now < b.deadline ∨ (s.solver e).limit ≠ none
      ((s.solver e).done = false → known →
        ((b.redo = false ∨ (a.1.solver e).stats.any handed = false ∨ a.2 = true ∨ (b.stopAt = true ∧ b.deadline ≤ a.1.now)) →
          ∃ u, exec (.batchEngineDone e) s = .next u ∧ (u.solver e) = { a.1.solver e with done := true } ∧ u.mem = a.1.mem) ∧
        (b.redo = true → (a.1.solver e).stats.any handed = true → a.2 = false → b.stopAt = false →
          a.1.redoCoreDown b.core = false →
          ∃ u, exec (.batchEngineDone e) s = .next u ∧ (u.solver e) = { a.1.solver e with done := true, redo := true } ∧
            ((a.1.core b.core).lent = none → u.corePl b.core = 2 ∧
              (u.core b.core).lent = some (a.1.corePl b.core, a.1.coreState b.core)) ∧ u.mem = a.1.mem)) ∧
      ((s.solver e).redo = true → known → ∃ u, exec (.redoDone e) s = .next u ∧ (u.solver e).redo = false) ∧
      (∀ started, b.stopAt = true → b.deadline ≤ s.now → (s.solver e).limit = none →
        ((s.solver e).done = false ∨ (s.solver e).redo = true) →
        exec (.batchDeadline e started) s = .next (s.setSolver e { s.solver e with limit := some started })) ∧
      ((s.solver e).done = true → (s.solver e).redo = false → s.engineWaits e = false →
        let st := (s.solver e).stats
        let n := fun (p : Nat × Nat → Bool) => (st.filter p).length
        let missed := decide (b.deadline ≠ 0 ∧ b.deadline < s.now)
        let status := if missed then stDEADLINE_MISS else if (s.solver e).denied then stDENIED
          else st.foldl (fun w x => max w (x.2 / 65536)) stOK
        let record := complRecord status
          [n fun x => !bitOf x.2 8, n fun x => x.2 / 65536 == stPIVOT_ZERO, n fun x => x.2 / 65536 == stFIXED_OVF,
           n fun x => bitOf x.2 15, n fun x => bitOf x.2 14, n fun x => bitOf x.2 13, n fun x => bitOf x.2 12] start s.now
        let w := (s.slvWrite e q b.complAddr record).1
        ∃ u, exec (.batchComplete e) s = .next u ∧ (u.solver e).batch = none ∧ (u.solver e).done = false ∧
          (u.solver e).stats = [] ∧
          u.fld (slvB e) SLV_BATCHES.COUNT = min (w.fld (slvB e) SLV_BATCHES.COUNT + 1) (2 ^ 32 - 1) ∧
          u.flag (slvB e) SLV_EVENTS.DONE = true ∧ (missed = true → u.flag (slvB e) SLV_EVENTS.MISS = true) ∧
          (b.notify = true → (u.core b.core).pendBatch = true) ∧ u.mem = w.mem))

/-- A descriptor in front of a copy engine's queue starts at its LAUNCH grain once the one before it has issued its packets: WRITE and COPY send the bytes of SOURCE,
ATOMIC its operation, to the home of TARGET, and the descriptor is outstanding with CPE_CUR naming it; a FENCE waits while a
write before it is outstanding, and completes at once where none is. The oldest descriptor with nothing outstanding writes its
completion word and grain into words 12 to 15 and counts in CPE_DONE; a fence completes once the writes before it have
(R353, R354, R357-R359, R364-R366). Stated for accesses within one block of an own stack. -/
def Obligations.CopyDescriptorsSendAndComplete : Prop :=
  ∀ (s : State) (e : Fin 20),
    (∀ q rest ws, (s.copy e).queue = q :: rest → (s.copyWords e q).2 = some ws → s.domOn (blkDomain .cpe e) = true →
      (s.copy e).issuing = false →
      let y := (s.copyWords e q).1
      let x := reqDesc (ws.take 8)
      let w := fun i => (nthD (0 : Word) ws i).toNat
      let launch := w 8 + w 9 * 2 ^ 32
      launch ≤ s.now → (launch = 0 ∨ y.now ≤ launch + 1) → w 10 = 0 → w 11 = 0 → x.accepted false = true →
      let a := gaLocal x.target
      let lets := fun (n : Nat) => y.lets q.grant q.chan q.secure a n true = true
      let sent := fun (i : Instr) (op : MemOp) => ∃ (u : State) (c : CopyDesc) (r : Req), exec i s = .next u ∧
        (u.copy e).queue = (y.copy e).queue.drop 1 ∧ (u.copy e).running = (y.copy e).running ++ [c] ∧ c.op = x.op ∧
        c.left = 1 ∧ c.status = stOK ∧ c.epoch = (y.copy e).epoch ∧ u.reg64 (cpeB e + CPE_CUR_LO.off) = q.addr % 2 ^ 64 ∧
        u.waitsAt a = y.waitsAt a ++ [r] ∧ r.addr = a ∧ r.op = op ∧ r.land = .copy e c.id ∧ u.mem = y.mem ∧ u.tags = y.tags
      (x.op ≠ opFENCE → y.copyDenied q x = false → x.counter = false → y.ownBlock x.target x.len = true →
        y.ownBlock x.source x.len = true → y.stackCalm (gaLocal x.source / 0x2000000000) = true →
        y.waitsAt (gaLocal x.source) = [] → y.poisoned (gaLocal x.source) x.len = false → y.fabric.held = [] →
        (y.copy e).waiting = [] → (y.copy e).out < 512 →
        (x.flag = true → y.earlierWrites y.fabric.nextReq = false) →
        let data := readBytes y.mem (gaLocal x.source) x.len
        (x.op = opWRITE → lets x.len → sent (.cpeWrite e) (.write data)) ∧
        (x.op = opCOPY → lets x.len → sent (.cpeCopy e) (.copyData data)) ∧
        (x.op = opATOMIC → lets (atomicLen x.aop x.size64 data) → sent (.cpeAtomic e) (.atomic x.aop x.size64 data))) ∧
      (x.op = opFENCE → (∀ c ∈ (y.copy e).running, c.id ≠ (y.copy e).nextId ∧ (c.op = opFENCE → c.left = 0)) →
        ∃ u c, exec (.cpeFence e) s = .next u ∧ (u.copy e).running = (y.copy e).running ++ [c] ∧ c.op = opFENCE ∧
          (u.copy e).epoch = (y.copy e).epoch + 1 ∧ u.mem = y.mem ∧
          ((∃ d ∈ (y.copy e).running, 0 < d.left) → c.left = 1) ∧
          ((y.copy e).running = [] → c.left = 0 ∧
            (c.status, c.bytes) = mapGet (stOK, 0) (y.copy e).acks (y.copy e).epoch))) ∧
    (∀ c rest, (s.copy e).running = c :: rest → c.left = 0 →
      let words := completionWord c.status c.bytes ++ toBytes s.now 8
      ∃ v : State, (v.copy e).running = rest ∧ v.mem = s.mem ∧
        v.fld (cpeB e) CPE_DONE.COUNT = min (s.fld (cpeB e) CPE_DONE.COUNT + 1) (2 ^ 32 - 1) ∧
        (c.status = stDENIED → v.flag (cpeB e) CPE_EVENTS.DENIED = true) ∧
        (c.sub.cmd = none → exec (.cpeDescriptorComplete e) s =
          .next (v.engineWrite (.copy e) c.sub (c.sub.addr + 48) words).1) ∧
        (∀ h ps, c.sub.cmd = some (h, ps) → exec (.cpeDescriptorComplete e) s =
          .next (v.finish h 0x0204 c.status (bytesToWords64 words)))) ∧
    (∀ before f after, (s.copy e).running = before ++ f :: after → (∀ c ∈ before, c.left = 0) → f.op = opFENCE → 0 < f.left →
      let a := mapGet (stOK, 0) (s.copy e).acks f.epoch
      ∃ u, exec (.fenceComplete (.copy e)) s = .next u ∧ u.mem = s.mem ∧ (u.copy e).running =
        (s.copy e).running.map fun c => if c.id = f.id then { c with left := 0, status := a.1, bytes := a.2 } else c) ∧
    (∀ (d : Fin 12) (t : Fin 768) (f : TileReq), (s.tile d t).reqs = [f] → f.op = opFENCE → f.first < f.limit →
      f.first < 5120 → s.domOn (domS d) = true → (s.die d).upsets = [] → s.tag d t f.first = .empty → (∀ g, (s.die d).sCut.mem g = false) →
      let a := mapGet (stOK, 0) (s.tile d t).acks f.epoch
      ∃ u, exec (.fenceComplete (.tile d t)) s = .next u ∧ (u.tile d t).reqs = [] ∧ u.tag d t f.first = .full ∧
        u.mem = writeBytes s.mem (slotAddr d t f.first) (completionWord a.1 a.2))

/-! ### Links, routing and remote memory (R301-R336, R342-R355, R504) -/

/-- The link layer of a port. In UP: a good data flit with the expected SEQ hands over its packets and moves the SEQ on; a flit
of an uncorrectable block is discarded and answered by one NAK, which goes out in the next block, whose idle tail CREDIT flits
fill; a NAK replays the retry buffer from its SEQ; CREDIT brings
credits and estimates; QUARANTINE, and each cause of R310, take the port DOWN, which empties the link, raises the path epoch
and knocks where ENABLE is 1. In training the peer's IDENT leads to UP or MISWIRED, the time limit to DOWN; a knock leads from
DOWN to training. RELEASE, RETRAIN and ENABLE act on the state they name (R304, R306-R310, R325, R330, R333, R335, R336,
R504). -/
def Obligations.PortsFollowTheirLinkEvents : Prop :=
  ∀ (s : State) (p : Fin 36) (ws : List Word) (cnt : BitVec 16) (rev : Bool),
    let x := s.port p
    let on := s.flag (prtB p) PRT_CTRL.ENABLE
    let word0 := flitWord ws 0
    let y := x.acked (bitsOf word0 19 10)
    let entry := fun i => if i % 2 = 0 then flitWord ws (3 + i / 2) % 65536 else flitWord ws (3 + i / 2) / 65536
    let credits := ((List.range 112).map fun i => (i, entry i)).filter fun e => e.2 != 0
    let est := (bitsOf (flitWord ws 2) 7 0, bitsOf (flitWord ws 2) 15 8, bitsOf (flitWord ws 2) 23 16)
    let fresh := x.blockCount = none ∨ ∃ b, x.blockCount = some b ∧ b ≠ cnt.toNat ∧ (b + 1) % 65536 = cnt.toNat
    let isDown := fun (i : Instr) => ∃ u, exec i s = .next u ∧ u.portState p = psDOWN ∧ (u.port p).knocking = on ∧ u.mem = s.mem
    let leaves := fun (i : Instr) => ∃ u, exec i s = .next u ∧ u.portState p = psDOWN ∧ (u.port p).knocking = on ∧
      (u.port p).retry = [] ∧ (u.port p).outQ = [] ∧ (u.port p).rxPkts = [] ∧ u.epoch = (s.epoch + 1) % 256 ∧ u.mem = s.mem
    let trains := fun (i : Instr) => ∃ u, exec i s = .next u ∧ u.portState p = psTRAINING ∧ (u.port p).knocking = false ∧
      (2, 0) ∈ (u.port p).control ∧ (u.port p).trainSince = s.now ∧ u.mem = s.mem
    (∀ fec, s.portState p = psUP → fec ≠ .uncorrectable → (fresh ∨ (x.blockCount = some cnt.toNat ∧ x.blockBad = false)) →
      flitGood ws = true → bitsOf word0 31 30 = 0 → bitsOf word0 29 20 = x.rxSeq →
      let r := assemble x.rxWords (bitsOf word0 5 0) ((ws.drop 1).take 62)
      ∃ u, exec (.flitReceive p fec cnt ws) s = .next u ∧ (u.port p).rxPkts = x.rxPkts ++ r.1 ∧ (u.port p).rxWords = r.2 ∧
        (u.port p).rxSeq = (x.rxSeq + 1) % 1024 ∧ (u.port p).discarding = false ∧ (u.port p).lastGood = s.now ∧ u.mem = s.mem) ∧
    (s.portState p = psUP → fresh → x.discarding = false →
      ∃ u, exec (.flitReceive p .uncorrectable cnt ws) s = .next u ∧ (u.port p).control = x.control ++ [(1, x.rxSeq)] ∧
        (u.port p).discarding = true ∧ (u.port p).rxSeq = x.rxSeq ∧ (u.port p).rxPkts = x.rxPkts ∧
        (x.txFlits.length < 5 → (u.port p).txFlits = [] ∧ (u.port p).txBlock = (x.txBlock + 1) % 65536 ∧
          (u.port p).blocks = x.blocks ++ [(x.txBlock, x.txFlits ++ s.controlFlit p 1 x.rxSeq ::
            List.replicate (4 - x.txFlits.length) (s.controlFlit p 0 0))]) ∧
        u.fld (prtB p) PRT_FEC_UE.COUNT = min (s.fld (prtB p) PRT_FEC_UE.COUNT + 1) (2 ^ 32 - 1) ∧ u.mem = s.mem) ∧
    (s.portState p = psUP → controlGood 1 ws = true →
      let seq := bitsOf (flitWord ws 1) 23 14
      (y.retry.any fun e => e.1 == seq) = true →
      ∃ u, exec (.nakReceive p ws) s = .next u ∧ (u.port p).retry = y.retry.dropWhile (fun e => e.1 != seq) ∧
        (u.port p).replaySeq = seq ∧ (u.port p).replays = (if y.replaySeq = seq then y.replays + 1 else 1) ∧
        u.fld (prtB p) PRT_RETRY.COUNT = min (s.fld (prtB p) PRT_RETRY.COUNT + 1) (2 ^ 32 - 1) ∧
        (u.port p).credits = credits ∧ u.mem = s.mem) ∧
    (s.portState p = psUP → controlGood 0 ws = true →
      ∃ u, exec (.creditReceive p ws) s = .next u ∧ (u.port p).credits = credits ∧
        mapGet? u.fabric.adverts (s.portPeer p) = some est ∧ (u.port p).lastGood = s.now ∧ u.regs = s.regs ∧ u.mem = s.mem) ∧
    (s.portState p = psTRAINING → controlGood 2 ws = true →
      let place := bitsOf (flitWord ws 59) 31 17
      let peer := bitsOf (flitWord ws 59) 16 11
      (∀ l, wiring s.place p place peer = some l → ∃ u, exec (.identReceive p ws rev) s = .next u ∧ u.portState p = psUP ∧
        u.portLevel p = l ∧ u.portPeer p = place ∧ u.fld (prtB p) PRT_STATUS.PEER_PORT = peer ∧
        u.flag (prtB p) PRT_EVENTS.UP = true ∧ (u.port p).knocking = false ∧ (u.port p).credits = credits ∧ u.mem = s.mem) ∧
      (wiring s.place p place peer = none → ∃ u, exec (.identReceive p ws rev) s = .next u ∧ u.portState p = psMISWIRED ∧
        u.portLevel p = 3 ∧ u.flag (prtB p) PRT_EVENTS.MISWIRED = true ∧ u.mem = s.mem)) ∧
    (s.portState p = psUP → controlGood 3 ws = true → leaves (.quarantineReceive p ws)) ∧
    (∀ c, s.portState p = psUP → s.downCause p c = true → leaves (.portDown p c)) ∧
    (s.portState p = psTRAINING → x.trainSince + 4000000 ≤ s.now → isDown (.trainingTimeout p)) ∧
    (s.portState p = psDOWN → on = true → trains (.portTrainStart p)) ∧
    (∀ role, 3 ≤ role → s.portState p = psQUARANTINED → (on = true → trains (.portRelease p role)) ∧
      (on = false → isDown (.portRelease p role))) ∧
    (s.portState p ≠ psQUARANTINED → s.portState p ≠ psOFF → (on = true → trains (.retrain p)) ∧
      (on = false → isDown (.retrain p))) ∧
    (s.portState p = psQUARANTINED → exec (.retrain p) s = .next s) ∧
    (∀ b, ∃ u, exec (.portEnable p b) s = .next u ∧ u.flag (prtB p) PRT_CTRL.ENABLE = b ∧ u.mem = s.mem ∧
      (s.portState p = psDOWN → b = true → u.portState p = psDOWN ∧ (u.port p).knocking = true) ∧
      (s.portState p ≠ psOFF → s.portState p ≠ psQUARANTINED → b = false →
        u.portState p = psDOWN ∧ (u.port p).knocking = false)) ∧
    (s.portState p = psDOWN → (x.knocking = false ∨ x.lastKnock + 200000 ≤ s.now) → on = true →
      exec (.knock p) s = .next (s.setPort p { x with lastKnock := s.now, knocking := true }))

/-- The router's work: a legal packet of this place is delivered with its input port; one of another place takes the port its route answers with
HOPS counted, and frees its units of the receive buffer; one with no route counts in GLP_UNREACH and is answered; a malformed
one is dropped and counted, and quarantines its port beyond the limit. Congestion samples move each estimate by an eighth. A
ROUTE_NOTICE raises the path epoch and loses the destinations it names; a resend timeout resends every unacknowledged request
to its destination, with SEQ as it was and the current epoch (R317, R321-R325, R330-R335, R355). -/
def Obligations.RouterMovesItsPackets : Prop :=
  ∀ (s : State) (pkt : Packet),
    let inMesh := fun (q : Fin 36) (ovr : Bool) => s.modPort q fun x =>
      { x with rxPkts := dropFirst (· == (pkt, ovr)) x.rxPkts,
               freed := mapPut x.freed (creditKey pkt.tc (hopClass pkt))
                 ((mapGet 0 x.freed (creditKey pkt.tc (hopClass pkt)) + packetUnits pkt) % 65536) }
    (∀ (q : Fin 36), s.packetLegal pkt false = true → s.arrived pkt = true → pkt.member = false →
      ∃ u, exec (.packetForward (some q) pkt false) s = .next u ∧
        u.fabric.delivered = s.fabric.delivered ++ [{ pkt with port := some q.val }] ∧
        u.port q = (inMesh q false).port q ∧ u.mem = s.mem ∧ u.regs = s.regs) ∧
    (∀ (q : Fin 36) r h out, s.packetLegal pkt false = true → s.arrived pkt = false → pkt.hops ≠ 14 →
      let v := inMesh q false
      (v.route pkt).2 = some (r, h) → lowest (fun port => (v.route pkt).1.queuedBytes port r.tc r.hops) h.ports = some out →
      bitOf r.word7.toNat 29 = false →
      exec (.packetForward (some q) pkt false) s = .next (((v.route pkt).1.modPort out fun x =>
        { x with outQ := x.outQ ++ [{ r with hops := r.hops + 1 }] }).portSend out)) ∧
    (∀ (q : Fin 36) ovr, s.packetLegal pkt ovr = false →
      ∃ u, exec (.packetForward (some q) pkt ovr) s = .next u ∧ u.fabric.delivered = s.fabric.delivered ∧ u.mem = s.mem ∧
        u.fld (prtB q) PRT_MALFORMED.COUNT = min (s.fld (prtB q) PRT_MALFORMED.COUNT + 1) (2 ^ 32 - 1) ∧
        (s.portState q = psUP → s.now < (s.port q).malStart + 200000 → (s.port q).malCount ≠ 0 →
          s.fld (prtB q) PRT_MAL_LIMIT.LIMIT ≤ (s.port q).malCount → u.portState q = psQUARANTINED)) ∧
    (s.arrived pkt = false →
      let v := { s with fabric := { s.fabric with inject := dropFirst (· == pkt) s.fabric.inject } }
      (v.route pkt).2 = none → exec (.packetForward none pkt false) s =
        .next (((v.route pkt).1.bump glpB GLP_UNREACH.COUNT).answerSource pkt stMEMBER_LOST)) ∧
    (∀ (n g y : Byte) peers, ∃ u, exec (.congSample n g y peers) s = .next u ∧ u.mem = s.mem ∧
      u.fld glpB GLP_CONG.NODE = congStep (s.fld glpB GLP_CONG.NODE) n.toNat ∧
      u.fld glpB GLP_CONG.GROUP = congStep (s.fld glpB GLP_CONG.GROUP) g.toNat ∧
      u.fld glpB GLP_CONG.SYSTEM = congStep (s.fld glpB GLP_CONG.SYSTEM) y.toNat ∧
      ∀ a, a ≠ glpB + GLP_CONG.off → u.reg a = s.reg a) ∧
    (∀ places : List Nat, pkt.kind = 0x80 → pkt.tc = 7 → pkt.dst = s.place → s.frameOk pkt = true →
      (s.window pkt.src).sort pkt.seq = .new →
      ∃ v : State, exec (.routeNotice pkt places) s = .next (places.foldl State.loseDest v) ∧ v.epoch = (s.epoch + 1) % 256 ∧
        (∀ q ∈ places, q ∈ v.fabric.unreachable) ∧ v.window pkt.src = (s.window pkt.src).take pkt.seq ∧
        v.fabric.delivered = dropFirst (· == pkt) s.fabric.delivered ∧ v.mem = s.mem) ∧
    (∀ (dst : BitVec 15) (seq : BitVec 16),
      (∃ x ∈ s.fabric.sent, x.dst = dst.toNat ∧ x.seq = seq.toNat ∧ x.grain + s.resendGrains ≤ s.now) →
      ∃ u, exec (.resendTimeout dst seq) s = .next u ∧ u.mem = s.mem ∧
        u.fabric.sent =
          s.fabric.sent.map (fun x => if x.dst = dst.toNat then { x with epoch := s.epoch, grain := s.now } else x) ∧
        u.fabric.inject = s.fabric.inject ++
          (s.fabric.sent.filter fun x => x.dst == dst.toNat).map fun x => s.reqPacket x.req x.seq)

/-- Remote memory: a request leaves with the next SEQ of its destination and stays in the retry store until an answer covers
it, which completes it at its source; one to an unreachable place completes with MEMBER_LOST. At the destination a new request
that nothing holds enters the queue of its block, and its SEQ is in the window; one applied before is counted and acknowledged
again, a read is read again, and a fetching atomic receives its stored response; a held one enters its queue once nothing
holds it. The acknowledgements of a place share a packet; an old value is answered by RESP_ACK, which frees the stored
response (R343-R355). Stated for accesses within one block of an own stack. -/
def Obligations.RemoteRequestsReachTheirHome : Prop :=
  ∀ (s : State) (pkt : Packet),
    let mine := pkt.dst = s.place
    let taken := s.takeDelivered pkt
    let answer := fun (i : Instr) (seq : Nat) (rep : Reply) (after : State → State) => ∀ x,
      s.fabric.sent.find? (fun x => x.dst == pkt.src && x.seq == seq) = some x →
      exec i s = .next (after (((({ taken with fabric := { taken.fabric with
        sent := s.fabric.sent.filter fun y => !(y.dst == pkt.src && y.seq == seq) } }) : State).landReq x.req rep).goesOn
          x.req.land))
    let applying := s.fabric.applying.any fun q => q.sources.contains (pkt.src, pkt.seq)
    let again := taken.bump rmtB RMT_DUP.COUNT
    (∀ i r, s.nextSend = some (i, r) →
      let out := ({ s with fabric := { s.fabric with reqQ := s.fabric.reqQ.eraseIdx i } } : State)
      (r.dst ≠ s.place → s.fabric.unreachable.contains r.dst = false →
        let seq := mapGet 0 s.fabric.seqNext r.dst
        ∃ u, exec .requestSend s = .next u ∧ u.fabric.reqQ = s.fabric.reqQ.eraseIdx i ∧
          u.fabric.sent = s.fabric.sent ++ [⟨r.dst, seq, r, s.epoch, s.now⟩] ∧
          u.fabric.inject = s.fabric.inject ++ [s.reqPacket r seq] ∧
          mapGet 0 u.fabric.seqNext r.dst = (seq + 1) % 65536 ∧ u.mem = s.mem ∧ u.regs = s.regs) ∧
      (r.dst ≠ s.place → s.fabric.unreachable.contains r.dst = true →
        exec .requestSend s = .next ((out.landReq r ⟨stMEMBER_LOST, [], false⟩).goesOn r.land)) ∧
      (r.dst = s.place →
        exec .requestSend s = .next (((out.controlAccess r).1.landReq r (out.controlAccess r).2).goesOn r.land))) ∧
    (mine → (pkt.kind = 0x01 ∨ pkt.kind = 0x03 ∨ pkt.kind = 0x04 ∨ pkt.kind = 0x05 ∨ pkt.kind = 0x60) →
      (pkt.kind = 0x05 → atomicReturns (combAop pkt) = true → s.respFull = false) →
      (s.window pkt.src).sort pkt.seq = .new → pkt.src ≠ s.place → pkt.space = 0 → pkt.addr < 0x18000000000 →
      let op := packetOp pkt
      let key := s.fabric.nextReq
      let r := remoteReq pkt key pkt.seq (pkt.srcDie * 1024 + pkt.srcUnit) op
      let x : InReq := ⟨key, r, pkt.kind, 0, stOK, [], false, [(pkt.src, pkt.seq)]⟩
      let v := s.setWindow pkt.src ((s.window pkt.src).take pkt.seq)
      op.fits pkt.addr = true → s.partLets false pkt.addr op.len = true → v.flagHeld x = false → v.blockHeld x = false →
      ∃ u q, exec (.remoteRequestReceive pkt) s = .next u ∧ u.waitsAt pkt.addr = s.waitsAt pkt.addr ++ [q] ∧
        q.addr = pkt.addr ∧ q.op = op ∧ q.place = pkt.src ∧ q.land = .remote key 0 ∧
        u.window pkt.src = (s.window pkt.src).take pkt.seq ∧ (u.fabric.applying.any (sameIn key)) = true ∧
        u.mem = s.mem ∧ u.tags = s.tags ∧ u.regs = s.regs) ∧
    (mine → (s.window pkt.src).sort pkt.seq = .duplicate →
      ((pkt.kind = 0x03 ∨ pkt.kind = 0x04 ∨ pkt.kind = 0x60) → applying = false →
        ∃ u, exec (.remoteRequestReceive pkt) s = .next u ∧
          u.fabric.acks = s.fabric.acks ++ [(pkt.src, pkt.seq, mapGet stOK (s.window pkt.src).bad pkt.seq, s.now)] ∧
          u.fld rmtB RMT_DUP.COUNT = min (s.fld rmtB RMT_DUP.COUNT + 1) (2 ^ 32 - 1) ∧ u.mem = s.mem ∧
          u.stackMap = s.stackMap) ∧
      (pkt.kind = 0x01 → exec (.remoteRequestReceive pkt) s = .next (again.acceptPacket pkt)) ∧
      (∀ e, pkt.kind = 0x05 → atomicReturns (combAop pkt) = true → applying = false →
        s.fabric.resp.find? (fun e => e.1 == pkt.src && e.2.1 == pkt.seq) = some e →
        exec (.remoteRequestReceive pkt) s = .next (again.inject { e.2.2 with epoch := s.epoch }))) ∧
    (∀ (src : BitVec 15) (seq : BitVec 16),
      (∀ q, src.toNat ≠ s.place → s.fabric.applying.find?
          (fun q => q.sources.contains (src.toNat, seq.toNat) && s.fabric.held.contains q.req) = some q →
        s.flagHeld q = false → s.blockHeld q = false →
        exec (.heldRequestRelease src seq) s = .next
          (({ s with fabric := { s.fabric with held := dropFirst (· == q.req) s.fabric.held } } : State).applyRemote q.req)) ∧
      (∀ r, src.toNat = s.place →
        s.fabric.held.find? (fun r => r.place == src.toNat && r.id % 65536 == seq.toNat) = some r →
        let rest := dropFirst (· == r) s.fabric.held
        let out := ({ s with fabric := { s.fabric with held := rest } } : State)
        (r.flag = true → out.earlierWrites r.id = false) → out.heldBefore r = false → s.entryOk r = true →
        r.addr < 0x18000000000 →
        ∃ u, exec (.heldRequestRelease src seq) s = .next u ∧ u.fabric.held = rest ∧
          u.waitsAt r.addr = s.waitsAt r.addr ++ [r] ∧ u.mem = s.mem ∧ u.tags = s.tags ∧ u.regs = s.regs)) ∧
    (∀ dst : BitVec 15,
      let of := s.fabric.acks.filter fun a => a.1 == dst.toNat
      of ≠ [] → ∃ u, exec (.ackSend dst) s = .next u ∧
        u.fabric.inject = s.fabric.inject ++ [s.packet 2 0x08 dst.toNat 0 0
          ((of.take 512).flatMap fun (a : Nat × Nat × Nat × Nat) => ackEntry a.2.1 a.2.2.1)] ∧
        (u.fabric.acks.filter fun a => a.1 == dst.toNat) = of.drop 512 ∧
        (u.fabric.acks.filter fun a => a.1 != dst.toNat) = (s.fabric.acks.filter fun a => a.1 != dst.toNat) ∧
        u.mem = s.mem ∧ u.regs = s.regs) ∧
    (∀ seq st, mine → pkt.kind = 0x08 → ackEntries pkt = [(seq, st)] → answer (.ackReceive pkt) seq ⟨st, [], false⟩ id) ∧
    (∀ st poison, mine → pkt.kind = 0x02 →
      answer (.readRespReceive pkt st poison) pkt.seq ⟨st, pkt.payload, poison⟩ id) ∧
    (∀ st, mine → pkt.kind = 0x06 → answer (.atomicRespReceive pkt st) pkt.seq ⟨st, pkt.payload, false⟩
      fun u => u.inject (u.packet 2 0x09 pkt.src 0 pkt.job (ackEntry pkt.seq 0))) ∧
    (mine → pkt.kind = 0x09 → ∃ u, exec (.respAckReceive pkt) s = .next u ∧ u.mem = s.mem ∧ u.regs = s.regs ∧
      u.fabric.resp = s.fabric.resp.filter fun e => !(e.1 == pkt.src && (ackEntries pkt).any fun a => a.1 == e.2.1))

/-! ### Collectives (R370-R393) -/

/-- A member enters a call: the engine reads its record, gives it the next sequence number of its rank, stores the number in
the record, lists the call with its fingerprint, counts it in COL_CALLS, and lets its round advance. A vote that a die waits
for enters as a VOTE call of the die's member (R191, R374-R378). -/
def Obligations.MembersEnterTheirCalls : Prop :=
  ∀ s : State,
    (∀ (die : Fin 14) (rec : Word64), ∀ e ∈ collCommands,
      let y := s.colRead die rec.toNat 64
      let ws := (leWords 4 (fitBytes 64 y.2.data)).map (BitVec.ofNat 32)
      let id := callWord ws 1
      ∀ t rank, s.ownAddr rec.toNat = true → y.2.status = stOK → callOp ws = e.2 → y.1.team? id = some t →
        (List.range t.members.length).find? (fun r => (nthD (0 : Word) t.members r).toNat == callWord ws 2) = some rank →
        y.1.resolveMember (callWord ws 2) = some (y.1.place, die.val) → callOk ws t.members.length = true →
        y.1.callAddrs ws rank t.members.length = true → (y.1.coll.calls.filter fun c => c.team == id && c.rank == rank).length < 16 →
        t.faulted = 0 →
        let seq := t.next rank
        let w := (y.1.setTeam id { t with nextSeq := mapPut t.nextSeq rank (seq + 1) }).colWrite die (rec.toNat + 12)
          (toBytes seq 4) false
        ∃ (v : State) (c : CallX), exec (e.1 die rec) s = .next (v.advanceRound id seq false) ∧
          v.coll.calls = w.coll.calls ++ [c] ∧ c.team = id ∧ c.seq = seq ∧ c.die = die ∧ c.rank = rank ∧ c.words = ws ∧
          c.fingerprint = fingerprint id seq ws ∧ c.vote = false ∧ c.waiting = none ∧ c.own = none ∧
          v.fld colB COL_CALLS.COUNT = min (w.fld colB COL_CALLS.COUNT + 1) (2 ^ 32 - 1) ∧
          v.coll.rounds.any (sameRound id seq) = true ∧ v.mem = w.mem) ∧
    (∀ (d : Fin 12) (team : Word) (ovf unable : Bool) t home rank, s.flag (dsqB d) TNM_STATUS.VOTING = true →
      (s.coll.calls.any fun c => c.vote && c.die == d && c.run == (s.die d).run) = false →
      s.fld (dsqB d) TNM_VOTE_TEAM.TEAM = team.toNat → s.flag (dsqB d) TNM_STATUS.STEP_OVF = ovf →
      s.flag (dsqB d) TNM_STATUS.UNABLE = unable → s.team? team.toNat = some t →
      (List.range t.members.length).find? (fun r => decide (nthD (0, 0) t.homes r = (s.place, d.val))) = some home →
      let member := (nthD (0 : Word) t.members home).toNat
      (List.range t.members.length).find? (fun r => (nthD (0 : Word) t.members r).toNat == member) = some rank →
      s.resolveMember member = some (s.place, d.val) →
      (s.coll.calls.filter fun c => c.team == team.toNat && c.rank == rank).length < 16 → t.faulted = 0 →
      ∃ (v : State) (c : CallX), exec (.collVote d team ovf unable) s = .next (v.advanceRound team.toNat (t.next rank) false) ∧
        v.coll.calls = s.coll.calls ++ [c] ∧ c.team = team.toNat ∧ c.seq = t.next rank ∧ c.die = d ∧ c.rank = rank ∧
        c.vote = true ∧ c.words = voteWords team.toNat member ovf unable ∧ v.mem = s.mem)

/-- What the engine does with the messages of other nodes, silence and time: an up-message becomes an input of its round; a
release goes to the nodes below and starts the data phase or ends the call; an aligned completion is written at CGRAIN; chunks,
acknowledgements and DONE messages enter their round; heartbeats are answered; a lost parent or input is dropped from the
team; RESUME sends from its chunk on, and a package that asks for a chunk of a BCAST gets it from SRC; a timeout sends up what has entered (R380-R393). -/
def Obligations.CollectiveRoundsFollowTheirMessages : Prop :=
  ∀ (s : State) (team seq : Word) (t : TeamX), s.team? team.toNat = some t →
    let id := team.toNat
    let n := seq.toNat
    let r := s.round id n
    (∀ m : UpMessage, m.team = team → m.seq = seq →
      let level := levelOf s.place m.child
      let mine := fun (e : Nat × UpMessage) => e.1 == level && e.2.child == m.child
      (r.inputs.any mine = false ∨ m.timedOut = true) →
      ∃ v : State, exec (.upMessageReceive m) s = .next (v.advanceRound id n m.timedOut) ∧
        (v.round id n).inputs = (r.inputs.filter fun e => !mine e) ++ [(level, m)] ∧
        (∃ t', v.team? id = some t' ∧ mapGet 0 t'.heard m.child = s.now) ∧ v.mem = s.mem) ∧
    (∀ (m : ReleaseMsg) (p : Nat) (c : CallX), m.team = team → m.seq = seq → t.parent = some p → s.roundCalls id n = [c] →
      let told := s.coll.out ++ (t.children s.place).map fun q => ColMsg.release q m
      (m.agreement = true → ∃ (v : State) (t' : TeamX), exec (.releaseReceive m) s = .next (v.startData t' c.words id n) ∧
        v.team? id = some t' ∧ v.coll.out = told ∧ v.mem = s.mem) ∧
      (m.agreement = false → ∃ v : State, v.coll.out = told ∧ v.coll.rounds.any (sameRound id n) = false ∧
        v.coll.calls = s.coll.calls ∧ (m.status ≠ stOK → ∃ t', v.team? id = some t' ∧ t'.faulted = m.status) ∧ v.mem = s.mem ∧
        let w := if m.status = stMEMBER_LOST then v.undefineDst r m c else v
        ((c.vote = true ∨ callAligned c.words = false ∨ m.cgrain.toNat ≤ w.now) →
          exec (.releaseReceive m) s = .next (w.completeCall c m)) ∧
        (c.vote = false → callAligned c.words = true → s.now < m.cgrain.toNat → m.status ≠ stMEMBER_LOST →
          exec (.releaseReceive m) s = .next { v with coll := { v.coll with calls := v.coll.calls.map fun x =>
            if x.team = c.team ∧ x.seq = c.seq ∧ x.rank = c.rank then { x with waiting := some m } else x } }))) ∧
    (∀ (die : Fin 14) (c : CallX) (m : ReleaseMsg), (s.roundCalls id n).find? (fun c => c.die == die.val) = some c →
      c.waiting = some m → m.cgrain.toNat ≤ s.now → exec (.alignedCompletion team seq die) s = .next (s.completeCall c m) ∧
      (c.own = none → c.vote = false → callOp c.words ≠ 1 → callPair c.words 12 = 0 → ∃ v : State,
        s.completeCall c m = v.putRecord c.die c.words (colRecord m.status c.seq m.cgrain.toNat
          (if m.status = stOK then m.result.toNat else 0) m.flags m.survivors.length m.sourceLost) ∧
        v.coll.calls = s.coll.calls.filter (fun x => !sameCall x c) ∧ v.mem = s.mem)) ∧
    (∀ (m : ChunkMsg) (c : CallX) (cs : List CallX), m.team = team → m.seq = seq → s.roundCalls id n = c :: cs →
      (m.up = true → callOp c.words ≠ 4 →
        let level := levelOf s.place m.sender
        (r.parts.any fun e => e.1 == level && e.2.1 == m.sender && e.2.2.1 == m.chunk) = false →
        ∃ v : State, exec (.chunkReceive m) s = .next ((v.chunkUp t c.words id n m.chunk).doneCheck t c.words id n) ∧
          (v.round id n).parts = r.parts ++ [(level, m.sender, m.chunk, m.data)] ∧ v.mem = s.mem) ∧
      ((m.up = false ∨ callOp c.words = 4) → callOp c.words ≠ 5 → ∃ v : State,
        exec (.chunkReceive m) s = .next ((v.chunkDown t id n m.chunk m.data).doneCheck t c.words id n) ∧
        v.coll.rounds = s.coll.rounds ∧ v.coll.calls = s.coll.calls ∧ v.mem = s.mem) ∧
      (∀ x, m.up = false → callOp c.words = 5 → (c :: cs).find? (fun x => x.rank == callRoot c.words) = some x →
        r.written.contains m.chunk = false → ∃ v : State, exec (.chunkReceive m) s = .next (v.doneCheck t c.words id n) ∧
          (v.round id n).written = r.written ++ [m.chunk] ∧
          v.mem = ((s.hear id m.sender).callWrite x (m.chunk * 0x100000) m.data).mem)) ∧
    (∀ (child : BitVec 15) chunk, r.unacked.contains (child.toNat, chunk) = true →
      ∃ u, exec (.chunkAckReceive team seq child chunk) s = .next u ∧
        (u.round id n).acked = r.acked ++ [(child.toNat, chunk)] ∧ u.mem = s.mem) ∧
    (∀ (child : BitVec 15) ranks flags (c : CallX) (cs : List CallX), s.roundCalls id n = c :: cs →
      (r.done.any fun d => d.1 == child.toNat) = false →
      ∃ v : State, exec (.doneReceive team seq child ranks flags) s = .next (v.doneCheck t c.words id n) ∧
        (v.round id n).done = r.done ++ [(child.toNat, ranks)] ∧ (v.round id n).flags = Nat.lor r.flags flags ∧ v.mem = s.mem) ∧
    (∀ peer : BitVec 15, s.teamBusy id = true → ∃ u, exec (.heartbeat team peer) s = .next u ∧
      u.coll.out = s.coll.out ++ [.heartbeat peer.toNat id] ∧
      u.team? id = some { t with heard := mapPut t.heard peer.toNat s.now } ∧ u.mem = s.mem) ∧
    (∀ p, t.parent = some p → (s.silent id p t = true ∨ (s.fabric.unreachable.contains p && s.teamBusy id) = true) →
      let np := t.nextParent s.place (addNew t.lost p)
      let rounds := s.coll.rounds.filter fun r => r.team == id
      ∃ (v : State) (t' : TeamX), v.team? id = some t' ∧ t'.parent = np ∧ t'.lost = addNew t.lost p ∧
        t'.extra = t.extra.filter (· != p) ∧ v.fld colB COL_REATTACH.COUNT = min (s.fld colB COL_REATTACH.COUNT + 1) (2 ^ 32 - 1) ∧
        v.flag colB COL_EVENTS.REATTACH = true ∧ v.coll.rounds = s.coll.rounds ∧ v.mem = s.mem ∧
        (∀ q, np = some q → exec (.parentLost team) s = .next (rounds.foldl (fun s r => s.resumeRound id q r) v)) ∧
        (np = none → exec (.parentLost team) s = .next (rounds.foldl (fun s r => s.takeRoot id r) v))) ∧
    (∀ child : BitVec 15, (t.children s.place).contains child.toNat = true → s.silent id child.toNat t = true →
      ∃ (v : State) (t' : TeamX), v.team? id = some t' ∧ t'.lost = addNew t.lost child.toNat ∧
        t'.extra = t.extra.filter (· != child.toNat) ∧ t'.parent = t.parent ∧ v.mem = s.mem ∧ v.coll.rounds = s.coll.rounds ∧
        (∀ q ∈ t'.children s.place, (t.children s.place).contains q = false → mapGet 0 t'.heard q = s.now) ∧
        (∀ x, s.coll.rounds.filter (fun r => r.team == id) = [x] →
          (x.agreed = false → exec (.inputLost team child) s = .next (v.advanceRound id x.seq false)) ∧
          (x.agreed = true → exec (.inputLost team child) s = .next (v.roundWithout id child.toNat x))) ∧
        (s.coll.rounds.filter (fun r => r.team == id) = [] → exec (.inputLost team child) s = .next v)) ∧
    (∀ (child : BitVec 15) chunk, s.coll.rounds.any (sameRound id n) = true →
      (r.written.all fun k => decide (k < chunk) || (mapGet? r.chunks k).isSome) = true →
      ∃ u, exec (.resumeReceive team seq child ⟨chunk, false⟩) s = .next u ∧ u.mem = s.mem ∧ (u.round id n).acked =
        (r.acked.filter fun e => e.1 != child.toNat) ++ (List.range chunk).map fun k => (child.toNat, k)) ∧
    (∀ (asker : BitVec 15) k x,
      (s.roundCalls id n).find? (fun c => callOp c.words == 4 && c.rank == callRoot c.words) = some x →
      let y := s.callRead x (k * 0x100000) (chunkLen x.words k)
      exec (.resumeReceive team seq asker ⟨k, true⟩) s = .next (y.1.colSend (.chunk asker.toNat
        ⟨BitVec.ofNat 32 id, BitVec.ofNat 32 n, y.1.place, true, k, fitBytes (chunkLen x.words k) y.2.data⟩))) ∧
    (∀ (die : Fin 14) (c : CallX), (s.roundCalls id n).find? (fun c => c.die == die.val) = some c →
      c.entered + t.timeout ≤ s.now → c.waiting = none → r.agreed = false →
      exec (.callTimeout team seq die) s = .next (s.advanceRound id n true))

/-! ### Clocks and the timebase (R394-R408, R506) -/

/-- Sensors, clock demands and the timebase. A sample is kept, and its limits demand their periods; a demand whose condition
has been clear for its time ends; DROOP demands its period at once. A locked package sends TB_SYNC on every port in UP and
answers requests; a SYNC of the upstream is followed by a request, and the eighth offset sets or slews the counter; a lost
upstream leads to another or to HOLDOVER; PPS locks and steers the grandmaster; RESELECT follows the best upstream;
TB_NOW_LO latches the high word (R397, R398, R401, R402, R404, R405, R407, R408, R506). -/
def Obligations.ClocksAndTimebaseFollowTheirInputs : Prop :=
  ∀ s : State,
    let msg := fun (stamp : Nat) => (⟨stamp, s.fld tbB TB_STATUS.DISTANCE, s.flag tbB TB_STATUS.PPS_LOCKED,
      s.fld tbB TB_GM_PLACE.PLACE⟩ : TbMsg)
    let sends := fun (i : Instr) (ms : List (Nat × Nat × TbMsg)) => ∃ u, exec i s = .next u ∧
      u.fabric.tc4 = s.fabric.tc4 ++ ms ∧ u.tb.now = s.tb.now ∧ u.regs = s.regs ∧ u.mem = s.mem
    (∀ (d : Fin 14) region temp mv, region < regionsOf d → (∀ e ∈ s.sensorsOf d, e.1 < 16) →
      ∃ u, exec (.sensorSample [⟨.die d region, temp, mv⟩]) s = .next u ∧
        mapGet? (u.sensorsOf d) region = some (temp, mv) ∧ u.mem = s.mem ∧
        (95 ≤ temp → mapGet? (u.demandsOf d) (16 + region) = some 0x2000) ∧
        (mv < -30 → mapGet? (u.demandsOf d) (48 + region) = some 0x1400)) ∧
    (∀ (k : Fin 12) temp mv, ∃ u, exec (.sensorSample [⟨.stack k, temp, mv⟩]) s = .next u ∧
      mapGet? u.pwr.stackTemp k = some temp ∧ u.mem = s.mem ∧ (88 ≤ temp → (mapGet? (u.demandsOf k) 100).isSome = true)) ∧
    (∀ (d : Fin 14) (cause : Fin 6) (e : Nat × Nat), (s.demandsOf d).filter (fun e => causeBit e.1 == cause.val) = [e] →
      s.calmFor d e.1 (if cause.val = 5 then 64 else 2000) = true →
      ∃ u, exec (.clockDemandEnd d cause) s = .next u ∧ mapGet? (u.demandsOf d) e.1 = none ∧ u.mem = s.mem) ∧
    (∀ (d : Fin 14) region, region < regionsOf d → (∀ e ∈ s.demandsOf d, e.2 < 2 ^ 16) →
      ∃ u, exec (.droopDetect d region) s = .next u ∧ mapGet? (u.demandsOf d) (48 + region) = some 0x1400 ∧
        u.clockNow d = max (s.clockNow d) (u.clockTarget d) ∧ u.mem = s.mem) ∧
    (s.tbState = tbLOCKED → sends .tbSyncSend
      (((List.range 36).filter fun p => s.portState p == psUP).map fun p => (p, 0x70, msg (s.now * 65536)))) ∧
    (∀ (p : Fin 36) m rx, s.portState p = psUP → ∃ u, exec (.tbSync p m rx) s = .next u ∧
      mapGet? u.tb.peers p = some (m.distance, m.gmPlace, m.ppsLocked, s.now) ∧ u.tb.now = s.tb.now ∧ u.mem = s.mem ∧
      (u.upstream = some p.val → u.tb.sync = some (p.val, m.stamp, rx, s.now * 65536) ∧
        ∃ q, u.fabric.tc4 = s.fabric.tc4 ++ [(p.val, 0x71, q)] ∧ q.stamp = s.now * 65536)) ∧
    (∀ (p : Fin 36) m rx, s.portState p = psUP → s.tbState = tbLOCKED →
      sends (.tbDelayReq p m rx) [(p.val, 0x72, msg rx)]) ∧
    (∀ (p : Fin 36) (m : TbMsg) t1 t2 t3, s.tb.sync = some (p.val, t1, t2, t3) → s.upstream = some p.val →
      let off : Int := (((t2 : Int) - t1) - ((m.stamp : Int) - t3)) / 2
      let avg := (s.tb.offsets ++ [off]).foldl (· + ·) 0 / 8
      (s.tb.offsets.length < 7 → exec (.tbDelayResp p m) s =
        .next { s with tb := { s.tb with sync := none, offsets := s.tb.offsets ++ [off] } }) ∧
      (s.tb.offsets.length = 7 → s.tbState = tbACQUIRING → s.tb.locked = false →
        ∃ u, exec (.tbDelayResp p m) s = .next u ∧ u.tbState = tbLOCKED ∧ u.tb.locked = true ∧ u.tb.offsets = [] ∧
          u.now = ((s.now : Int) + (-avg + 32768) / 65536).toNat ∧ u.flag tbB TB_EVENTS.LOCK = true ∧ u.mem = s.mem) ∧
      (s.tb.offsets.length = 7 → s.tbState = tbLOCKED →
        ∃ u, exec (.tbDelayResp p m) s = .next u ∧ u.tbState = tbLOCKED ∧ u.tb.slew = -avg ∧ u.now = s.now ∧ u.mem = s.mem)) ∧
    (∀ p, s.upstream = some p →
      let gone := { s with tb := { s.tb with peers := mapErase s.tb.peers p, offsets := [], sync := none } }
      (s.portState p ≠ psUP ∨ (mapGet (0, 0, false, 0) s.tb.peers p).2.2.2 + 10000 ≤ s.now) →
      (gone.bestUpstream = none → s.tbState = tbLOCKED → ∃ u, exec .upstreamLoss s = .next u ∧ u.tbState = tbHOLDOVER ∧
        u.flag tbB TB_EVENTS.HOLDOVER = true ∧ u.now = s.now ∧ u.mem = s.mem) ∧
      (∀ q, gone.bestUpstream = some q → q < 36 → s.tbGM = false → ∃ u, exec .upstreamLoss s = .next u ∧
        u.fld tbB TB_STATUS.UPSTREAM = q ∧ u.now = s.now ∧ u.mem = s.mem)) ∧
    (s.tbGM = true → s.flag tbB TB_CTRL.PPS_EN = true →
      let start := s.reg64 (tbB + TB_START_LO.off)
      (s.tbState = tbFREE → s.tb.locked = false → ∃ u, exec .ppsEdge s = .next u ∧ u.tbState = tbLOCKED ∧ u.now = start ∧
        u.fld tbB TB_STATUS.DISTANCE = 0 ∧ u.flag tbB TB_STATUS.PPS_LOCKED = true ∧ u.tb.locked = true ∧ u.mem = s.mem) ∧
      (s.tbState ≠ tbFREE → ∃ u, exec .ppsEdge s = .next u ∧ u.tb.ppsCount = s.tb.ppsCount + 1 ∧ u.tb.ppsMissed = 0 ∧
        u.tb.slew = ((start + (s.tb.ppsCount + 1) * 200000000 : Int) - s.now) * 65536 ∧
        u.flag tbB TB_STATUS.PPS_LOCKED = true ∧ u.now = s.now ∧ u.mem = s.mem) ∧
      (s.tbState ≠ tbFREE → ∃ u, exec .ppsMiss s = .next u ∧ u.tb.ppsMissed = s.tb.ppsMissed + 1 ∧
        u.tbState = s.tbState ∧ u.now = s.now ∧ u.mem = s.mem ∧
        (1 ≤ s.tb.ppsMissed → u.flag tbB TB_STATUS.PPS_LOCKED = false))) ∧
    (∀ p, s.tbGM = false → s.bestUpstream = some p → p < 36 →
      let e := mapGet (0, 0, false, 0) s.tb.peers p
      ∃ u, exec .tbReselect s = .next u ∧ u.fld tbB TB_STATUS.UPSTREAM = p ∧
        u.fld tbB TB_STATUS.DISTANCE = (e.1 + 1) % 16 ∧ u.fld tbB TB_GM_PLACE.PLACE = e.2.1 % 2 ^ 15 ∧
        u.tbState = (if s.tbState = tbFREE then tbACQUIRING else s.tbState) ∧ u.now = s.now ∧ u.mem = s.mem) ∧
    exec .tbNowRead s = .next { s with tb := { s.tb with hiLatch := BitVec.ofNat 32 (s.now / 2 ^ 32) } }

/-! ### Channels and commands (R316, R409-R411, R446-R473) -/

/-- A channel at work. Its owner's word enters the request queue, where a word beyond the eighth is dropped with one
QUEUE_FULL for its packet; KEEPALIVE restarts the idle timer; RESYNC empties the queue; a word of another sender is dropped
and logged. The controller takes the words of a packet, and once it is whole checks it, queues its acknowledgement and holds
an accepted command. An acknowledgement is written where bit ACK is clear, NAKs are counted, an accepted command is
outstanding, and EARLY gets its interim reply. A read of CH_RSP_LO takes one word, and the last of a final reply ends its
command. An idle session closes, a standing one does not. A management word beyond the eighth gets no acknowledgement of its
own (R449, R450, R452-R455, R458, R465, R530, R531). -/
def Obligations.ChannelsCarryTheirWords : Prop :=
  ∀ (s : State) (n : Nat), chanExists n = true →
    let c := s.chan n
    let b := chB n
    let fresh := c.session.map fun x => { x with last := s.now }
    let bell := fun (u : State) (i : Nat) => bitOf (u.reg (b + CH_DB_IN.off)).toNat i = true
    let all := c.taken ++ c.reqQ
    (∀ (who : Agent) (w : Word64), s.ownsChan who n = true → s.hostHolds who = false →
      (c.reqQ.length < 8 →
        exec (.chReqPush who n w) s = .next (s.setChan n { c with reqQ := c.reqQ ++ [w], session := fresh })) ∧
      (8 ≤ c.reqQ.length → who ≠ .mgt → ∃ u, exec (.chReqPush who n w) s = .next u ∧ bell u 4 ∧ u.mem = s.mem ∧
        (c.discard = true → u.chan n = { c with session := fresh }) ∧
        (c.discard = false → u.chan n = { c with discard := true, taken := [], session := fresh, acks := c.acks ++
          [(BitVec.ofNat 32 ((nthD 0 all 0).toNat / 2 ^ 32), stQUEUE_FULL)] })) ∧
      (8 ≤ c.reqQ.length → who = .mgt →
        exec (.chReqPush who n w) s = .next { s with mgt := { s.mgt with nacks := s.mgt.nacks + 1 } }) ∧
      exec (.keepalive who n) s = .next (s.setChan n { c with session := fresh }) ∧
      (∃ u, exec (.resync who n) s = .next u ∧ u.chan n = { c with reqQ := [], taken := [], discard := false } ∧
        (c.reqQ ≠ [] → bell u 2) ∧ u.mem = s.mem ∧ u.pkc = s.pkc) ∧
      (∀ v vs k seq final more, c.rspQ = v :: vs → c.replies = (k, seq, final) :: more →
        ∃ u, exec (.chRspRead who n) s = .next u ∧ u.mem = s.mem ∧ u.pkc = s.pkc ∧
          u.chan n = { c with
            rspQ := vs
            rspHi := BitVec.ofNat 32 (v.toNat / 2 ^ 32)
            session := fresh
            replies := if k ≤ 1 then more else (k - 1, seq, final) :: more
            outstanding := if k ≤ 1 ∧ final = true then dropFirst (· == seq) c.outstanding else c.outstanding })) ∧
    (∀ (who : Agent) (w : Word64), s.ownsChan who n = false →
      (∀ i ∈ [Instr.chReqPush who n w, .keepalive who n, .resync who n],
        ∃ u, exec i s = .next u ∧ exec i s = .next (s.chanDenied who n) ∧ u.chans = s.chans ∧ u.mem = s.mem ∧ u.pkc = s.pkc) ∧
      exec (.chRspRead who n) s = .next s) ∧
    (s.pkcRuns = true → c.reqQ ≠ [] →
      (c.discard = true →
        ∃ u, exec (.commandPacketReceive n) s = .next u ∧ u.chan n = { c with reqQ := [] } ∧ u.pkc = s.pkc ∧ u.mem = s.mem) ∧
      (c.discard = false → c.acks = [] →
        ((∀ need, packetLen all = some need → all.length < need) → ∃ u, exec (.commandPacketReceive n) s = .next u ∧
          u.chan n = { c with taken := all, reqQ := [] } ∧ u.pkc = s.pkc ∧ u.mem = s.mem) ∧
        (∀ need, packetLen all = some need → need ≤ all.length →
          let ws := all.take need
          let h := s.hdrOf n ws
          let code := s.ackOf n ws
          ∃ u, exec (.commandPacketReceive n) s = .next u ∧ u.mem = s.mem ∧ u.pkc.forwards = s.pkc.forwards ∧
            u.chan n = { c with taken := [], reqQ := all.drop need, acks := [(h.seq, code)] } ∧
            u.pkc.held = if code ≠ stOK then s.pkc.held else s.pkc.held ++
              [{ hdr := h, opcode := headWord ws 0 / 65536, params := ws.drop 4, plen := bitsOf (headWord ws 3) 31 16,
                 acked := false, mute := false }]))) ∧
    (∀ seq code rest, c.acks = (seq, code) :: rest → ¬ bell s 1 →
      ∃ u, exec (.commandAcknowledge n) s = .next u ∧ (u.chan n).acks = rest ∧ bell u 1 ∧ u.mem = s.mem ∧
        u.reg (b + CH_ACK.off) = BitVec.ofNat 32 (seq.toNat % 65536 * 65536 + code) ∧
        (code ≠ stOK → u.fld b CH_NAK_COUNT.COUNT = min (s.fld b CH_NAK_COUNT.COUNT + 1) (2 ^ 32 - 1) ∧
          (u.chan n).outstanding = c.outstanding ∧ u.pkc = s.pkc) ∧
        (code = stOK → (u.chan n).outstanding = c.outstanding ++ [seq] ∧ u.pkc.held = (ackHeld n seq s.pkc.held).1 ∧
          (∀ e, (ackHeld n seq s.pkc.held).2 = some e → (u.chan n).rspQ = if e.hdr.early = false then c.rspQ else
            c.rspQ ++ pairWords (cmdHead e.opcode (flagREPLY + flagEARLY) e.hdr.seq e.hdr.target 0 n 0 stACCEPTED)))) ∧
    (∀ x, c.session = some x → (x.standing = true → exec (.sessionIdleTimeout n) s = .next s) ∧
      (x.standing = false → c.outstanding = [] → x.last + 2000000000 ≤ s.now →
        ∃ u, exec (.sessionIdleTimeout n) s = .next u ∧ bell u 3 ∧ u.mem = s.mem ∧
          (u.chan n).session = if n = 0x11 then some (standingSession 1 s.now) else none))

/-- A held command starts: at its launch grain in the order of R411, one at a time where its grain is 0, with INDIRECT
parameters read under the rights of its channel. A command for another package leaves as one frame with its launch grain
unchanged, and waits for that member; a frame that verifies runs at its member, waits there for its grain, or is answered with
the status of its checks; the member's reply becomes the command's reply, and a member without one for 50 ms is lost.
Management accesses read and write registers and are answered (R18-R23, R316, R409, R410, R418, R437, R447, R467, R468, R470,
R473, R488). -/
def Obligations.CommandsReachTheirMembers : Prop :=
  ∀ (s : State),
    let framed := fun (p : Packet) (kind : Nat) => s.pkcRuns = true ∧ p.kind = kind ∧ p.tc = 7 ∧ p.dst = s.place ∧
      s.frameOk p = true ∧ (s.window p.src).sort p.seq = .new
    let taken := fun (p : Packet) =>
      ({ s with fabric := { s.fabric with delivered := dropFirst (· == p) s.fabric.delivered } } : State).setWindow p.src
        ((s.window p.src).take p.seq)
    (∀ chan seq e rest, s.pkcRuns = true → s.pickHeld chan seq [] s.pkc.held = some (e, rest) →
      let t := { s with pkc := { s.pkc with held := rest } }
      let y := t.readFor e.hdr (paramBits e.params 0 63 0) (8 * e.plen)
      let h := { e.hdr with indirect := false }
      ∀ run, opBody e.opcode = some run →
        (e.hdr.indirect = false → exec (.commandLaunch chan seq) s = .next (t.start e.hdr e.opcode e.mute e.params run)) ∧
        (e.hdr.indirect = true → y.2.status = stOK →
          exec (.commandLaunch chan seq) s = .next (y.1.start h e.opcode e.mute (bytesToWords64 y.2.data) run)) ∧
        (e.hdr.indirect = true → y.2.status ≠ stOK → exec (.commandLaunch chan seq) s =
          .next ((y.1.beginCmd e.hdr e.opcode e.mute).finish e.hdr e.opcode y.2.status []))) ∧
    (∀ h : CmdHdr, h.member = false → unitLevel h.target.toNat = 2 → unitPlace h.target.toNat ≠ s.place →
      s.mgmtStatus = stOK → s.fabric.unreachable.contains (unitPlace h.target.toNat) = false →
      let body := memberFrame { h with member := true, entry := s.place, indirect := false } 0x0005 []
      ∃ u p r, exec (.nopCommand h []) s = .next u ∧ u.fabric.inject = s.fabric.inject ++ [p] ∧ p.kind = 0x78 ∧ p.tc = 7 ∧
        p.dst = unitPlace h.target.toNat ∧ p.payload.take (8 + body.length) = toBytes s.now 8 ++ body ∧
        u.pkc.forwards = s.pkc.forwards ++ [r] ∧ r.hdr = h ∧ r.waiting = [h.target.toNat] ∧ r.statuses = [] ∧
        u.chans = s.chans ∧ u.regs = s.regs ∧ u.mem = s.mem) ∧
    (∀ p, framed p 0x78 →
      let v := taken p
      let h := frameHdr p
      let op := frameWord p 0 / 65536
      let ps := bytesToWords64 ((frameBody p).drop 48)
      let code := v.checkCmd h.chan h.role op ps.length h.target.toNat h.launch.toNat true
      (code ≠ stOK → exec (.cmdFwd p) s = .next (v.finish h op code [])) ∧
      (code = stOK → s.now < h.launch.toNat → exec (.cmdFwd p) s = .next { v with pkc := { v.pkc with held := v.pkc.held ++
        [{ hdr := h, opcode := op, params := ps, plen := ps.length, acked := true, mute := false }] } }) ∧
      (∀ run, code = stOK → h.launch.toNat ≤ s.now → opBody op = some run →
        exec (.cmdFwd p) s = .next (run (v.beginCmd h op false) h ps))) ∧
    (∀ p r, framed p 0x79 →
      let v := taken p
      let op := frameWord p 0 / 65536
      let unit := frameWord p 2
      let st := frameWord p 6 / 65536
      let comp := frameWord p 4 + frameWord p 5 * 2 ^ 32
      s.pkc.forwards.find? (fun r => r.hdr.chan == bitsOf (frameWord p 3) 15 0 &&
        decide (r.hdr.seq = BitVec.ofNat 32 (frameWord p 1)) && !r.hdr.member && r.opcode == op && r.waiting.contains unit) =
          some r →
      let ps := bytesToWords64 ((frameBody p).drop 32)
      (r.waiting = [unit] → r.statuses = [] → op ≠ 0x0701 → exec (.cmdRpl p) s =
        .next (v.finishTop r.hdr op st (if st = stOK then ps else if op = 0x0410 then memberEntry (unit, st) :: ps
          else [memberEntry (unit, st)]) (max r.completion comp))) ∧
      (r.waiting.filter (· != unit) ≠ [] → ∃ u, exec (.cmdRpl p) s = .next u ∧ u.chans = s.chans ∧ u.mem = s.mem ∧
        ∃ r', u.cmdRec r.hdr op = some r' ∧ r'.waiting = r.waiting.filter (· != unit) ∧
          r'.statuses = r.statuses ++ [(unit, st)])) ∧
    (∀ chan seq (unit : Word) r, s.pkcRuns = true → r ∈ s.pkc.forwards → r.hdr.chan = chan → r.hdr.seq = seq →
      (∀ x ∈ s.pkc.forwards, x.hdr.chan = chan → x.hdr.seq = seq → x = r) → s.forwards r.hdr = true →
      r.waiting = [unit.toNat] → r.statuses = [] → max r.sentAt r.hdr.launch.toNat + 10000000 ≤ s.now →
      exec (.memberReplyTimeout chan seq unit) s =
        .next (s.finishTop r.hdr r.opcode stMEMBER_LOST [] (max r.completion s.now))) ∧
    (∀ p, framed p 0x7A →
      let v := taken p
      (∀ a, v.mgmtRegs p (bitsOf p.word7.toNat 12 0) = some [a] →
        let y := v.regRead .pkc a
        exec (.mgmtRead p) s = .next (y.1.mgmtAnswer p stOK (toBytes y.2.toNat 4))) ∧
      (let n := bitsOf p.word7.toNat 12 0
       v.mgmtRegs p n = none →
        exec (.mgmtRead p) s = .next ((v.logOff p.src p.job.toNat (mgmtSpan p n)).mgmtAnswer p stDENIED []))) ∧
    (∀ p, framed p 0x7B →
      let v := taken p
      let body := frameBody p
      (v.mgmtRegs p body.length = none → exec (.mgmtWrite p) s =
        .next ((v.logOff p.src p.job.toNat (mgmtSpan p body.length)).mgmtAnswer p stDENIED [])) ∧
      (∀ a as d o, v.mgmtRegs p body.length = some (a :: as) → locate a = some (.dsq, d, o) →
        (o = STR_DUE_LO.off → body.length = 8 → exec (.mgmtWrite p) s =
          .next ((v.memberDue p.job.toNat d (leNat body)).1.mgmtAnswer p (v.memberDue p.job.toNat d (leNat body)).2 [])) ∧
        (o = STR_CTRL.off → bitOf (leNat (body.take 4)) 31 = true →
          let x := v.regWrites 4 (a :: as) ((chunksOf 4 64 body).map fun b => BitVec.ofNat 32 (leNat b))
          exec (.mgmtWrite p) s =
            .next ((x.1.dropStratum p.job.toNat).mgmtAnswer p (if x.2 then stBUSY else stOK) []))) ∧
      (∀ a as, v.mgmtRegs p body.length = some (a :: as) → (∀ d o, locate a ≠ some (.dsq, d, o)) →
        let x := v.regWrites 4 (a :: as) ((chunksOf 4 64 body).map fun b => BitVec.ofNat 32 (leNat b))
        exec (.mgmtWrite p) s = .next (x.1.mgmtAnswer p (if x.2 then stBUSY else stOK) []))) ∧
    (∀ p status, framed p 0x7C →
      (status = stLATE → s.strRoot (s.strJob p.job.toNat) = true →
        exec (.mgmtResp p status) s = .next ((taken p).abandonStratum p.job.toNat stLATE)) ∧
      (status ≠ stLATE → exec (.mgmtResp p status) s = .next (taken p)))

/-- Commands that read: each gets one reply with the values that it asks for, and changes nothing else but what the read
itself does. NOP replies OK; SESSION_INFO gives role, slot, job and the idle time left; SESSION_CHALLENGE a fresh nonce, which
the channel keeps; REG_READ one word a register, DENIED where one does not lie in TARGET; TEAM_INFO, STRATUM_LIST, POWER_READ,
TB_READ, COUNTERS_READ, JOURNAL_READ, IDENTITY_READ and ATTEST what they name. A package without an identity attests nothing.
COUNTERS_READ at a cut waits for it. A reply longer than 60 words spills (R401, R457, R462, R471, R477, R478, R489, R505, R551,
R553, R559; layouts of parameters: DESIGN CHOICE, log entry 6). -/
def Obligations.QueriesReplyWithWhatTheyRead : Prop :=
  ∀ (s : State) (h : CmdHdr) (ps : List Word64),
    let w := fun (n : Nat) => BitVec.ofNat 64 n
    let quiet := fun (u : State) => u.mem = s.mem ∧ u.tags = s.tags ∧ u.sec = s.sec ∧ u.dies = s.dies ∧ u.pkc = s.pkc ∧
      u.coll = s.coll ∧ u.strata = s.strata ∧ u.pwr = s.pwr ∧ u.tb = s.tb ∧ u.jrn = s.jrn
    let answers := fun (i : Instr) (op st : Nat) (r : List Word64) => s.runsHere h op = true → r.length ≤ 60 →
      ∃ u, exec i s = .next u ∧ s.replied u h op st r ∧ quiet u
    answers (.nopCommand h ps) 0x0005 stOK [] ∧
    ((s.chan h.chan).session = none → answers (.sessionInfo h ps) 0x0004 stOK [0, 0]) ∧
    (∀ x, (s.chan h.chan).session = some x → answers (.sessionInfo h ps) 0x0004 stOK
      [w (x.role + x.slot * 2 ^ 8 + s.sessionJob h.chan * 2 ^ 32), w (x.idleLeft s.now)]) ∧
    (s.runsHere h 0x0001 = true → ∃ u, exec (.sessionChallenge h ps) s = .next u ∧ quiet u ∧ u.freeCount = s.freeCount + 1 ∧
      (u.chan h.chan).nonce = some (Config.freeBytes s.freeCount 32, s.now) ∧
      s.replied u h 0x0001 stOK (bytesToWords64 (Config.freeBytes s.freeCount 32))) ∧
    (let n := paramBits ps 0 47 32
     let as := regRun ps n
     let plain := fun (a : Nat) => match locate a with
       | some (.ch, _, _) => False
       | some (.tb, _, o) => o ≠ TB_NOW_LO.off
       | _ => True
     (1 ≤ n → (∀ a ∈ as, s.regIn h.target.toNat a = true ∧ plain a) →
       answers (.regRead h ps) 0x0104 stOK (as.map fun a => w (s.view a).toNat)) ∧
     ((n = 0 ∨ 64 < n ∨ ∃ a ∈ as, s.regIn h.target.toNat a = false) → s.runsHere h 0x0104 = true →
       ∃ u, exec (.regRead h ps) s = .next u ∧ s.replied u h 0x0104 stDENIED [] ∧
         u.jrn = (s.logOff h.entry h.job.toNat as).jrn ∧ u.mem = s.mem ∧ u.tags = s.tags ∧ u.dies = s.dies)) ∧
    (let id := (nthD (0 : Word64) ps 0).toNat % 2 ^ 32
     (s.team? id = none → answers (.teamInfo h ps) 0x0310 stDENIED []) ∧
     (∀ t, s.team? id = some t → answers (.teamInfo h ps) 0x0310 stOK
       [w t.members.length, w (bit1 (t.faulted != 0)), w (leastOf ((t.ranksAt s.place).map t.next))])) ∧
    answers (.stratumList h ps) 0x0406 stOK ((s.strJob (paramBits ps 0 31 0)).committed.flatMap fun c =>
      [w c.1, w c.2.1, w c.2.2.1, w c.2.2.2]) ∧
    answers (.powerRead h ps) 0x0503 stOK [w (s.fld pwrB PWR_NOW.WATTS), w (s.fld pwrB PWR_PERIOD.PERIOD_Q12)] ∧
    answers (.tbRead h ps) 0x0603 stOK [w s.now, w (s.reg (tbB + TB_STATUS.off)).toNat] ∧
    (let set := paramBits ps 0 3 0
     (7 ≤ set → answers (.countersRead h ps) 0x0701 stDENIED []) ∧
     (∀ d, set < 7 → s.onDie h d = true → dieCounters set d ≠ [] →
       ((paramBits ps 0 8 8 = 0 ∨ 12 ≤ d) → answers (.countersRead h ps) 0x0701 stOK ((dieCounters set d).flatMap fun r =>
         [w (s.dieUnit d), w (s.counterValue r)])) ∧
       (paramBits ps 0 8 8 = 1 → d < 12 → s.runsHere h 0x0701 = true → ∃ u, exec (.countersRead h ps) s = .next u ∧
         (u.die d).atCut = (s.die d).atCut ++ [(h, set)] ∧ (u.cmdRec h 0x0701).isSome = true ∧ u.chans = s.chans ∧
         u.mem = s.mem ∧ u.regs = s.regs))) ∧
    (let first := paramBits ps 0 31 0
     let count := paramBits ps 0 47 32
     let r := w (s.jrn.oldest + s.jrn.next * 2 ^ 32) ::
       entryParams ((s.jrn.entries.filter fun e => decide (first ≤ e.seq)).take count) ++
       pairWords (s.jrn.jobRecords.flatMap jobWords)
     ((count = 0 ∨ 1024 < count) → answers (.journalRead h ps) 0x0702 stDENIED []) ∧
     (1 ≤ count → count ≤ 1024 → answers (.journalRead h ps) 0x0702 stOK r ∧
       (s.runsHere h 0x0702 = true → s.spills h.chan r = true →
         let a := s.reg64 (chB h.chan + CH_SPILL_LO.off)
         let y := s.writeGlobal .pkc 0 a (word64Bytes r) false
         y.2.status = stOK → ∃ u, exec (.journalRead h ps) s = .next u ∧ u.mem = y.1.mem ∧
           (u.chan h.chan).rspQ = (y.1.chan h.chan).rspQ ++ (pairWords (cmdHead 0x0702 (flagREPLY + flagINDIRECT) h.seq h.target
             r.length h.chan s.now stOK) ++ [w a])))) ∧
    answers (.identityRead h ps) 0x0807 stOK
      (bytesToWords64 (fitBytes 64 s.identityKey) ++ [w (s.fld secB SEC_STATUS.PUF), 0xA1]) ∧
    (s.pufFail = true → answers (.attest h ps) 0x0806 stINTERNAL []) ∧
    (let m := s.report (paramBytes ps 0 4)
     s.pufFail = false → answers (.attest h ps) 0x0806 stOK (bytesToWords64 (fitBytes 272 (m ++ edSign s.sec.identitySecret m))))

/-- Commands that set what the package controller keeps: each replies once and changes its own part alone. Sessions open on a
proof that verifies and close with their doorbell; a written or revoked key slot closes the sessions opened against it;
rights, partition and ownership take the values given; MRT_WRITE fills entries of the routing table; TB_CONFIG and TB_RELEASE
set up a grandmaster and let it start, BUSY and DENIED where they may not; EVT_SUBSCRIBE sets or drops the classes of TARGET;
JOURNAL_CLEAR empties the journal; CAP_SET sets the cap; DOMAIN_STATE starts a change, which replies when it is done, or says
why not; RESET names its grain; REG_WRITE writes by the access codes, BUSY where an RWL field was rejected (R6, R10, R317,
R408, R460, R463, R465, R480, R481, R483, R490-R492, R496-R499, R505, R546, R547, R553; layouts of parameters and what is
refused for its fields: DESIGN CHOICE, log entry 6). -/
def Obligations.SettersChangeTheirOwnPart : Prop :=
  ∀ (s : State) (h : CmdHdr) (ps : List Word64),
    let p := paramBits ps
    let does := fun (i : Instr) (op st : Nat) (r : List Word64) (post : State → Prop) => s.runsHere h op = true →
      ∃ u, exec i s = .next u ∧ s.replied u h op st r ∧ post u ∧ u.mem = s.mem ∧ u.tags = s.tags ∧ u.dies = s.dies ∧
        u.stackMap = s.stackMap
    let low := fun (u : State) => ∀ a, a < 0xEA00000 → u.reg a = s.reg a
    let closed := fun (u : State) (slot : Nat) => keysRise 0 s.chans = true → ∀ n, n ≠ 0x11 →
      (u.chan n).session = (s.chan n).session.filter fun x => x.standing || x.slot != slot
    (does (.sessionClose h ps) 0x0003 stOK [] fun u => low u ∧ u.sec = s.sec ∧ ∀ x, (s.chan h.chan).session = some x →
      (u.chan h.chan).session = if h.chan = 0x11 ∧ x.standing = false then some (standingSession 1 s.now) else none) ∧
    (let st := s.proofStatus h.chan (p 0 11 8) (p 0 2 0) ((paramBytes ps 1 15).take 114)
     does (.sessionOpen h ps) 0x0002 st [] fun u => low u ∧ u.sec = s.sec ∧ (u.chan h.chan).nonce = none ∧
       (u.chan h.chan).session = if st ≠ stOK then (s.chan h.chan).session else
         some { role := p 0 2 0, slot := p 0 11 8, job := 0, last := s.now, standing := false }) ∧
    (let slot := p 0 3 0
     let ty := p 0 6 4
     let may := h.role ≠ 0 ∨ (s.unclaimed = true ∧ ty = slotVERIFY ∧ p 0 10 8 = 4)
     let made := fun (key secret : List Byte) => (⟨ty, p 0 10 8, p 1 6 0, p 0 12 12 == 1, key, secret⟩ : KeySlot)
     let with_ := fun (u : State) (key secret : List Byte) =>
       u.sec = { s.sec with slots := mapPut s.sec.slots slot (made key secret) }
     ((keyFieldsOk ps = false ∨ ¬ may ∨ (ty = slotMAC ∧ s.macPath h = false)) →
       does (.keyWrite h ps) 0x0801 stDENIED [] fun u => u.sec = s.sec ∧ u.freeCount = s.freeCount) ∧
     (keyFieldsOk ps = true → may → (ty = slotMAC → s.macPath h = true) →
       (ty ≠ slotVERIFY → s.pufFail = true → does (.keyWrite h ps) 0x0801 stINTERNAL [] fun u => u.sec = s.sec) ∧
       (ty = slotSIGN → s.pufFail = false →
         let secret := Config.freeBytes s.freeCount 57
         does (.keyWrite h ps) 0x0801 stOK (bytesToWords64 (fitBytes 64 (edPublic secret))) fun u =>
           with_ u (edPublic secret) secret ∧ u.freeCount = s.freeCount + 1 ∧ closed u slot ∧ low u) ∧
       (ty ≠ slotSIGN → (ty = slotVERIFY ∨ s.pufFail = false) → does (.keyWrite h ps) 0x0801 stOK [] fun u =>
         with_ u ((paramBytes ps 2 8).take (if ty = slotMAC then 32 else 57)) [] ∧ closed u slot ∧ low u)) ∧
     (does (.keyRevoke h ps) 0x0802 stOK [] fun u => u.sec = { s.sec with slots := mapErase s.sec.slots slot } ∧ closed u slot ∧
       low u)) ∧
    (let n := p 0 8 0
     let es := ps.drop 1
     let good := chanExists n = true ∧ p 0 21 16 ≠ 0 ∧ es.length = p 0 21 16 ∧ ∀ e ∈ es, bitsOf e.toNat 63 62 ≤ 1
     (good → does (.rightsSet h ps) 0x0803 stOK [] fun u => u.sec = { s.sec with rights := mapPut s.sec.rights n es } ∧ low u) ∧
     (¬ good → does (.rightsSet h ps) 0x0803 stDENIED [] fun u => u.sec = s.sec ∧ low u)) ∧
    (let base := p 0 63 0
     let limit := p 1 63 0
     let good := base % 2 ^ 24 = 0 ∧ limit % 2 ^ 24 = 0 ∧ limit < 2 ^ 45 ∧ base ≤ limit
     (good → does (.partitionSet h ps) 0x0804 stOK [] fun u =>
       u.sec = { s.sec with partBase := base, partLimit := limit } ∧ low u) ∧
     (¬ good → does (.partitionSet h ps) 0x0804 stDENIED [] fun u => u.sec = s.sec ∧ low u)) ∧
    (let unit := p 0 31 0
     let n := p 0 56 48
     let good := s.unitOk unit = true ∧ unitLevel unit = 1 ∧ unitDie unit ≤ 13 ∧ unitPlace unit = s.place
     (¬ good → does (.ownershipSet h ps) 0x0805 stBAD_UNIT [] fun u => u.sec = s.sec) ∧
     (good → p 0 57 57 = 1 → does (.ownershipSet h ps) 0x0805 stOK [] fun u =>
       u.sec = { s.sec with owners := mapErase s.sec.owners (unitDie unit) }) ∧
     (good → p 0 57 57 = 0 → chanExists n = true → does (.ownershipSet h ps) 0x0805 stOK [] fun u =>
       u.sec = { s.sec with owners := mapPut s.sec.owners (unitDie unit) n })) ∧
    (let first := p 0 18 0
     let es := ps.drop 1
     let at_ := fun (i : Nat) => glpB + MEMBER_TABLE.off + 8 * (first + i)
     (first + es.length ≤ 524288 → does (.mrtWrite h ps) 0x0205 stOK [] fun u =>
       (∀ i e, es[i]? = some e → u.reg (at_ i) = (BitVec.ofNat 32 e.toNat &&& 0xFFFC7FFF) ∧
         u.reg (at_ i + 4) = (BitVec.ofNat 32 (e.toNat / 2 ^ 32) &&& 0xF)) ∧
       ∀ a, a < 0xEA00000 → (a < at_ 0 ∨ at_ es.length ≤ a) → u.reg a = s.reg a) ∧
     (524288 < first + es.length → does (.mrtWrite h ps) 0x0205 stDENIED [] low)) ∧
    ((s.tb.locked = true → does (.tbConfig h ps) 0x0601 stBUSY [] low) ∧
     (s.tb.locked = false → does (.tbConfig h ps) 0x0601 stOK [] fun u => u.fld tbB TB_CTRL.GM = p 0 0 0 ∧
       u.fld tbB TB_CTRL.PPS_EN = p 0 1 1 ∧ u.reg64 (tbB + TB_START_LO.off) = p 1 63 0 ∧ u.tb = s.tb) ∧
     (s.tbGM = false → does (.tbRelease h ps) 0x0602 stDENIED [] fun u => u.tb = s.tb ∧ low u) ∧
     (s.tbGM = true → (s.tbState ≠ tbFREE ∨ s.tb.locked = true) →
       does (.tbRelease h ps) 0x0602 stBUSY [] fun u => u.tb = s.tb ∧ low u) ∧
     (s.tbGM = true → s.tbState = tbFREE → s.tb.locked = false →
       (s.flag tbB TB_CTRL.PPS_EN = true → does (.tbRelease h ps) 0x0602 stOK [] fun u => u.tb = s.tb ∧ low u) ∧
       (s.flag tbB TB_CTRL.PPS_EN = false → s.runsHere h 0x0602 = true → ∃ u, exec (.tbRelease h ps) s = .next u ∧
         u.tbState = tbLOCKED ∧ u.now = s.reg64 (tbB + TB_START_LO.off) ∧ u.fld tbB TB_STATUS.DISTANCE = 0 ∧ u.mem = s.mem ∧
         (u.chan h.chan).rspQ = (s.chan h.chan).rspQ ++
           pairWords (cmdHead 0x0602 flagREPLY h.seq h.target 0 h.chan (s.reg64 (tbB + TB_START_LO.off)) stOK)))) ∧
    (let m := p 0 11 0
     let subs := (s.chan h.chan).subs
     does (.evtSubscribe h ps) 0x0703 stOK [] fun u => low u ∧ u.sec = s.sec ∧
       (u.chan h.chan).subs = if m = 0 then mapErase subs h.target.toNat else mapPut subs h.target.toNat m) ∧
    (does (.journalClear h ps) 0x0704 stOK [] fun u => u.jrn = { s.jrn with ring := [], buf := [] } ∧ low u) ∧
    (let cap := (nthD (0 : Word64) ps 0).toNat % 4
     (cap = 3 → does (.capSet h ps) 0x0501 stDENIED [] low) ∧
     (cap ≠ 3 → does (.capSet h ps) 0x0501 stOK [] fun u => u.fld pwrB PWR_CAP.CAP = cap ∧
       ∀ a, a < 0xEA00000 → a ≠ pwrB + PWR_CAP.off → u.reg a = s.reg a)) ∧
    (let n := p 0 7 0
     let st := p 0 9 8
     let bad := domainExists n = false ∨ n = domAON ∨ n = domHost ∨ (n = domFC ∧ st = 2) ∨ st = 3 ∨ s.keptOff n = true
     (bad → does (.domainState h ps) 0x0502 stDENIED [] fun u => low u ∧ u.pwr = s.pwr) ∧
     (¬ bad → ((mapGet? s.pwr.changing n).isSome = true ∨ s.domAllowed n st = false) →
       does (.domainState h ps) 0x0502 stBUSY [] fun u => low u ∧ u.pwr = s.pwr) ∧
     (¬ bad → mapGet? s.pwr.changing n = none → s.domAllowed n st = true →
       (s.domState n = st → does (.domainState h ps) 0x0502 stOK [] fun u => u.flag pwrB PWR_EVENTS.DOMAIN_DONE = true ∧
         u.pwr = s.pwr) ∧
       (s.domState n ≠ st → s.runsHere h 0x0502 = true → ∃ u, exec (.domainState h ps) s = .next u ∧
         mapGet? u.pwr.changing n = some (st, some h) ∧ u.domState n = s.domState n ∧
         u.fld (pwrB + PWR_DOM.stride * n) PWR_DOM.CHANGING = 1 ∧
         (st ≠ 0 → u.fld (pwrB + PWR_DOM.stride * n) PWR_DOM.ISOLATED = 1) ∧ (u.cmdRec h 0x0502).isSome = true ∧
         (u.chan h.chan).rspQ = (s.chan h.chan).rspQ ∧ u.mem = s.mem))) ∧
    (let ty := p 0 1 0
     let die := if ty = 2 then p 0 11 8 else 0
     let lowered := if ty = 2 then (if die < 12 then [die] else []) else List.range 12
     let open_ := ∃ k ∈ lowered, s.memOpen k = true ∨ s.scrOpen k = true
     ((ty = 3 ∨ 13 < die) → does (.reset h ps) 0x0504 stDENIED [] fun u => u.pkc = s.pkc ∧ low u) ∧
     (ty ≠ 3 → die ≤ 13 → (s.tripHolds = true ∨ open_) →
       does (.reset h ps) 0x0504 stBUSY [] fun u => u.pkc = s.pkc ∧ low u) ∧
     (ty ≠ 3 → die ≤ 13 → s.tripHolds = false → ¬ open_ → s.runsHere h 0x0504 = true →
       let g := if h.launch.toNat = 0 then s.now + 2000 else max s.now h.launch.toNat
       ∃ u, exec (.reset h ps) s = .next u ∧ u.pkc = { s.pkc with resets := s.pkc.resets ++ [(ty, die, g)] } ∧ low u ∧
         u.mem = s.mem ∧ (u.chan h.chan).rspQ = (s.chan h.chan).rspQ ++
           pairWords (cmdHead 0x0504 flagREPLY h.seq h.target 0 h.chan g stOK))) ∧
    (∀ a v b u o r i, ps = [BitVec.ofNat 64 (a + 2 ^ 32), v] → s.regIn h.target.toNat a = true →
      descOf a = some (b, u, o, r, i) → plainBlock b = true → routeTable a = false →
      let runs := s.ownerRuns b u o
      does (.regWrite h ps) 0x0105 (if runs && r.rwl != 0 then stBUSY else stOK) [] fun t =>
        t.reg a = codedValue r runs (s.reg a) (v.setWidth 32) ∧ ∀ x, x < 0xEA00000 → x ≠ a → t.reg x = s.reg x)

/-- Commands to compute dies: each die of the target has its part, a die that another channel owns or whose domain is not ON is
DENIED, and one reply answers for all. UNIT_ARM sets the start grain and arms; UNIT_STOP and UNIT_ABORT act as the registers do; TASK_SET writes a
task by the access codes, at the next cut of a die that runs, and behind the clear of what other jobs held; MODE_SET sets the
modes of the job's tasks; SCR_CLEAR starts a clear, BUSY where one runs (R8, R18, R21, R24, R98-R102, R173, R174, R492, R497). -/
def Obligations.DieCommandsActOnTheirDies : Prop :=
  ∀ (s : State) (h : CmdHdr) (ps : List Word64) (d : Fin 12),
    let p := paramBits ps
    let on := fun (op : Nat) => s.runsHere h op = true ∧ s.onDie h d = true
    let low := fun (u : State) => ∀ a, a < 0xEA00000 → u.reg a = s.reg a
    let here := fun (a : Nat) (mask v : Word) => (s.reg a &&& ~~~mask) ||| (v &&& mask)
    (let g := p 0 63 0
     let t := s.setReg64 (dsqB d + DSQ_START_GRAIN_LO.off) g
     on 0x0101 →
     (∀ n, s.dieState d = dsSTOPPED → s.dieLoading d = false → s.domOn (domC d) = true →
       (g = 0 ∨ 2 ≤ s.fld tbB TB_STATUS.STATE) → (List.range 16).find? (t.runnable d) = some n →
       ∃ u, exec (.unitArm h ps) s = .next u ∧
         u.dieState d = (if g = 0 ∨ g < s.now then dsRUNNING else dsARMED) ∧ u.taskOf d = n ∧
         u.reg64 (dsqB d + DSQ_START_GRAIN_LO.off) = g ∧ u.mem = s.mem ∧ s.replied u h 0x0101 stOK []) ∧
     ((s.dieState d ≠ dsSTOPPED ∨ s.dieLoading d = true) → ∃ u, exec (.unitArm h ps) s = .next u ∧ low u ∧ u.mem = s.mem ∧
       u.dies = s.dies ∧ s.replied u h 0x0101 stBUSY []) ∧
     (s.dieState d = dsSTOPPED → s.dieLoading d = false → (List.range 16).find? (t.runnable d) = none →
       ∃ u, exec (.unitArm h ps) s = .next u ∧ u.dieState d = dsSTOPPED ∧ u.mem = s.mem ∧ u.dies = s.dies ∧
         s.replied u h 0x0101 stBUSY [])) ∧
    (on 0x0102 → s.dieState d ≠ dsSTOPPED → s.dieState d ≠ dsLOADING →
      ∃ u, exec (.unitStop h ps) s = .next u ∧ (u.die d) = { s.die d with stopPending := true } ∧ low u ∧ u.mem = s.mem ∧
        s.replied u h 0x0102 stOK []) ∧
    (s.runsHere h 0x0102 = true → unitLevel h.target.toNat = 2 →
      let out := (List.range 12).filter fun k => s.excluded h k || !s.dieOn k
      ∃ u, exec (.unitStop h ps) s = .next u ∧ low u ∧ u.mem = s.mem ∧ s.replied u h 0x0102 (if out = [] then stOK else stDENIED)
          (out.map fun k => memberEntry (s.dieUnit k, stDENIED)) ∧
        (∀ k, k < 12 → u.die k = if k ∈ out ∨ s.dieState k = dsSTOPPED ∨ s.dieState k = dsLOADING then s.die k
          else { s.die k with stopPending := true })) ∧
    (on 0x0103 → s.dieState d ≠ dsSTOPPED → s.dieState d ≠ dsLOADING →
      ∃ u, exec (.unitAbort h ps) s = .next u ∧ u.dieState d = dsSTOPPED ∧ u.flag (dsqB d) DSQ_EVENTS.STOPPED = true ∧
        (u.die d).flights = [] ∧ (u.die d).stopPending = false ∧ u.mem = s.mem ∧ u.tags = s.tags ∧
        s.replied u h 0x0103 stOK []) ∧
    (let n := p 0 35 32
     let cfg := tskB d n + TSK_CFG.off
     let job := tskB d n + TSK_JOB.off
     let scr := scrB d + 0x100 + 4 * n
     let need := s.foreignSlots d (p 0 31 31 == 1) (p 1 31 0) (p 1 60 48) (p 1 44 32)
     on 0x0106 →
     (need = [] → s.dieRuns d = false → ∃ u, exec (.taskSet h ps) s = .next u ∧ u.mem = s.mem ∧ u.tags = s.tags ∧
       u.reg cfg = here cfg 0x8FB0FFFF (BitVec.ofNat 32 (p 0 31 0)) ∧ u.reg job = BitVec.ofNat 32 (p 1 31 0) ∧
       u.reg scr = here scr 0x1FFF1FFF (BitVec.ofNat 32 (p 1 63 32)) ∧ s.replied u h 0x0106 stOK []) ∧
     (need = [] → s.dieRuns d = true → ∃ u, exec (.taskSet h ps) s = .next u ∧ u.mem = s.mem ∧ u.tags = s.tags ∧ low u ∧
       mapGet? u.shadow job = some ⟨0xFFFFFFFF, BitVec.ofNat 32 (p 1 31 0)⟩ ∧
       (∃ x, mapGet? u.shadow cfg = some x ∧ x.mask &&& 0x8FB0FFFF = 0x8FB0FFFF ∧
         x.val &&& 0x8FB0FFFF = BitVec.ofNat 32 (p 0 31 0) &&& 0x8FB0FFFF) ∧ s.replied u h 0x0106 stOK []) ∧
     (∀ c cs, need = c :: cs → (s.die d).clear = none → (∀ x ∈ need, s.clearRefused d x = false) →
       ∃ u, exec (.taskSet h ps) s = .next u ∧ low u ∧ u.mem = s.mem ∧ u.chans = s.chans ∧
         (u.cmdRec h 0x0106).isSome = true ∧ (u.die d).clear =
           some { c with go := (s.die d).wall, rest := cs.map fun e => (e.first, e.count), task := .set h ps })) ∧
    (s.runsHere h 0x0120 = true → unitLevel h.target.toNat = 2 → (∀ k, k < 12 → s.excluded h k = false ∧ s.dieOn k = true ∧ s.dieRuns k = false) →
      ∃ u, exec (.modeSet h ps) s = .next u ∧ u.mem = s.mem ∧ u.tags = s.tags ∧ s.replied u h 0x0120 stOK [] ∧
        ∀ k n, k < 12 → n < 16 → u.reg (tskB k n + TSK_CFG.off) =
          if s.taskValid k n = true ∧ s.tsk k n TSK_JOB.JOB = p 0 31 0 then
            here (tskB k n + TSK_CFG.off) 0x0F800000 (BitVec.ofNat 32 (modeBits ps))
          else s.reg (tskB k n + TSK_CFG.off)) ∧
    (on 0x0206 →
      ((s.die d).clear = none → s.dieRuns d = false → ∃ u, exec (.scrClear h ps) s = .next u ∧ u.mem = s.mem ∧
        u.tags = s.tags ∧ (u.die d).clear = some { clearRange (p 0 31 19) (p 0 18 6) with go := (s.die d).wall } ∧
        u.fld (scrB d) SCR_CLEAR.FIRST_SLOT = p 0 31 19 ∧ u.fld (scrB d) SCR_CLEAR.SLOT_COUNT = p 0 18 6 ∧
        s.replied u h 0x0206 stOK []) ∧
      ((s.die d).clear.isSome = true → ∃ u, exec (.scrClear h ps) s = .next u ∧ u.mem = s.mem ∧ u.tags = s.tags ∧
        u.dies = s.dies ∧ s.replied u h 0x0206 stBUSY []))

/-- Commands that access memory: MEM_READ, MEM_WRITE and MEM_FILL send their accesses with the security state of their channel
and the rights in force at their acknowledgement, and the last answer is the reply, with the bytes of a read; COPY enters the queue of engine 12, whose
completion replies, QUEUE_FULL where it is full and DENIED where its domain is not ON (R276, R447, R466, R471). Stated for accesses
within one block of an own stack. -/
def Obligations.MemoryCommandsReachMemory : Prop :=
  ∀ (s : State) (h : CmdHdr) (ps : List Word64),
    let p := paramBits ps
    let a := p 0 44 0
    let fits := fun (op n : Nat) (write : Bool) => s.runsHere h op = true ∧ a < 0x18000000000 ∧ 1 ≤ n ∧ a % 256 + n ≤ 256 ∧
      s.lets h.grant (some h.chan) (secureChan h.chan) a n write = true ∧ s.fabric.held = []
    let sends := fun (i : Instr) (op : Nat) (mop : MemOp) => ∃ (u : State) (q : Req) (x : FwdX), exec i s = .next u ∧
      u.waitsAt a = s.waitsAt a ++ [q] ∧ q.addr = a ∧ q.op = mop ∧ q.land = .pkc h op ∧ q.chan = some h.chan ∧
      q.secure = secureChan h.chan ∧ q.grant = h.grant ∧ u.cmdRec h op = some x ∧ x.waiting = [reqPart q.id] ∧ u.chans = s.chans ∧ u.mem = s.mem ∧
      u.tags = s.tags ∧ u.regs = s.regs
    let ends := fun (i : Instr) (op st : Nat) => s.runsHere h op = true →
      ∃ u, exec i s = .next u ∧ s.replied u h op st [] ∧ u.mem = s.mem ∧ u.stackMap = s.stackMap ∧ u.copies = s.copies
    (let n := p 0 63 48
     ((n < 8 ∨ 256 < n) → ends (.memRead h ps) 0x0201 stDENIED) ∧
     (8 ≤ n → fits 0x0201 n false → sends (.memRead h ps) 0x0201 (.read n))) ∧
    (∀ (k : Fin 12) (pc : Fin 64) q rest x n, mapGet [] (s.stack k).queues pc = q :: rest → q.land = .pkc h 0x0201 →
      q.op = .read n → 1 ≤ n → n ≤ 256 → q.addr % 256 + n ≤ 256 → homeOf q.addr = .stack k (q.addr % 0x2000000000) →
      s.stackCalm k = true → (∀ a ∈ (s.stack k).answers, pseudoChannel (a.1.addr - stackAddr k 0) ≠ pc) →
      s.poisoned q.addr n = false → s.cmdRec h 0x0201 = some x → x.waiting = [reqPart q.id] →
      x.statuses = [] → x.data = [] → x.mute = false → x.late = false → h.member = false →
      let r := bytesToWords64 (readBytes s.mem q.addr n)
      ∃ u, exec (.stackOpApply k pc) s = .next u ∧ u.mem = s.mem ∧ (u.chan h.chan).rspQ = (s.chan h.chan).rspQ ++
        (pairWords (cmdHead 0x0201 flagREPLY h.seq h.target r.length h.chan s.now stOK) ++ r)) ∧
    (let data := word64Bytes (ps.drop 1)
     fits 0x0202 data.length true → sends (.memWrite h ps) 0x0202 (.write data)) ∧
    (let n := p 1 63 0
     (2 ^ 45 < a + n → ends (.memFill h ps) 0x0203 stDENIED) ∧
     (a + n ≤ 2 ^ 45 → n = 0 → ends (.memFill h ps) 0x0203 stOK) ∧
     (fits 0x0203 n true → sends (.memFill h ps) 0x0203 (.write (fillPiece (paramBytes ps 2 1) 0 n)))) ∧
    (s.domOn (domK00 12) = false → ends (.copyCommand h ps) 0x0204 stDENIED) ∧
    (s.domOn (domK00 12) = true →
      (256 ≤ (s.copy 12).queue.length → ends (.copyCommand h ps) 0x0204 stQUEUE_FULL) ∧
      ((s.copy 12).queue.length < 256 → s.runsHere h 0x0204 = true → ∃ u, exec (.copyCommand h ps) s = .next u ∧
        (u.copy 12).queue = (s.copy 12).queue ++
          [(⟨0, some h.chan, secureChan h.chan, h.job.toNat, some (h, ps)⟩ : Submit)] ∧
        (u.cmdRec h 0x0204).isSome = true ∧ u.chans = s.chans ∧ u.mem = s.mem ∧ u.regs = s.regs))

/-! ### Teams and strata (R370-R373, R412-R445) -/

/-- TEAM_CREATE installs a team that R371 allows, from a unit or from a list in memory, and says why another is refused;
TEAM_DESTROY removes and TEAM_RESET restarts a team with no call outstanding. Where other packages host members the command
goes on as member commands to them. A team that is not known answers DENIED (R371-R373; the last, and how a command reaches
the other packages: DESIGN CHOICE, log entry 24). -/
def Obligations.TeamsAreMadeAndReset : Prop :=
  ∀ (s : State) (h : CmdHdr) (ps : List Word64),
    let w := fun (i : Nat) => (nthD (0 : Word64) ps i).toNat
    let id := w 0 % 2 ^ 32
    let size := w 0 / 2 ^ 32
    let timeout := w 1 % 2 ^ 32
    let does := fun (i : Instr) (op st : Nat) (post : State → Prop) => s.runsHere h op = true →
      ∃ u, exec i s = .next u ∧ s.replied u h op st [] ∧ post u ∧ u.mem = s.mem ∧ u.sec = s.sec ∧ u.dies = s.dies ∧
        u.strata = s.strata
    let reach := fun (homes : List (Nat × Nat)) => s.mgmtStatus = stOK ∧ ∀ e ∈ homes, s.fabric.unreachable.contains e.1 = false
    let frames := fun (u : State) (places : List Nat) => ∀ p ∈ places, ∃ q ∈ u.fabric.inject, q.kind = 0x78 ∧ q.tc = 7 ∧ q.dst = p
    (bitOf (w 1) 63 = true →
      (s.unitOk (w 2) = false → does (.teamCreate h ps) 0x0301 stBAD_UNIT fun u => u.coll = s.coll) ∧
      (s.unitOk (w 2) = true →
        let ms := s.unitMembers (id / 2 ^ 19) (w 2)
        let homes := ms.map fun m => (s.resolveMember m.toNat).getD (0, 0)
        (s.teamCheck id ms ≠ stOK → does (.teamCreate h ps) 0x0301 (s.teamCheck id ms) fun u => u.coll = s.coll) ∧
        (s.teamCheck id ms = stOK → (∀ e ∈ homes, e.1 = s.place) → does (.teamCreate h ps) 0x0301 stOK fun u =>
          ∃ t, u.team? id = some t ∧ t.members = ms ∧ t.homes = homes ∧ t.faulted = 0 ∧ t.nextSeq = [] ∧ t.lost = [] ∧
            t.timeout = (if timeout = 0 then 2000000 else timeout) ∧ t.parent = parentOf t.places s.place ∧
            t.job = h.job.toNat ∧ u.coll.rounds = s.coll.rounds ∧ u.coll.calls = s.coll.calls) ∧
        (s.teamCheck id ms = stOK → (∀ e ∈ homes, e.1 ≠ s.place) → s.runsHere h 0x0301 = true → reach homes →
          ∃ u r, exec (.teamCreate h ps) s = .next u ∧ frames u (s.hostPlaces ms) ∧ u.cmdRec h 0x0301 = some r ∧
            r.waiting = (s.hostPlaces ms).map (fun p => unitAddr p 2 0 0) ∧ u.coll = s.coll ∧ u.chans = s.chans ∧
            u.mem = s.mem))) ∧
    (bitOf (w 1) 63 = false →
      ((size = 0 ∨ 524288 < size) → does (.teamCreate h ps) 0x0301 stDENIED fun u => u.coll = s.coll) ∧
      (1 ≤ size → size ≤ 524288 → s.runsHere h 0x0301 = true →
        let y := (s.beginCmd h 0x0301 false).readFor h (w 2) (4 * size)
        let ms := (leWords 4 (fitBytes (4 * size) y.2.data)).map (BitVec.ofNat 32)
        let st := y.1.teamCheck id ms
        (y.2.status ≠ stOK → exec (.teamCreate h ps) s = .next (y.1.finish h 0x0301 stDENIED [])) ∧
        (y.2.status = stOK → st ≠ stOK → exec (.teamCreate h ps) s = .next (y.1.finish h 0x0301 st [])) ∧
        let away := ((s.beginCmd h 0x0301 false).hostPlaces ms).any fun p => p != s.place
        (y.2.status = stOK → st = stOK → away = false → exec (.teamCreate h ps) s =
          .next ((y.1.installTeam id ms timeout h.job.toNat).finish h 0x0301 stOK [])) ∧
        (y.2.status = stOK → st = stOK → away = true → exec (.teamCreate h ps) s =
          .next (y.1.spreadCmd h 0x0301 ps State.createHere ((s.beginCmd h 0x0301 false).hostPlaces ms))))) ∧
    (s.team? id = none → does (.teamDestroy h ps) 0x0302 stDENIED (fun u => u.coll = s.coll) ∧
      does (.teamReset h ps) 0x0303 stDENIED (fun u => u.coll = s.coll)) ∧
    (∀ t, s.team? id = some t → s.runsHere h 0x0302 = true → s.runsHere h 0x0303 = true → reach t.homes →
      (∃ e ∈ t.homes, e.1 ≠ s.place) → (∃ u, exec (.teamDestroy h ps) s = .next u ∧ frames u (t.places.filter (· != s.place))) ∧
        ∃ u, exec (.teamReset h ps) s = .next u ∧ frames u (t.places.filter (· != s.place))) ∧
    (∀ t, s.team? id = some t → (∀ e ∈ t.homes, e.1 = s.place) →
      (s.teamBusy id = true → does (.teamDestroy h ps) 0x0302 stBUSY (fun u => u.coll = s.coll) ∧
        does (.teamReset h ps) 0x0303 stBUSY (fun u => u.coll = s.coll)) ∧
      (s.teamBusy id = false →
        does (.teamDestroy h ps) 0x0302 stOK (fun u => u.team? id = none ∧ u.coll.calls = s.coll.calls ∧
          (∀ r ∈ u.coll.rounds, r.team ≠ id) ∧ ∀ j, j ≠ id → u.team? j = s.team? j) ∧
        does (.teamReset h ps) 0x0303 stOK (fun u => (∀ r ∈ u.coll.rounds, r.team ≠ id) ∧ u.coll.calls = s.coll.calls ∧
          u.team? id = some { t with faulted := 0, nextSeq := [], lost := [], extra := [], heard := [],
                                     parent := parentOf t.places s.place } ∧
          ∀ j, j ≠ id → u.team? j = s.team? j)))

/-- A job's strata. STRATUM_CONFIG keeps the record with the stores of this package and of the root; STRATUM_TENSOR registers
pieces and sets the capture ranges, BUSY where a range of a die with an open image would change; the root's STRATUM_ARM opens
a stratum, sets STR_DUE of its dies and replies when it ends, BUSY while one is open and LATE for a step that a die has
completed; the timer arms likewise. After the cut SHARD_FORM makes a digest job of every piece, and a finished one brings a
leaf with the digest of its bytes. The commit keeps the record's address and replies OK; a vote against the stratum, an
abandonment and a commit that does not come within 2^32 grains end it without a trace. RESTORE leaves the job step and the
record of what the newest stratum that verifies holds, or says what does not verify or match (R412-R419, R423-R428,
R434-R444). -/
def Obligations.StrataFollowTheirCommands : Prop :=
  ∀ (s : State) (h : CmdHdr) (ps : List Word64),
    let job := h.job.toNat
    let x := s.strJob job
    let p := paramBits ps
    let does := fun (i : Instr) (op st : Nat) (post : State → Prop) => s.runsHere h op = true →
      ∃ u, exec i s = .next u ∧ s.replied u h op st [] ∧ post u ∧ u.mem = s.mem ∧ u.sec = s.sec ∧ u.coll.teams = s.coll.teams
    let b := s.beginCmd h 0x0401 false
    let y := b.readFor h (p 0 63 0) 64
    let cfg : StrJob := { y.1.strJob job with config := (leWords 4 (fitBytes 64 y.2.data)).map (BitVec.ofNat 32) }
    (s.runsHere h 0x0401 = true →
      (y.2.status ≠ stOK → exec (.stratumConfig h ps) s = .next (y.1.finish h 0x0401 y.2.status [])) ∧
      (y.2.status = stOK → y.1.strRank cfg = none → exec (.stratumConfig h ps) s = .next (y.1.finish h 0x0401 stDENIED [])) ∧
      (∀ r, y.2.status = stOK → y.1.strRank cfg = some r → cfg.perColumn ≠ 0 → cfg.perColumn ≤ 31 → cfg.lead ≠ 0 →
        let own := y.1.readFor h (cfg.cfg64 2 + 16 * r) 16
        let root := own.1.readFor h (cfg.cfg64 2) 16
        own.2.status = stOK → root.2.status = stOK → ∃ v : State, exec (.stratumConfig h ps) s =
          .next (v.finish h 0x0401 stOK []) ∧ v.mem = root.1.mem ∧ v.strJob job = { cfg with
            store := (leNat (own.2.data.take 8), leNat ((own.2.data.drop 8).take 8))
            rootStore := (leNat (root.2.data.take 8), leNat ((root.2.data.drop 8).take 8))
            nextBedrock := true
            failures := 0
            configGrain := root.1.now
            lastFailure := root.1.now })) ∧
    (let es := chunksOf 32 (ps.length + 1) (splitWords ps)
     let all := s.allPieces job (registerPieces x.pieces es)
     let m := fun (d : Nat) => captureRanges all d false
     let c := fun (d : Nat) => captureRanges all d true
     let fits := ∀ d, d < 12 → (m d).length ≤ 32 ∧ (c d).length ≤ 32 ∧ ∀ r ∈ m d, r.2 < 2 ^ 21
     ps.length % 16 = 0 →
     ((es.all pieceOk = false ∨ ¬ fits) → does (.stratumTensor h ps) 0x0402 stDENIED fun u => u.strata = s.strata) ∧
     (es.all pieceOk = true → fits →
       ((∃ d, d < 12 ∧ (s.memCaps d ≠ m d ∨ s.scrCaps d ≠ c d) ∧ (s.memOpen d = true ∨ s.scrOpen d = true)) →
         does (.stratumTensor h ps) 0x0402 stBUSY fun u => u.strata = s.strata) ∧
       ((∀ e ∈ s.strata, ∀ q ∈ e.2.pieces, pieceOk q = true) →
         (∀ d, d < 12 → s.memCaps d ≠ m d ∨ s.scrCaps d ≠ c d → s.memOpen d = false ∧ s.scrOpen d = false) →
         does (.stratumTensor h ps) 0x0402 stOK fun u => (u.strJob job).pieces = registerPieces x.pieces es ∧
           (∀ d, d < 12 → u.memCaps d = m d ∧ u.scrCaps d = c d)))) ∧
    (let step := p 0 62 0
     let asked := p 0 63 63 == 1
     (x.config = [] → does (.stratumArm h ps) 0x0403 stDENIED fun u => u.strata = s.strata) ∧
     (x.config ≠ [] → s.strRoot x = false → does (.stratumArm h ps) 0x0403 stOK fun u => u.strata = s.strata) ∧
     (x.config ≠ [] → s.strRoot x = true →
       (x.current.isSome = true → does (.stratumArm h ps) 0x0403 stBUSY fun u => u.strata = s.strata) ∧
       (x.current = none → (∃ d ∈ s.strDies x, step ≤ s.strStep d) →
         does (.stratumArm h ps) 0x0403 stLATE fun u => (u.strJob job).current = none) ∧
       (x.current = none → (∀ d ∈ s.strDies x, s.strStep d < step) → s.runsHere h 0x0403 = true →
         ∃ u o, exec (.stratumArm h ps) s = .next u ∧ (u.strJob job).current = some o ∧ o.step = step ∧ o.cmd = some h ∧
           o.bedrock = x.wantsBedrock asked ∧ o.phase = .armed ∧ o.dies = s.strDies x ∧ o.cutDies = [] ∧
           (o.column, o.stratum) = (if x.wantsBedrock asked then (x.column + 1, 0) else (x.column, x.stratum + 1)) ∧
           (u.cmdRec h 0x0403).isSome = true ∧ u.chans = s.chans ∧ u.mem = s.mem ∧
           ∀ d ∈ s.strDies x, s.dieRuns d = false → u.reg64 (dsqB d + STR_DUE_LO.off) = step ∧
             u.flag (dsqB d) STR_CTRL.BEDROCK = x.wantsBedrock asked))) ∧
    (∀ g, x.timerAt = some g → g ≤ s.now → s.strRoot x = true →
      let due := s.strStep (s.strDie x % 12) + x.lead
      (x.current.isSome = true → ∃ u, exec (.stratumTimerExpire h.job) s = .next u ∧ (u.strJob job).timerAt = none ∧
        (u.strJob job).timerLater = true ∧ (u.strJob job).current = x.current ∧ u.mem = s.mem) ∧
      (x.current = none → (∀ d ∈ s.strDies x, s.strStep d < due) → ∃ u o, exec (.stratumTimerExpire h.job) s = .next u ∧
        (u.strJob job).current = some o ∧ o.step = due ∧ o.cmd = none ∧ (u.strJob job).timerAt = none ∧ u.mem = s.mem)) ∧
    (∀ o, x.current = some o →
      (o.phase = .armed → o.refused = false → o.writeStatus = stOK → (∀ d ∈ o.dies, d ∈ o.cutDies) →
        (∃ e ∈ x.pieces, (pieceHome e).isSome = true) → ∃ u, exec (.shardForm h.job) s = .next u ∧
          (u.strJob job).current = some { o with phase := .digesting } ∧ u.mem = s.mem ∧
          ∃ js, u.digests = s.digests ++ js ∧ js.length = (x.pieces.filter fun e => (pieceHome e).isSome).length ∧
            ∀ q ∈ js, q.job = job ∧ ∃ e k, x.pieces[q.piece]? = some e ∧ pieceHome e = some k ∧ q.unit = k.1 ∧
              q.runs = s.shardRuns o e ∧ q.granules = runGranules k.2.2 q.runs) ∧
      (∀ (unit : Fin 13) q e sc ofs, s.nextDigest unit = some q → q.unit = unit.val → q.job = job →
        x.pieces[q.piece]? = some e → pieceHome e = some (unit.val, sc, ofs) → pieceWrites e = false →
        o.phase = .digesting → o.refused = false → o.writeStatus = stOK →
        let v := { s with digests := dropFirst (· == q) s.digests }
        let got := v.digestReads q sc
        let bytes := shardBytes o e q ofs got.2
        (v.digests.any fun q => q.job == job) = true → ∃ u, exec (.digestJobDone unit) s = .next u ∧ u.mem = s.mem ∧
          u.digests = v.digests ∧ (u.strJob job).current = some { o with leaves := o.leaves ++
            [⟨q.piece, pieceTensor e, pieceShard e, none, bytes.length, shake256 bytes 32⟩] }) ∧
      (∀ g r, s.strRoot x = true → o.cmd = some g → g.member = false → s.cmdRec g 0x0403 = some r → r.mute = false →
        r.late = false →
        let replies := fun (u : State) (st : Nat) => (u.strJob job).current = none ∧ u.mem = s.mem ∧
          (u.chan g.chan).rspQ = (s.chan g.chan).rspQ ++
            pairWords (cmdHead 0x0403 flagREPLY g.seq g.target 0 g.chan s.now st)
        (o.phase = .record → o.writes = 0 → o.refused = false → o.writeStatus = stOK → o.bedrock = false →
          ∃ u, exec (.stratumCommit h.job) s = .next u ∧ replies u stOK ∧ (u.strJob job).column = o.column ∧
            (u.strJob job).stratum = o.stratum ∧ (u.strJob job).committed = x.committed ++
              [(o.column, o.stratum, o.step, x.rootStore.1 + 256 * x.lastSlot)]) ∧
        (∀ v b, o.phase = .voting → o.results.find? (fun r => r.op == 2) = some v →
          o.results.find? (fun r => r.op == 1) = some b → v.status = stOK → b.status = stOK → v.result ≠ 0 →
          ∃ u, exec (.stratumCommit h.job) s = .next u ∧ replies u stDIVERGE) ∧
        (o.cutDies ≠ [] → o.cutGrain + 2 ^ 32 < s.now →
          ∃ u, exec (.stratumCommitTimeout h.job) s = .next u ∧ replies u stLATE)) ∧
      (o.cmd = none → does (.stratumAbandon h ps) 0x0404 stOK fun u => (u.strJob job).current = none ∧
        (u.strJob job).committed = x.committed ∧ (∀ q ∈ u.digests, q.job ≠ job) ∧
        ∀ d ∈ o.dies, (u.stack d).cut = GranSet.none ∧ (u.die d).sCut = GranSet.none) ∧
      (h.member = true → ∃ v : State, exec (.stratumCommitted h ps) s = .next (v.finish h 0x0405 stOK []) ∧ v.mem = s.mem ∧
        (v.strJob job).current = none ∧ (v.strJob job).column = o.column ∧ (v.strJob job).stratum = o.stratum ∧
        (v.strJob job).committed = (x.committed.filter fun k => !o.bedrock || decide (o.column ≤ k.1 + 1)) ++
          [(o.column, o.stratum, o.step, p 0 63 0)])) ∧
    (h.member = false → does (.stratumCommitted h ps) 0x0405 stDENIED fun u => u.strata = s.strata) ∧
    (s.runsHere h 0x0410 = true →
      let z := ((s.beginCmd h 0x0410 false).noteFailure job).restoreHead h ps
      let t := State.tryCandidates h z.2.1 z.1 [] (z.2.1.foldr insertNewest [])
      match z.2.2, t.2.2 with
      | none, _ => exec (.restore h ps) s = .next (z.1.finish h 0x0410 stDENIED [])
      | some _, none => exec (.restore h ps) s =
          .next ((t.1.logRestore h stDIGEST_BAD).finish h 0x0410 stDIGEST_BAD (restoreLists t.2.1 []))
      | some news, some (c, chain, g) =>
        let missing := missingTensors g news
        let mixed := if t.2.1 = [] then stOK else stSTRATA_MIXED
        let struct := if missing = [] then stOK else stSTRUCT_MISMATCH
        (missing ≠ [] → p 1 0 0 = 0 → ∃ v : State, exec (.restore h ps) s =
          .next (v.finish h 0x0410 (max mixed struct) (restoreLists t.2.1 missing)) ∧ v.mem = t.1.mem ∧
            v.strata = t.1.strata) ∧
        ((missing = [] ∨ p 1 0 0 = 1) → ∃ (v : State) (st : Nat), exec (.restore h ps) s =
          .next (v.finish h 0x0410 (max (max mixed struct) st) (restoreLists t.2.1 missing)) ∧
            (∀ d, d < 12 → v.excluded h d = false → v.strStep d = c.step % 2 ^ 64) ∧ (v.strJob job).nextBedrock = true ∧
            (v.strJob job).current = none ∧ (v.strJob job).kept = g.used ∧
            (v.strJob job).committed = chain.map fun r => (r.column, r.stratum, r.step, r.addr)))

/-! ### Power, start-up and reset (R476-R486, R495-R514, R535-R547, R581) -/

/-- Power and resets. A domain change ends with its state, its clamps and what the domain loses, and answers its command; a
wake raises a group that is enabled; a measurement sets PWR_NOW and the governor's demand; CAP_UNMET is noted once. A slump
writes its record, incomplete, clamps every domain but AON and drops what they held; its end seals the record, and after a
trip the package stays down; a supply that returns makes a cold reset due. A cold reset takes straps and PUF key, keeps the
journal ring and the far tier, and raises FC and the host port; GO verifies the image, which starts or is refused with its
code; WARM keeps the stacks and restarts the image, HOST and DIE reset their part. What a domain that loses its data reads
as, and that a reset due is performed by its own command: DESIGN CHOICE, log entries 3 and 25. -/
def Obligations.PowerAndResetsFollowTheirCommands : Prop :=
  ∀ s : State,
    let byte := fun (u : State) (a : Nat) => readByte u.mem a
    let running := s.pwr.slump.isNone && !s.pwr.tripped && !s.jtag.heldReset
    let saves := fun (i : Instr) (cause : Nat) => ∃ u, exec i s = .next u ∧ u.pwr.slump = some (cause, s.now) ∧
      u.pwr.saved = false ∧ u.pwr.mainEn = false ∧ u.tags = [] ∧ u.tiles = [] ∧ u.cores = [] ∧
      (∀ n, n < 0x70 → domainExists n = true → u.domState n = 2 ∧ u.fld (pwrB + PWR_DOM.stride * n) PWR_DOM.ISOLATED = 1) ∧
      (∀ a, byte u a = if a < controlAddr 0 then 0 else byte s a) ∧
      ∃ r, (u.jrn.areaA = some r ∨ u.jrn.areaB = some r) ∧ r.cause = cause ∧ r.grain = s.now ∧ r.valid = false ∧
        r.saveSeq = ((s.jrn.newest.map fun r => r.saveSeq).getD 0) + 1 ∧ r.place = s.place ∧ r.jobs = s.jobRecords
    (∀ n t cmd, domainExists n = true → mapGet? s.pwr.changing n = some (t, cmd) →
      (t % 4 ≠ 0 ∨ n = domFC ∨ (0x10 ≤ n ∧ n < 0x30) ∨ s.domOn domFC = true) →
      let there := fun (v : State) => v.domState n = t % 4 ∧
        v.fld (pwrB + PWR_DOM.stride * n) PWR_DOM.ISOLATED = bit1 (t % 4 != 0) ∧
        (∀ k : Fin 12, n = domS k → t % 4 = 2 → (∀ a, scratchAddr k 0 ≤ a → a < scratchAddr (k + 1) 0 → byte v a = 0) ∧
          ∀ i p, i < 768 → p < 5120 → v.tag k i p = .empty) ∧
        (∀ k : Fin 12, n = domM k → t % 4 = 2 → ∀ a, stackAddr k 0 ≤ a → a < stackAddr (k + 1) 0 → byte v a = 0) ∧
        (0x10 ≤ n → n < 0x30 → t % 4 = 1 → v.mem = s.mem ∧ v.tags = s.tags)
      (cmd = none → t < 4 → ∃ v, exec (.domainChangeDone n) s = .next v ∧ there v ∧ mapGet? v.pwr.changing n = none ∧
        v.fld (pwrB + PWR_DOM.stride * n) PWR_DOM.CHANGING = 0) ∧
      (cmd = none → 4 ≤ t → ∃ v, exec (.domainChangeDone n) s = .next v ∧ mapGet? v.pwr.changing n = some (0, none) ∧
        v.domState n = t % 4) ∧
      (∀ h, cmd = some h → t < 4 → ∃ v : State, exec (.domainChangeDone n) s = .next (v.finish h 0x0502 stOK []) ∧ there v ∧
        mapGet? v.pwr.changing n = none ∧ v.flag pwrB PWR_EVENTS.DOMAIN_DONE = true)) ∧
    (∀ g, running = true → g < 9 → s.domOn (domG g) = false → s.keptOff (domG g) = false → s.domState domFC = 0 →
      (bitOf (s.fld pwrB PWR_WAKE_EN.GROUPS) g = false → exec (.laneWake (.lane g)) s = .next s) ∧
      (bitOf (s.fld pwrB PWR_WAKE_EN.GROUPS) g = true → s.domState (domG g) ≠ 0 → mapGet? s.pwr.changing (domG g) = none →
        ∃ u, exec (.laneWake (.lane g)) s = .next u ∧ mapGet? u.pwr.changing (domG g) = some (0, none) ∧
          u.flag pwrB PWR_EVENTS.WAKE = true ∧ u.fld pwrB PWR_WAKE_SRC.GROUPS = 2 ^ g ∧ u.fld pwrB PWR_WAKE_SRC.HOST = 0 ∧
          u.mem = s.mem)) ∧
    (running = true → s.domState domFC = 1 → mapGet? s.pwr.changing domFC = none → ∃ u, exec (.laneWake .host) s = .next u ∧
      mapGet? u.pwr.changing domFC = some (0, none) ∧ u.fld pwrB PWR_WAKE_SRC.HOST = 1 ∧ u.mem = s.mem) ∧
    (∀ watts,
      let cap := capWatts (s.fld pwrB PWR_CAP.CAP)
      let l := (watts :: s.pwr.samples).take 100
      let sum := l.foldl (· + ·) 0
      ∃ u, exec (.governorSample watts) s = .next u ∧ u.pwr.samples = l ∧ u.mem = s.mem ∧
        u.fld pwrB PWR_NOW.WATTS = min 65535 (sum / l.length) ∧
        u.fld pwrB PWR_PERIOD.PERIOD_Q12 = (if s.pwr.capNoted = true ∧ cap * l.length ≤ sum then 0x4000
          else nextDemand (s.fld pwrB PWR_PERIOD.PERIOD_Q12) cap l)) ∧
    ((s.pwr.capNoted = true ∨ s.pwr.aboveCap < 1000) → exec .capUnmet s = .next s) ∧
    (s.pwr.capNoted = false → 1000 ≤ s.pwr.aboveCap → ∃ u, exec .capUnmet s = .next u ∧ u.pwr = { s.pwr with capNoted := true } ∧
      u.flag pwrB PWR_EVENTS.CAP_UNMET = true ∧ u.mem = s.mem) ∧
    (∀ cause, (cause = 0 ∨ cause = 1 ∨ cause = 3) → (s.pwr.slump.isSome = true → exec (.slumpDetect cause) s = .next s) ∧
      (s.pwr.slump = none → saves (.slumpDetect cause) cause)) ∧
    (s.pwr.slump = none → s.pwr.tripped = false → (s.tooHot = true → saves .thermalTrip 2) ∧
      (s.tooHot = false → exec .thermalTrip s = .next s)) ∧
    (∀ cause g, s.pwr.slump = some (cause, g) →
      (cause ≠ 2 → exec .slumpSaveDone s =
        .next { s with jrn := s.jrn.sealSave, pwr := { s.pwr with saved := true } }) ∧
      (cause = 2 → ∃ u, exec .slumpSaveDone s = .next u ∧ u.jrn = s.jrn.sealSave ∧ u.mem = s.mem ∧
        u.pwr = { s.pwr with slump := none, saved := true, tripped := true } ∧ u.flag pwrB PWR_EVENTS.TRIP = true) ∧
      (s.pwr.saved = true → exec .supplyReturn s = .next { s with pkc := { s.pkc with resets := [(0, 0, s.now)] } }) ∧
      (s.pwr.saved = false → exec .supplyReturn s = .next s)) ∧
    (∀ (straps : Straps) (puf : PufOutcome), ∃ u, exec (.coldReset straps puf) s = .next u ∧ u.place = straps.place.toNat ∧
      u.fld glpB GLP_SHAPE.GROUPS_M1 = straps.shapeG.toNat ∧ u.fld glpB GLP_SHAPE.NODES_M1 = straps.shapeN.toNat ∧
      u.straps = straps ∧ u.domOn domFC = true ∧ u.domOn domHost = true ∧
      (∀ n, n < 0x70 → domainExists n = true → n ≠ domFC → n ≠ domHost → u.domState n = 2) ∧
      (∀ a, byte u a = if farAddr 0 ≤ a then byte s a else 0) ∧ u.tags = [] ∧ u.jrn.ring = s.jrn.ring ∧
      u.jrn.next = s.jrn.next + u.jrn.buf.length ∧ u.sec.slots = (if straps.secClear = true then [] else s.sec.slots) ∧
      u.sec.minSvn = s.sec.minSvn ∧ u.sec.fwRunning = false ∧ u.fld fwB FW_STATUS.CODE = 0 ∧ u.pkc = PkcX.init ∧
      (∀ n, n ≠ 0x11 → u.chan n = ChanX.init) ∧ (u.chan 0x11).session = some (standingSession 1 u.now) ∧
      (puf = .ok → ∀ n, s.sec.enrolled = some n → u.sec.enrolled = some n ∧ u.sec.identitySecret = identityOf n ∧
        u.fld secB SEC_STATUS.PUF = pufRECONSTRUCTED) ∧
      ((puf = .ok ∧ s.sec.enrolled = none) ∨ (puf = .fail ∧ s.sec.enrolled.isSome = true ∧ straps.secClear = true) →
        u.sec.enrolled = some s.freeCount ∧ u.sec.identitySecret = identityOf s.freeCount ∧
        u.fld secB SEC_STATUS.PUF = pufENROLLED) ∧
      (puf = .fail → (s.sec.enrolled = none ∨ straps.secClear = false) → u.sec.enrolled = s.sec.enrolled ∧
        u.pufFail = true)) ∧
    ((s.sec.fwRunning = true → exec .fwGo s = .next s) ∧
     (s.sec.fwRunning = false → exec .fwGo s = .next (s.setFld fwB FW_STATUS.CODE 1))) ∧
    (let code := fwCheck s.fwImage s.sec.minSvn
     let svn := wordAt s.fwImage 12 / 65536
     (s.fld fwB FW_STATUS.CODE ≠ 1 → exec .firmwareVerifyDone s = .next s) ∧
     (s.fld fwB FW_STATUS.CODE = 1 → ∃ u, exec .firmwareVerifyDone s = .next u ∧ u.fld fwB FW_STATUS.CODE = code ∧
       (code ≠ 2 → u = s.setFld fwB FW_STATUS.CODE code) ∧ (code = 2 → u.fld fwB FW_STATUS.SVN = svn ∧ u.sec.fwRunning = true ∧ u.sec.fwDigest = shake256 s.fwImage 32 ∧
       u.sec.minSvn = (if bitOf (wordAt s.fwImage 12) 0 then svn else s.sec.minSvn) ∧
       u.flag glpB GLP_PLACE.VALID = s.placeOk s.place ∧
       (∀ k, k < 12 → u.domOn (domC k) = true ∧ u.domOn (domS k) = true ∧ u.domOn (domM k) = true ∧
         (u.chan (0x20 + k)).session = some (standingSession 2 s.now)) ∧
       (∀ c, c < 128 → u.domOn (domK c) = true) ∧ (s.placeOk s.place = true → ∀ g, g < 9 → u.domOn (domG g) = true)))) ∧
    (s.resetDue 1 0 = true → s.jtag.heldReset = false → ∃ u, exec .warmReset s = .next u ∧ u.pkc = PkcX.init ∧ u.strata = [] ∧
      u.pwr.slump = none ∧ u.pwr.tripped = false ∧ u.pwr.mainEn = true ∧ u.tags = [] ∧ u.cores = [] ∧ u.coll = CollX.init ∧
      (∀ n, chanExists n = true → u.fld (chB n) CH_NAK_COUNT.COUNT = 0 ∧ (u.chan n).reqQ = [] ∧ (u.chan n).outstanding = []) ∧
      (∀ a, byte u a = if stackAddr 12 0 ≤ a ∧ a < controlAddr 0 then 0 else byte s a) ∧
      (s.tbState = tbLOCKED → s.tbGM = false → u.tbState = tbHOLDOVER) ∧
      (s.sec.fwRunning = true → shake256 s.fwImage 32 = s.sec.fwDigest → u.fld fwB FW_STATUS.CODE = 2 ∧
        u.sec.fwRunning = true ∧ ∀ k, k < 12 → u.domOn (domM k) = true ∧ u.domOn (domC k) = true) ∧
      (s.sec.fwRunning = false → u.fld fwB FW_STATUS.CODE = 0 ∧ u.sec.fwRunning = false)) ∧
    (∃ u, exec .hostReset s = .next u ∧ u.host.held = [] ∧ u.host.memEnable = [] ∧ u.mem = s.mem ∧ u.tags = s.tags ∧
      (∀ a, hstB ≤ a → a < hstB + 0x1000 → u.reg a = resetWord a) ∧
      ∀ n, n ≤ 0x10 → (u.chan n).reqQ = [] ∧ (u.chan n).rspQ = [] ∧ (u.chan n).outstanding = [] ∧ (u.chan n).acks = []) ∧
    (∀ d : Fin 14, s.resetDue 2 d = true →
      (d.val < 12 → (s.stack d).queues = [] → (s.stack d).answers = [] → (s.die d).clear = none → (s.die d).atCut = [] →
        (∀ i, i < 4 → ((s.die d).slot i).load = none) → (s.copy d).queue = [] → (s.copy d).running = [] →
        (s.die d).hold = none →
        ∃ u, exec (.dieReset d) s = .next u ∧ u.dieState d = dsSTOPPED ∧ (∀ t, t < 768 → u.tile d t = TileX.init) ∧
          (u.chan (0x20 + d)).reqQ = [] ∧ (∀ a, a < stackAddr 12 0 → byte u a = byte s a) ∧ u.mem = s.mem ∧ u.tags = s.tags ∧
          u.pkc.resets = s.pkc.resets.filter fun r => !(r.1 == 2 && r.2.1 == d.val && decide (r.2.2 ≤ s.now))) ∧
      (12 ≤ d.val → (∀ e, 12 + (d.val - 12) * 4 ≤ e → e < 16 + (d.val - 12) * 4 → (s.copy e).queue = [] ∧
          (s.copy e).running = []) →
        ∃ u, exec (.dieReset d) s = .next u ∧ u.mem = s.mem ∧ u.tags = s.tags ∧
          ∀ c, c < 128 → c / 64 = d.val - 12 → u.core c = CoreX.init ∧ u.coreState c = csHELD))

/-! ### Ports and the journal die (R297-R300, R517-R533, R551) -/

/-- The package's ports. A host function's window reaches memory at its base, its firmware store takes writes until
verification starts, and what a window or the store does not take is counted and reported; held accesses follow the posted
writes in front of them; a request that finds FC in RETENTION raises it and waits; FLR empties the function's channel; training shows in HST_LINK. A far-tier link that goes down ends
what waits and leaves the device unserved until COMMIT is written again. Management messages of the package's type carry
queue words, MCTP control changes nothing, all others are counted. The test access port shifts, samples and drives, and its
driving instructions hold every domain but AON in reset. A journal entry enters the ring 1 ms after its grain, over the oldest
where the ring is full (R300, R517, R519, R521-R533, R551; what configuration space would set, and the order of what
the host sees: DESIGN CHOICE, log entry 27). -/
def Obligations.PortsAndJournalFollowTheirEvents : Prop :=
  ∀ s : State,
    let count := fun (u : State) (b : Nat) (f : Field) => u.fld b f = min (s.fld b f + 1) (2 ^ (f.hi + 1 - f.lo) - 1)
    (∀ (fn : Fin 16) (off : Nat) (data : List Byte), s.domOn domHost = true →
      let a := s.winBase fn + off
      let fits := fun (n : Nat) (write : Bool) => a < 0x18000000000 ∧ 1 ≤ n ∧ a % 256 + n ≤ 256 ∧ off + n ≤ s.winSize fn ∧
        s.partLets false a n = true ∧ s.rightsLet (some fn.val) a n write = true ∧ s.fabric.held = [] ∧ s.domState domFC ≠ 1
      let sends := fun (i : Instr) (op : MemOp) => ∃ u q, exec i s = .next u ∧ u.waitsAt a = s.waitsAt a ++ [q] ∧ q.addr = a ∧
        q.op = op ∧ q.chan = some fn.val ∧ q.secure = false ∧ u.mem = s.mem ∧ u.tags = s.tags ∧ u.regs = s.regs ∧
        u.host.posted = s.host.posted ++ [⟨fn, s.fabric.nextReq, op.writes, 1, op.len, stOK, false, []⟩]
      let bad := fun (i : Instr) (f : Field) (err : Nat) => ∃ u, exec i s = .next u ∧ count u hstB f ∧
        u.host.aer = s.host.aer ++ [(fn.val, err)] ∧ u.mem = s.mem ∧ u.stackMap = s.stackMap ∧ u.host.posted = s.host.posted
      (fits data.length true → sends (.hostWindowWrite fn off data false false) (.write data)) ∧
      (∀ n, fits n false → sends (.hostWindowRead fn off n) (.read n)) ∧
      (s.domState domFC = 1 → s.noWake = false → mapGet? s.pwr.changing domFC = none → a < 0x18000000000 → data ≠ [] →
        a % 256 + data.length ≤ 256 → off + data.length ≤ s.winSize fn →
        ∃ u q, exec (.hostWindowWrite fn off data false false) s = .next u ∧ u.host.asleep = s.host.asleep ++ [q] ∧ q.addr = a ∧
          q.op = .write data ∧ mapGet? u.pwr.changing domFC = some (0, none) ∧ u.flag pwrB PWR_EVENTS.WAKE = true ∧
          u.stackMap = s.stackMap ∧ u.mem = s.mem) ∧
      (data ≠ [] → s.winSize fn < off + data.length →
        bad (.hostWindowWrite fn off data false false) HST_UR_COUNT.COUNT 0) ∧
      (∀ n, 1 ≤ n → s.winSize fn < off + n → bad (.hostWindowRead fn off n) HST_UR_COUNT.COUNT 0) ∧
      (data ≠ [] → ∀ store, bad (.hostWindowWrite fn off data true store) HST_POISON_COUNT.COUNT 2) ∧
      (data ≠ [] → (fn.val ≠ 0 ∨ 0x1000000 < off + data.length) →
        bad (.hostWindowWrite fn off data false true) HST_UR_COUNT.COUNT 0) ∧
      (data ≠ [] → fn.val = 0 → off + data.length ≤ 0x1000000 →
        ((s.fld fwB FW_STATUS.CODE = 1 ∨ s.fld fwB FW_STATUS.CODE = 2) →
          bad (.hostWindowWrite fn off data false true) HST_CA_COUNT.COUNT 1) ∧
        (s.fld fwB FW_STATUS.CODE ≠ 1 → s.fld fwB FW_STATUS.CODE ≠ 2 → exec (.hostWindowWrite fn off data false true) s =
          .next { s with mem := writeBytes s.mem (storeAddr + off) data }))) ∧
    (∀ (fn : Fin 16) e, s.host.held.find? (fun e => e.fn == fn.val) = some e →
      let v := { s with host := { s.host with held := dropFirst (fun x => x.fn == fn.val) s.host.held } }
      ((s.domState domFC = 1 ∨ (s.host.posted.any fun r => r.fn == fn.val && r.write) = true) →
        exec (.hostWriteRelease fn) s = .next s) ∧
      (∀ n o, s.domState domFC ≠ 1 → (s.host.posted.any fun r => r.fn == fn.val && r.write) = false → locate e.off = some (.ch, n, o) →
        (e.read = true → exec (.hostWriteRelease fn) s = .next (v.readReply n).1) ∧
        (e.read = false → o = CH_DB_REQ.off → e.wide = false → e.value = 1 → n = fn.val → ∃ u,
          exec (.hostWriteRelease fn) s = .next u ∧ u.host = v.host ∧ u.mem = s.mem ∧
            (u.chan n).session = (s.chan n).session.map fun x => { x with last := s.now }))) ∧
    (∀ fn : Fin 16, s.domOn domHost = true → ∃ u, exec (.flr fn) s = .next u ∧ (u.chan fn).reqQ = [] ∧
      (u.chan fn).taken = [] ∧ (u.chan fn).rspQ = [] ∧ (u.chan fn).acks = [] ∧ (u.chan fn).outstanding = [] ∧
      (u.chan fn).session = none ∧ (∀ e ∈ u.host.held, e.fn = fn.val → e.off / 0x1000 = chB 0x10 / 0x1000) ∧
      u.host.posted = s.host.posted ∧ u.mem = s.mem ∧ u.stackMap = s.stackMap) ∧
    (∀ (rate : Fin 7) (width : Fin 6) (flit : Bool), s.domOn domHost = true →
      ∃ u, exec (.hostLinkTrained rate width flit) s = .next u ∧ u.fld hstB HST_LINK.RATE = rate ∧
        u.fld hstB HST_LINK.WIDTH = width ∧ u.flag hstB HST_LINK.FLIT = flit ∧ u.mem = s.mem ∧
        ∀ a, a ≠ hstB + HST_LINK.off → u.reg a = s.reg a) ∧
    (∀ (dev : Fin 4) (viral : Bool), s.domOn domCXL = true →
      let b := ftB + FT_DEV.stride * dev
      let waiting := (s.far.answers.filter fun a => a.1 == dev.val).map (fun a => a.2.1) ++ mapGet [] s.far.queues dev
      (∃ v : State, exec (.ftLinkDown dev viral) s = .next (waiting.foldl (fun s r =>
          (s.landReq r ⟨stINTERNAL, List.replicate r.op.len 0, !r.op.writes⟩).goesOn r.land) v) ∧ v.fld b FT_DEV_STATUS.PRESENT = 0 ∧
        v.fld b FT_DEV_STATUS.DOWN = 1 ∧ mapGet [] v.far.queues dev = [] ∧ v.farServes dev = false ∧ v.mem = s.mem) ∧
      exec (.ftLinkUp dev) s = .next
        (if farLinks s.straps ≤ dev ∨ Config.farCapacity dev = 0 then s else s.setFld b FT_DEV_STATUS.PRESENT 1) ∧
      (∀ tag, ((∃ r ∈ waiting, r.id = tag) → exec (.ftBadResponse dev tag) s = .next s) ∧
        ((∀ r ∈ waiting, r.id ≠ tag) → ∃ u, exec (.ftBadResponse dev tag) s = .next u ∧ count u ftB FT_BAD_RSP.COUNT ∧
          u.far = s.far ∧ u.mem = s.mem))) ∧
    (∀ (mtype iana : Nat) (pec : Bool) (ws : List Word64),
      (pec = true → mtype = 0x7F → iana = 61233 →
        exec (.mctpMessageReceive mtype iana pec ws) s = .next (ws.foldl (fun s w => s.pushWord .mgt 0x11 w) s) ∧
        (ws.length + (s.chan 0x11).reqQ.length ≤ 8 → ∃ u, exec (.mctpMessageReceive mtype iana pec ws) s = .next u ∧
          (u.chan 0x11).reqQ = (s.chan 0x11).reqQ ++ ws ∧ u.mgt = s.mgt ∧ u.mem = s.mem ∧ u.regs = s.regs)) ∧
      (pec = true → mtype = 0 → exec (.mctpMessageReceive mtype iana pec ws) s = .next s) ∧
      ((pec = false ∨ (mtype ≠ 0 ∧ (mtype ≠ 0x7F ∨ iana ≠ 61233))) → ∃ u, exec (.mctpMessageReceive mtype iana pec ws) s =
        .next u ∧ count u mgtB MGT_DROP_COUNT.COUNT ∧ u.chans = s.chans ∧ u.mem = s.mem)) ∧
    (∀ addr : BitVec 7, ∃ u, exec (.dynamicAddressAssignment addr) s = .next u ∧ u.fld mgtB MGT_STATUS.ADDRESS = addr.toNat ∧
      u.flag mgtB MGT_STATUS.DA_VALID = true ∧ u.mem = s.mem ∧ ∀ a, a ≠ mgtB + MGT_STATUS.off → u.reg a = s.reg a) ∧
    (∀ tdi : List Bool, exec (.bypass tdi) s = .next { s with jtag := { s.jtag with
      ir := .bypass, bypassBit := tdi.getLastD false, tdo := (false :: tdi).dropLast, driven := false, floated := false } }) ∧
    exec .idcode s = .next { s with jtag := { s.jtag with
      ir := .idcode, tdo := bitsLow 0x1964023B 32, driven := false, floated := false } } ∧
    (∀ pins chain : List Bool, exec (.samplePreload pins chain) s = .next { s with jtag := { s.jtag with
      ir := .samplePreload, captured := pins, tdo := pins, chain := chain, driven := false, floated := false } }) ∧
    (∀ (pins : List Bool) (i : Instr), i ∈ [Instr.extest pins, .clamp, .highz] → ∃ u, exec i s = .next u ∧
      u.jtag.heldReset = true ∧ u.jtag.driven = decide (i ≠ .highz) ∧ u.jtag.floated = decide (i = .highz) ∧
      u.jtag.chain = s.jtag.chain ∧ (i = .extest pins → u.jtag.captured = pins ∧ u.jtag.tdo = pins) ∧
      (s.jtag.heldReset = false → (∀ n, n < 0x70 → domainExists n = true → u.domState n = 2) ∧
        (∀ a, a < controlAddr 0 → readByte u.mem a = 0) ∧ u.tiles = [] ∧ u.cores = []) ∧
      (s.jtag.heldReset = true → u.mem = s.mem ∧ u.regs = s.regs)) ∧
    (∀ es e, s.jrn.buf = es ++ [e] →
      (s.now ≤ e.grain + 200000 → exec .journalPersist s = .next s) ∧
      (e.grain + 200000 < s.now → ∃ u, exec .journalPersist s = .next u ∧ u.jrn.buf = es ∧ u.mem = s.mem ∧ u.regs = s.regs ∧
        (s.jrn.ring.length < 32768 → u.jrn.ring = s.jrn.ring ++ [e] ∧ u.jrn.lost = min s.jrn.lost 0xFFFFFFFF) ∧
        (s.jrn.ring.length = 32768 → u.jrn.ring = s.jrn.ring.drop 1 ++ [e] ∧ u.jrn.lost = min (s.jrn.lost + 1) 0xFFFFFFFF)))
end

