-- ==== Sys2Proof/Laws/Memory.lean ====
section
/-! SUPPORT. Laws of the sparse maps and the byte memory: a read after a write, writes that leave other keys alone, and the
canonical form, which every operation keeps. -/

namespace Sys2Proof.Machine

/-! ### Reads after writes -/

theorem mapGet_mapPut {α : Type} (d : α) (m : FMap α) (k j : Nat) (v : α) :
    mapGet d (mapPut m k v) j = if k = j then v else mapGet d m j := by
  induction m with
  | nil => simp [mapPut, mapGet]
  | cons e r ih =>
    obtain ⟨i, w⟩ := e
    simp only [mapPut]
    split
    · simp [mapGet]
    · split
      · subst i
        by_cases h : k = j <;> simp [mapGet, h]
      · simp only [mapGet, ih]
        by_cases hi : i = j
        · have : k ≠ j := by omega
          simp [hi, this]
        · simp [hi]

theorem mapGet_mapErase {α : Type} (d : α) (m : FMap α) (k j : Nat) :
    mapGet d (mapErase m k) j = if k = j then d else mapGet d m j := by
  induction m with
  | nil => simp [mapErase, mapGet]
  | cons e r ih =>
    obtain ⟨i, w⟩ := e
    simp only [mapErase]
    by_cases hi : i = k
    · subst i
      by_cases h : k = j
      · subst h
        simpa using ih
      · simp [ih, mapGet, h]
    · simp only [hi, if_false, mapGet, ih]
      by_cases hj : i = j
      · have : k ≠ j := by omega
        simp [hj, this]
      · simp [hj]

@[simp] theorem mapGet_mapSet_same {α : Type} [DecidableEq α] (d : α) (m : FMap α) (k : Nat) (v : α) :
    mapGet d (mapSet d m k v) k = v := by
  by_cases h : v = d <;> simp [mapSet, h, mapGet_mapPut, mapGet_mapErase]

theorem mapGet_mapSet_other {α : Type} [DecidableEq α] (d : α) (m : FMap α) {k j : Nat} (v : α) (h : k ≠ j) :
    mapGet d (mapSet d m k v) j = mapGet d m j := by
  by_cases hv : v = d <;> simp [mapSet, hv, mapGet_mapPut, mapGet_mapErase, h]

/-- A byte written reads back, and every other byte reads as before. -/
theorem readByte_writeByte (m : List Host.Cell) (a x : Nat) (b : Byte) :
    readByte (writeByte m a b) x = if a = x then b else readByte m x := by
  by_cases h : a = x
  · subst h
    simp [readByte, writeByte]
  · simp [readByte, writeByte, mapGet_mapSet_other _ _ _ h, h]

/-- A byte outside a written range reads as before. -/
theorem readByte_writeBytes_other (bs : List Byte) :
    ∀ (m : List Host.Cell) (a x : Nat), x < a ∨ a + bs.length ≤ x → readByte (writeBytes m a bs) x = readByte m x := by
  induction bs with
  | nil => intros; rfl
  | cons b bs ih =>
    intro m a x h
    simp only [List.length_cons] at h
    have h1 : x < a + 1 ∨ a + 1 + bs.length ≤ x := by omega
    have h2 : a ≠ x := by omega
    simp [writeBytes, ih _ _ _ h1, readByte_writeByte, h2]

/-- A byte of a written range reads as what was written there. -/
theorem readByte_writeBytes_in (bs : List Byte) :
    ∀ (m : List Host.Cell) (a i : Nat), i < bs.length → readByte (writeBytes m a bs) (a + i) = nthD 0 bs i := by
  induction bs with
  | nil =>
    intro m a i h
    simp at h
  | cons b bs ih =>
    intro m a i h
    cases i with
    | zero =>
      have : readByte (writeBytes (writeByte m a b) (a + 1) bs) a = readByte (writeByte m a b) a :=
        readByte_writeBytes_other bs _ _ _ (by omega)
      simp [writeBytes, this, readByte_writeByte, nthD]
    | succ i =>
      simp only [List.length_cons] at h
      have := ih (writeByte m a b) (a + 1) i (by omega)
      simpa [writeBytes, nthD, Nat.add_assoc, Nat.add_comm 1 i] using this

/-! ### Canonical form -/

theorem keysRise_mono {α : Type} {m : FMap α} : ∀ {lo hi : Nat}, lo ≤ hi → keysRise hi m = true → keysRise lo m = true := by
  cases m with
  | nil => intros; rfl
  | cons e r =>
    obtain ⟨i, v⟩ := e
    intro lo hi h
    simp only [keysRise, Bool.and_eq_true, decide_eq_true_eq]
    exact fun hr => ⟨by omega, hr.2⟩

theorem keysRise_mapPut {α : Type} {m : FMap α} {k : Nat} {v : α} :
    ∀ {lo : Nat}, lo ≤ k → keysRise lo m = true → keysRise lo (mapPut m k v) = true := by
  induction m with
  | nil =>
    intro lo h _
    simp [mapPut, keysRise, h]
  | cons e r ih =>
    obtain ⟨i, w⟩ := e
    intro lo h hr
    simp only [keysRise, Bool.and_eq_true, decide_eq_true_eq] at hr
    simp only [mapPut]
    split
    · simp only [keysRise, Bool.and_eq_true, decide_eq_true_eq]
      exact ⟨h, by omega, hr.2⟩
    · split
      · subst i
        simp only [keysRise, Bool.and_eq_true, decide_eq_true_eq]
        exact ⟨h, hr.2⟩
      · simp only [keysRise, Bool.and_eq_true, decide_eq_true_eq]
        exact ⟨hr.1, ih (by omega) hr.2⟩

theorem keysRise_filter {α : Type} {m : FMap α} {p : Nat × α → Bool} :
    ∀ {lo : Nat}, keysRise lo m = true → keysRise lo (m.filter p) = true := by
  induction m with
  | nil => intros; rfl
  | cons e r ih =>
    obtain ⟨i, w⟩ := e
    intro lo hr
    simp only [keysRise, Bool.and_eq_true, decide_eq_true_eq] at hr
    simp only [List.filter]
    split
    · simp only [keysRise, Bool.and_eq_true, decide_eq_true_eq]
      exact ⟨hr.1, ih hr.2⟩
    · exact keysRise_mono (by omega) (ih hr.2)

theorem mapErase_eq_filter {α : Type} (m : FMap α) (k : Nat) : mapErase m k = m.filter fun e => decide (e.1 ≠ k) := by
  induction m with
  | nil => rfl
  | cons e r ih =>
    obtain ⟨i, w⟩ := e
    by_cases h : i = k <;> simp [mapErase, h, ih]

theorem all_mapPut {α : Type} {m : FMap α} {k : Nat} {v : α} {p : Nat × α → Bool} (hv : p (k, v) = true)
    (hm : m.all p = true) : (mapPut m k v).all p = true := by
  induction m with
  | nil => simp [mapPut, hv]
  | cons e r ih =>
    obtain ⟨i, w⟩ := e
    simp only [List.all_cons, Bool.and_eq_true] at hm
    simp only [mapPut]
    split
    · simp [hv, hm.1, hm.2]
    · split <;> simp [hv, hm.1, hm.2, ih hm.2]

theorem all_filter {α : Type} {m : List α} {p q : α → Bool} (hm : m.all p = true) : (m.filter q).all p = true := by
  simp only [List.all_eq_true] at *
  exact fun x hx => hm x ((List.mem_filter.mp hx).1)

theorem canonMap_nil {α : Type} [DecidableEq α] {d : Nat → α} : canonMap d [] = true := rfl

theorem canonMap_filter {α : Type} [DecidableEq α] {d : Nat → α} {m : FMap α} {p : Nat × α → Bool}
    (h : canonMap d m = true) : canonMap d (m.filter p) = true := by
  simp only [canonMap, Bool.and_eq_true] at *
  exact ⟨keysRise_filter h.1, all_filter h.2⟩

theorem canonMap_mapKeep {α : Type} [DecidableEq α] {d : Nat → α} {m : FMap α} {p : Nat → Bool}
    (h : canonMap d m = true) : canonMap d (mapKeep m p) = true := canonMap_filter h

theorem canonMap_mapSet {α : Type} [DecidableEq α] {d : Nat → α} {m : FMap α} {k : Nat} {v : α}
    (h : canonMap d m = true) : canonMap d (mapSet (d k) m k v) = true := by
  unfold mapSet
  split
  · rw [mapErase_eq_filter]
    exact canonMap_filter h
  · simp only [canonMap, Bool.and_eq_true] at *
    exact ⟨keysRise_mapPut (Nat.zero_le _) h.1, all_mapPut (by simpa) h.2⟩

/-- Every operation on the byte memory keeps its canonical form. -/
theorem writeByte_wf {m : List Host.Cell} {a : Nat} {b : Byte} (h : Memory.wf m = true) : Memory.wf (writeByte m a b) = true :=
  canonMap_mapSet (d := fun _ => unlistedByte) h

theorem writeBytes_wf {bs : List Byte} : ∀ {m : List Host.Cell} {a : Nat}, Memory.wf m = true → Memory.wf (writeBytes m a bs) = true := by
  induction bs with
  | nil => intro m a h; exact h
  | cons b bs ih => intro m a h; exact ih (writeByte_wf h)

theorem writePicked_wf {bs : List (Option Byte)} :
    ∀ {m : List Host.Cell} {a : Nat}, Memory.wf m = true → Memory.wf (writePicked m a bs) = true := by
  induction bs with
  | nil => intro m a h; exact h
  | cons b bs ih =>
    intro m a h
    cases b with
    | none => exact ih h
    | some b => exact ih (writeByte_wf h)

theorem clearBytes_wf {m : List Host.Cell} {p : Nat → Bool} (h : Memory.wf m = true) : Memory.wf (clearBytes m p) = true :=
  canonMap_filter (d := fun _ => unlistedByte) h

end Sys2Proof.Machine
end

