-- ==== Sys2Proof/Laws/Kept.lean ====
section
/-! SUPPORT. `Kept q s`: the queue is `q` and the state is canonical. The Kept files show, function by function, that what a
command does keeps it: no command touches the queue, and memory, registers and tags stay in canonical form. -/

namespace Sys2Proof.Machine

def Kept (q : List Instr) (s : State) : Prop := s.pending = q ∧ s.canon = true

/-- An update of a state that keeps the queue and the canonical form of memory, registers and tags. -/
theorem Kept.update {q : List Instr} {x : State} (h : Kept q x) {m : List Host.Cell} {r : FMap Word} {g : FMap Tag}
    (hm : Memory.wf x.mem = true → Memory.wf m = true)
    (hr : canonMap resetWord x.regs = true → canonMap resetWord r = true)
    (hg : canonMap (fun _ => Tag.empty) x.tags = true → canonMap (fun _ => Tag.empty) g = true)
    {freeCount' : Nat} {shadow' : FMap Shadow} {poison' : List Nat} {dies' : FMap DieX} {tiles' : FMap TileX} {stackMap' :
    FMap StackX} {far' : FarX} {digests' : List DigestJob} {cores' : FMap CoreX} {procs' : FMap ProcX} {solvers' : FMap
    SolverX} {copies' : FMap CopyX} {fabric' : FabricX} {ports' : FMap PortX} {coll' : CollX} {tb' : TbX} {chans' : FMap
    ChanX} {pkc' : PkcX} {sec' : SecX} {pwr' : PwrX} {jrn' : JrnX} {strata' : FMap StrJob} {host' : HostX} {mgt' : MgtX}
    {jtag' : JtagX} {straps' : Straps} :
    Kept q
      ⟨x.pending, freeCount', r, shadow', m, poison', g, dies', tiles', stackMap', far', digests', cores', procs', solvers',
        copies', fabric', ports', coll', tb', chans', pkc', sec', pwr', jrn', strata', host', mgt', jtag', straps'⟩ := by
  obtain ⟨h1, h2⟩ := h
  simp only [State.canon, Bool.and_eq_true] at h2
  exact ⟨h1, by simp [State.canon, hm h2.1.1, hr h2.1.2, hg h2.2]⟩

theorem Kept.ite {q : List Instr} {c : Prop} [Decidable c] {a b : State} (ha : Kept q a) (hb : Kept q b) :
    Kept q (if c then a else b) := by
  split <;> assumption

theorem Kept.foldl {α : Type} {q : List Instr} {f : State → α → State} {l : List α} {s : State}
    (hf : ∀ s a, Kept q s → Kept q (f s a)) (hs : Kept q s) : Kept q (l.foldl f s) := by
  induction l generalizing s with
  | nil => exact hs
  | cons a l ih => exact ih (hf s a hs)

theorem Kept.foldl_fst {α β : Type} {q : List Instr} {f : State × β → α → State × β} {l : List α} {s : State × β}
    (hf : ∀ s a, Kept q s.1 → Kept q (f s a).1) (hs : Kept q s.1) : Kept q (l.foldl f s).1 := by
  induction l generalizing s with
  | nil => exact hs
  | cons a l ih => exact ih (hf s a hs)

theorem Kept.ite_fst {α : Type} {q : List Instr} {c : Prop} [Decidable c] {a b : State × α} (ha : Kept q a.1)
    (hb : Kept q b.1) : Kept q (if c then a else b).1 := by
  split <;> assumption

theorem Kept.of_fst {α : Type} {q : List Instr} {x : State × α} {s : State} {a : α} (h : x = (s, a)) (hk : Kept q x.1) :
    Kept q s := by
  subst h; exact hk

theorem Kept.of_snd {α : Type} {q : List Instr} {x : α × State} {s : State} {a : α} (h : x = (a, s)) (hk : Kept q x.2) :
    Kept q s := by
  subst h; exact hk

/-- The state after reset is canonical, with an empty queue. -/
theorem State.reset_kept : Kept [] State.reset := ⟨rfl, by decide⟩

end Sys2Proof.Machine
end

