-- ==== Sys2Proof/Laws/KeptOps.lean ====
section
/-! SUPPORT. Frame lemmas for registers, tags, tile scratch, stacks and direct accesses: each function keeps the queue of waiting commands and the canonical form of memory,
registers and tags (`Kept`). -/

namespace Sys2Proof.Machine

/-! ### Registers -/

theorem State.setReg_kept (s : State) (a : Nat) (v : Word) {q : List Instr} (hk : Kept q s) : Kept q (State.setReg s a v) :=
    by
  unfold State.setReg
  repeat' (with_reducible first
    | assumption | (intro _) | (apply Kept.ite) | split | (dsimp only) | (apply Kept.update) | (apply writeBytes_wf)
    | (apply clearBytes_wf) | (apply writePicked_wf) | (apply canonMap_mapSet) | (apply canonMap_mapKeep)
    | (exact canonMap_nil))

theorem State.setFld_kept (s : State) (b : Nat) (f : Field) (v : Nat) {q : List Instr} (hk : Kept q s) : Kept q (State.setFld
    s b f v) := by
  unfold State.setFld
  repeat' (with_reducible first
    | assumption | (intro _) | (apply State.setReg_kept) | (apply Kept.ite) | split | (dsimp only))

theorem State.setReg64_kept (s : State) (a : Nat) (v : Nat) {q : List Instr} (hk : Kept q s) : Kept q (State.setReg64 s a v)
    := by
  unfold State.setReg64
  repeat' (with_reducible first
    | assumption | (intro _) | (apply State.setReg_kept) | (apply Kept.ite) | split | (dsimp only))

theorem State.bump_kept (s : State) (b : Nat) (f : Field) {q : List Instr} (hk : Kept q s) : Kept q (State.bump s b f) := by
  unfold State.bump
  repeat' (with_reducible first
    | assumption | (intro _) | (apply State.setFld_kept) | (apply Kept.ite) | split | (dsimp only))

theorem State.bumpBy_kept (s : State) (b : Nat) (f : Field) (n : Nat) {q : List Instr} (hk : Kept q s) : Kept q (State.bumpBy
    s b f n) := by
  unfold State.bumpBy
  repeat' (with_reducible first
    | assumption | (intro _) | (apply State.setFld_kept) | (apply Kept.ite) | split | (dsimp only))

theorem State.resetRegs_kept (s : State) (p : Nat → Bool) {q : List Instr} (hk : Kept q s) : Kept q (State.resetRegs s p) :=
    by
  unfold State.resetRegs
  repeat' (with_reducible first
    | assumption | (intro _) | (apply Kept.ite) | split | (dsimp only) | (apply Kept.update) | (apply writeBytes_wf)
    | (apply clearBytes_wf) | (apply writePicked_wf) | (apply canonMap_mapSet) | (apply canonMap_mapKeep)
    | (exact canonMap_nil))

/-! ### Ops -/

theorem State.setDie_kept (s : State) (d : Nat) (x : DieX) {q : List Instr} (hk : Kept q s) : Kept q (State.setDie s d x) :=
    by
  unfold State.setDie
  repeat' (with_reducible first
    | assumption | (intro _) | (apply Kept.ite) | split | (dsimp only) | (apply Kept.update))

theorem State.modDie_kept (s : State) (d : Nat) (f : DieX → DieX) {q : List Instr} (hk : Kept q s) : Kept q (State.modDie s d
    f) := by
  unfold State.modDie
  repeat' (with_reducible first
    | assumption | (intro _) | (apply State.setDie_kept) | (apply Kept.ite) | split | (dsimp only))

theorem State.setTile_kept (s : State) (d : Nat) (t : Nat) (x : TileX) {q : List Instr} (hk : Kept q s) : Kept q
    (State.setTile s d t x) := by
  unfold State.setTile
  repeat' (with_reducible first
    | assumption | (intro _) | (apply Kept.ite) | split | (dsimp only) | (apply Kept.update))

theorem State.modTile_kept (s : State) (d : Nat) (t : Nat) (f : TileX → TileX) {q : List Instr} (hk : Kept q s) : Kept q
    (State.modTile s d t f) := by
  unfold State.modTile
  repeat' (with_reducible first
    | assumption | (intro _) | (apply State.setTile_kept) | (apply Kept.ite) | split | (dsimp only))

theorem State.setStack_kept (s : State) (k : Nat) (x : StackX) {q : List Instr} (hk : Kept q s) : Kept q (State.setStack s k
    x) := by
  unfold State.setStack
  repeat' (with_reducible first
    | assumption | (intro _) | (apply Kept.ite) | split | (dsimp only) | (apply Kept.update))

theorem State.modStack_kept (s : State) (k : Nat) (f : StackX → StackX) {q : List Instr} (hk : Kept q s) : Kept q
    (State.modStack s k f) := by
  unfold State.modStack
  repeat' (with_reducible first
    | assumption | (intro _) | (apply State.setStack_kept) | (apply Kept.ite) | split | (dsimp only))

theorem State.setCore_kept (s : State) (c : Nat) (x : CoreX) {q : List Instr} (hk : Kept q s) : Kept q (State.setCore s c x)
    := by
  unfold State.setCore
  repeat' (with_reducible first
    | assumption | (intro _) | (apply Kept.ite) | split | (dsimp only) | (apply Kept.update))

theorem State.modCore_kept (s : State) (c : Nat) (f : CoreX → CoreX) {q : List Instr} (hk : Kept q s) : Kept q (State.modCore
    s c f) := by
  unfold State.modCore
  repeat' (with_reducible first
    | assumption | (intro _) | (apply State.setCore_kept) | (apply Kept.ite) | split | (dsimp only))

theorem State.setProc_kept (s : State) (d : Nat) (x : ProcX) {q : List Instr} (hk : Kept q s) : Kept q (State.setProc s d x)
    := by
  unfold State.setProc
  repeat' (with_reducible first
    | assumption | (intro _) | (apply Kept.ite) | split | (dsimp only) | (apply Kept.update))

theorem State.setSolver_kept (s : State) (e : Nat) (x : SolverX) {q : List Instr} (hk : Kept q s) : Kept q (State.setSolver s
    e x) := by
  unfold State.setSolver
  repeat' (with_reducible first
    | assumption | (intro _) | (apply Kept.ite) | split | (dsimp only) | (apply Kept.update))

theorem State.modSolver_kept (s : State) (e : Nat) (f : SolverX → SolverX) {q : List Instr} (hk : Kept q s) : Kept q
    (State.modSolver s e f) := by
  unfold State.modSolver
  repeat' (with_reducible first
    | assumption | (intro _) | (apply State.setSolver_kept) | (apply Kept.ite) | split | (dsimp only))

theorem State.setCopy_kept (s : State) (e : Nat) (x : CopyX) {q : List Instr} (hk : Kept q s) : Kept q (State.setCopy s e x)
    := by
  unfold State.setCopy
  repeat' (with_reducible first
    | assumption | (intro _) | (apply Kept.ite) | split | (dsimp only) | (apply Kept.update))

theorem State.modCopy_kept (s : State) (e : Nat) (f : CopyX → CopyX) {q : List Instr} (hk : Kept q s) : Kept q (State.modCopy
    s e f) := by
  unfold State.modCopy
  repeat' (with_reducible first
    | assumption | (intro _) | (apply State.setCopy_kept) | (apply Kept.ite) | split | (dsimp only))

theorem State.setPort_kept (s : State) (p : Nat) (x : PortX) {q : List Instr} (hk : Kept q s) : Kept q (State.setPort s p x)
    := by
  unfold State.setPort
  repeat' (with_reducible first
    | assumption | (intro _) | (apply Kept.ite) | split | (dsimp only) | (apply Kept.update))

theorem State.modPort_kept (s : State) (p : Nat) (f : PortX → PortX) {q : List Instr} (hk : Kept q s) : Kept q (State.modPort
    s p f) := by
  unfold State.modPort
  repeat' (with_reducible first
    | assumption | (intro _) | (apply State.setPort_kept) | (apply Kept.ite) | split | (dsimp only))

theorem State.setChan_kept (s : State) (n : Nat) (x : ChanX) {q : List Instr} (hk : Kept q s) : Kept q (State.setChan s n x)
    := by
  unfold State.setChan
  repeat' (with_reducible first
    | assumption | (intro _) | (apply Kept.ite) | split | (dsimp only) | (apply Kept.update))

theorem State.modChan_kept (s : State) (n : Nat) (f : ChanX → ChanX) {q : List Instr} (hk : Kept q s) : Kept q (State.modChan
    s n f) := by
  unfold State.modChan
  repeat' (with_reducible first
    | assumption | (intro _) | (apply State.setChan_kept) | (apply Kept.ite) | split | (dsimp only))

theorem State.modSlot_kept (s : State) (d : Nat) (i : Nat) (f : SlotX → SlotX) {q : List Instr} (hk : Kept q s) : Kept q
    (State.modSlot s d i f) := by
  unfold State.modSlot
  repeat' (with_reducible first
    | assumption | (intro _) | (apply State.modDie_kept) | (apply Kept.ite) | split | (dsimp only) | (apply Kept.update))

theorem State.stir_kept (s : State) (own : Option Nat) (a : Nat) (n : Nat) {q : List Instr} (hk : Kept q s) : Kept q
    (State.stir s own a n) := by
  unfold State.stir
  repeat' (with_reducible first
    | assumption | (intro _) | (apply Kept.ite) | split | (dsimp only) | (apply Kept.update))

theorem State.draw_kept (s : State) {q : List Instr} (hk : Kept q s) : Kept q (State.draw s).2 := by
  unfold State.draw
  repeat' (with_reducible first
    | assumption | (intro _) | (apply Kept.ite) | split | (dsimp only) | (apply Kept.update))

theorem State.ring_kept (s : State) (n : Nat) (b : Nat) {q : List Instr} (hk : Kept q s) : Kept q (State.ring s n b) := by
  unfold State.ring
  repeat' (with_reducible first
    | assumption | (intro _) | (apply State.setReg_kept) | (apply Kept.ite) | split | (dsimp only) | (apply Kept.update))

theorem State.ringClass_kept (s : State) (b : Nat) (unit : Nat) (skip : Option Nat) {q : List Instr} (hk : Kept q s) : Kept q
    (State.ringClass s b unit skip) := by
  unfold State.ringClass
  repeat' (with_reducible first
    | assumption | (intro _) | (apply State.ring_kept) | (apply Kept.ite) | (apply Kept.foldl) | (apply Kept.foldl_fst)
    | split | (dsimp only))

theorem State.event_kept (s : State) (base : Nat) (f : Field) (b : Nat) (direct : Option Nat) (masked : Bool) (unit : Nat) {q
    : List Instr} (hk : Kept q s) : Kept q (State.event s base f b direct masked unit) := by
  unfold State.event
  repeat' (with_reducible first
    | assumption | (intro _) | (apply State.setFld_kept) | (apply State.direct_kept) | (apply State.ring_kept)
    | (apply State.ringClass_kept) | (apply Kept.ite) | split | (refine Kept.of_fst (by assumption) ?_)
    | (refine Kept.of_snd (by assumption) ?_) | (dsimp only) | (apply Kept.update))

theorem State.log_kept (s : State) (r : LogRec) {q : List Instr} (hk : Kept q s) : Kept q (State.log s r) := by
  unfold State.log
  repeat' (with_reducible first
    | assumption | (intro _) | (apply State.ringClass_kept) | (apply Kept.ite) | split
    | (refine Kept.of_fst (by assumption) ?_) | (refine Kept.of_snd (by assumption) ?_) | (dsimp only) | (apply Kept.update))

theorem State.logLate_kept (s : State) (source : Nat) (unit : Nat) (job : Nat) (planned : Nat) (cause : Nat) {q : List Instr}
    (hk : Kept q s) : Kept q (State.logLate s source unit job planned cause) := by
  unfold State.logLate
  repeat' (with_reducible first
    | assumption | (intro _) | (apply State.log_kept) | (apply Kept.ite) | split | (dsimp only))

theorem State.logRefused_kept (s : State) (status : Nat) (source : Nat) (unit : Nat) (peer : Nat) (job : Nat) (detail : List
    Word) {q : List Instr} (hk : Kept q s) : Kept q (State.logRefused s status source unit peer job detail) := by
  unfold State.logRefused
  repeat' (with_reducible first
    | assumption | (intro _) | (apply State.log_kept) | (apply Kept.ite) | split | (dsimp only))

theorem State.drift_kept (s : State) (d : Nat) (cause : Nat) {q : List Instr} (hk : Kept q s) : Kept q (State.drift s d cause)
    := by
  unfold State.drift
  repeat' (with_reducible first
    | assumption | (intro _) | (apply State.bump_kept) | (apply Kept.ite) | split | (dsimp only))

/-! ### Flags -/

theorem State.raise_kept (s : State) (d : Nat) (t : Nat) (matrix : Bool) (f : Flags) {q : List Instr} (hk : Kept q s) : Kept q
    (State.raise s d t matrix f) := by
  unfold State.raise
  repeat' (with_reducible first
    | assumption | (intro _) | (apply State.setReg_kept) | (apply State.setFld_kept) | (apply State.modDie_kept)
    | (apply Kept.ite) | split | (refine Kept.of_fst (by assumption) ?_) | (refine Kept.of_snd (by assumption) ?_)
    | (dsimp only) | (apply Kept.update))

theorem State.readTileFlags_kept (s : State) (d : Nat) (t : Nat) (clear : Bool) {q : List Instr} (hk : Kept q s) : Kept q
    (State.readTileFlags s d t clear).2 := by
  unfold State.readTileFlags
  repeat' (with_reducible first
    | assumption | (intro _) | (apply State.setReg_kept) | (apply Kept.ite) | split | (dsimp only))

theorem State.flagsDue_kept (s : State) (d : Nat) (t : Nat) (c : Nat) {q : List Instr} (hk : Kept q s) : Kept q
    (State.flagsDue s d t c) := by
  unfold State.flagsDue
  repeat' (with_reducible first
    | assumption | (intro _) | (apply State.modTile_kept) | (apply State.raise_kept) | (apply Kept.ite) | (apply Kept.foldl)
    | (apply Kept.foldl_fst) | split | (refine Kept.of_fst (by assumption) ?_) | (refine Kept.of_snd (by assumption) ?_)
    | (dsimp only) | (apply Kept.update))

/-! ### DieBase -/

theorem State.setDieState_kept (s : State) (d : Nat) (v : Nat) {q : List Instr} (hk : Kept q s) : Kept q (State.setDieState s
    d v) := by
  unfold State.setDieState
  repeat' (with_reducible first
    | assumption | (intro _) | (apply State.setFld_kept) | (apply Kept.ite) | split | (dsimp only))

theorem State.setSlotState_kept (s : State) (d : Nat) (i : Nat) (v : Nat) {q : List Instr} (hk : Kept q s) : Kept q
    (State.setSlotState s d i v) := by
  unfold State.setSlotState
  repeat' (with_reducible first
    | assumption | (intro _) | (apply State.setFld_kept) | (apply Kept.ite) | split | (dsimp only))

theorem State.dsqEvent_kept (s : State) (d : Nat) (f : Field) {q : List Instr} (hk : Kept q s) : Kept q (State.dsqEvent s d f)
    := by
  unfold State.dsqEvent
  repeat' (with_reducible first
    | assumption | (intro _) | (apply State.event_kept) | (apply Kept.ite) | split | (dsimp only))

theorem State.scrEvent_kept (s : State) (d : Nat) (f : Field) {q : List Instr} (hk : Kept q s) : Kept q (State.scrEvent s d f)
    := by
  unfold State.scrEvent
  repeat' (with_reducible first
    | assumption | (intro _) | (apply State.event_kept) | (apply Kept.ite) | split | (dsimp only))

theorem State.memEvent_kept (s : State) (d : Nat) (f : Field) {q : List Instr} (hk : Kept q s) : Kept q (State.memEvent s d f)
    := by
  unfold State.memEvent
  repeat' (with_reducible first
    | assumption | (intro _) | (apply State.event_kept) | (apply Kept.ite) | split | (dsimp only))

theorem State.tnmEvent_kept (s : State) (d : Nat) (f : Field) {q : List Instr} (hk : Kept q s) : Kept q (State.tnmEvent s d f)
    := by
  unfold State.tnmEvent
  repeat' (with_reducible first
    | assumption | (intro _) | (apply State.event_kept) | (apply Kept.ite) | split | (dsimp only))

theorem State.strEvent_kept (s : State) (d : Nat) (f : Field) {q : List Instr} (hk : Kept q s) : Kept q (State.strEvent s d f)
    := by
  unfold State.strEvent
  repeat' (with_reducible first
    | assumption | (intro _) | (apply State.event_kept) | (apply Kept.ite) | split | (dsimp only))

theorem State.slvEvent_kept (s : State) (e : Nat) (f : Field) {q : List Instr} (hk : Kept q s) : Kept q (State.slvEvent s e f)
    := by
  unfold State.slvEvent
  repeat' (with_reducible first
    | assumption | (intro _) | (apply State.event_kept) | (apply Kept.ite) | split | (dsimp only))

theorem State.cpeEvent_kept (s : State) (e : Nat) (f : Field) {q : List Instr} (hk : Kept q s) : Kept q (State.cpeEvent s e f)
    := by
  unfold State.cpeEvent
  repeat' (with_reducible first
    | assumption | (intro _) | (apply State.event_kept) | (apply Kept.ite) | split | (dsimp only))

theorem State.prtEvent_kept (s : State) (p : Nat) (f : Field) {q : List Instr} (hk : Kept q s) : Kept q (State.prtEvent s p f)
    := by
  unfold State.prtEvent
  repeat' (with_reducible first
    | assumption | (intro _) | (apply State.event_kept) | (apply Kept.ite) | split | (dsimp only))

theorem State.tbEvent_kept (s : State) (f : Field) {q : List Instr} (hk : Kept q s) : Kept q (State.tbEvent s f) := by
  unfold State.tbEvent
  repeat' (with_reducible first
    | assumption | (intro _) | (apply State.event_kept) | (apply Kept.ite) | split | (dsimp only))

theorem State.pwrEvent_kept (s : State) (f : Field) {q : List Instr} (hk : Kept q s) : Kept q (State.pwrEvent s f) := by
  unfold State.pwrEvent
  repeat' (with_reducible first
    | assumption | (intro _) | (apply State.setFld_kept) | (apply State.ringClass_kept) | (apply Kept.ite) | split
    | (dsimp only))

theorem State.dieBusy_kept (s : State) (d : Nat) {q : List Instr} (hk : Kept q s) : Kept q (State.dieBusy s d) := by
  unfold State.dieBusy
  repeat' (with_reducible first
    | assumption | (intro _) | (apply State.log_kept) | (apply Kept.ite) | split | (dsimp only))

theorem State.setJobMode_kept (s : State) (job : Nat) (relaxed : Bool) (throughput : Bool) {q : List Instr} (hk : Kept q s) :
    Kept q (State.setJobMode s job relaxed throughput) := by
  unfold State.setJobMode
  repeat' (with_reducible first
    | assumption | (intro _) | (apply State.setFld_kept) | (apply State.setReg_kept) | (apply Kept.ite) | split
    | (refine Kept.of_fst (by assumption) ?_) | (refine Kept.of_snd (by assumption) ?_) | (dsimp only) | (apply Kept.update))

theorem commitOne_kept (s : State) (a : Nat) (h : Shadow) {q : List Instr} (hk : Kept q s) : Kept q (commitOne s a h) := by
  unfold commitOne
  repeat' (with_reducible first
    | assumption | (intro _) | (apply State.setReg_kept) | (apply Kept.ite) | split | (dsimp only))

theorem tasksChanged_kept (old : State) (s : State) (d : Nat) {q : List Instr} (hk : Kept q s) : Kept q (tasksChanged old s d)
    := by
  unfold tasksChanged
  repeat' (with_reducible first
    | assumption | (intro _) | (apply State.setFld_kept) | (apply State.setJobMode_kept) | (apply Kept.ite)
    | (apply Kept.foldl) | (apply Kept.foldl_fst) | split | (dsimp only))

theorem noteHolders_kept (s : State) (d : Nat) {q : List Instr} (hk : Kept q s) : Kept q (noteHolders s d) := by
  unfold noteHolders
  repeat' (with_reducible first
    | assumption | (intro _) | (apply State.modDie_kept) | (apply Kept.ite) | (apply Kept.foldl) | (apply Kept.foldl_fst)
    | split | (dsimp only) | (apply Kept.update))

theorem State.commitShadows_kept (s : State) (d : Nat) {q : List Instr} (hk : Kept q s) : Kept q (State.commitShadows s d) :=
    by
  unfold State.commitShadows
  repeat' (with_reducible first
    | assumption | (intro _) | (apply commitOne_kept) | (apply noteHolders_kept) | (apply tasksChanged_kept)
    | (apply Kept.ite) | (apply Kept.foldl) | (apply Kept.foldl_fst) | split | (dsimp only) | (apply Kept.update))

theorem State.mapTiles_kept (s : State) (d : Nat) (f : Nat → TileX → TileX) {q : List Instr} (hk : Kept q s) : Kept q
    (State.mapTiles s d f) := by
  unfold State.mapTiles
  repeat' (with_reducible first
    | assumption | (intro _) | (apply Kept.ite) | split | (dsimp only) | (apply Kept.update))

theorem State.enterStopped_kept (s : State) (d : Nat) {q : List Instr} (hk : Kept q s) : Kept q (State.enterStopped s d) := by
  unfold State.enterStopped
  repeat' (with_reducible first
    | assumption | (intro _) | (apply State.commitShadows_kept) | (apply State.setSlotState_kept)
    | (apply State.setReg64_kept) | (apply State.modDie_kept) | (apply State.setFld_kept) | (apply State.setDieState_kept)
    | (apply State.dsqEvent_kept) | (apply Kept.ite) | split | (dsimp only) | (apply Kept.update))

theorem State.countHold_kept (s : State) (d : Nat) (n : Nat) {q : List Instr} (hk : Kept q s) : Kept q (State.countHold s d n)
    := by
  unfold State.countHold
  repeat' (with_reducible first
    | assumption | (intro _) | (apply State.bump_kept) | (apply State.bumpBy_kept) | (apply State.drift_kept)
    | (apply State.modDie_kept) | (apply Kept.ite) | split | (refine Kept.of_fst (by assumption) ?_)
    | (refine Kept.of_snd (by assumption) ?_) | (dsimp only) | (apply Kept.update))

theorem State.vecStop_kept (s : State) (d : Nat) {q : List Instr} (hk : Kept q s) : Kept q (State.vecStop s d) := by
  unfold State.vecStop
  repeat' (with_reducible first
    | assumption | (intro _) | (apply State.flagsDue_kept) | (apply State.setFld_kept) | (apply Kept.ite) | (apply Kept.foldl)
    | (apply Kept.foldl_fst) | split | (dsimp only))

theorem State.abortDie_kept (s : State) (d : Nat) {q : List Instr} (hk : Kept q s) : Kept q (State.abortDie s d) := by
  unfold State.abortDie
  repeat' (with_reducible first
    | assumption | (intro _) | (apply State.countHold_kept) | (apply State.vecStop_kept) | (apply State.mapTiles_kept)
    | (apply State.enterStopped_kept) | (apply Kept.ite) | split | (dsimp only))

theorem State.stopDie_kept (s : State) (d : Nat) {q : List Instr} (hk : Kept q s) : Kept q (State.stopDie s d) := by
  unfold State.stopDie
  repeat' (with_reducible first
    | assumption | (intro _) | (apply State.modDie_kept) | (apply Kept.ite) | split | (dsimp only) | (apply Kept.update))

/-! ### Scratch -/

theorem State.setTag_kept (s : State) (d : Nat) (t : Nat) (p : Nat) (g : Tag) {q : List Instr} (hk : Kept q s) : Kept q
    (State.setTag s d t p g) := by
  unfold State.setTag
  repeat' (with_reducible first
    | assumption | (intro _) | (apply Kept.ite) | split | (dsimp only) | (apply Kept.update) | (apply writeBytes_wf)
    | (apply clearBytes_wf) | (apply writePicked_wf) | (apply canonMap_mapSet) | (apply canonMap_mapKeep)
    | (exact canonMap_nil))

theorem State.setTagAt_kept (s : State) (d : Nat) (t : Nat) (p : Nat) (g : Tag) (v : Nat) {q : List Instr} (hk : Kept q s) :
    Kept q (State.setTagAt s d t p g v) := by
  unfold State.setTagAt
  repeat' (with_reducible first
    | assumption | (intro _) | (apply State.setTag_kept) | (apply State.modDie_kept) | (apply Kept.ite) | split | (dsimp only)
    | (apply Kept.update))

theorem State.scrErrInfo_kept (s : State) (d : Nat) (t : Nat) (p : Nat) (w : Nat) (kind : Nat) {q : List Instr} (hk : Kept q
    s) : Kept q (State.scrErrInfo s d t p w kind) := by
  unfold State.scrErrInfo
  repeat' (with_reducible first
    | assumption | (intro _) | (apply State.setReg_kept) | (apply Kept.ite) | split | (dsimp only))

theorem State.scrFatalLog_kept (s : State) (d : Nat) (t : Nat) (p : Nat) (w : Nat) {q : List Instr} (hk : Kept q s) : Kept q
    (State.scrFatalLog s d t p w) := by
  unfold State.scrFatalLog
  repeat' (with_reducible first
    | assumption | (intro _) | (apply State.log_kept) | (apply Kept.ite) | split | (dsimp only))

theorem meetUpset_kept (d : Nat) (s : State) (u : Upset) {q : List Instr} (hk : Kept q s) : Kept q (meetUpset d s u) := by
  unfold meetUpset
  repeat' (with_reducible first
    | assumption | (intro _) | (apply State.bump_kept) | (apply State.scrEvent_kept) | (apply State.scrErrInfo_kept)
    | (apply State.setTag_kept) | (apply State.scrFatalLog_kept) | (apply Kept.ite) | split
    | (refine Kept.of_fst (by assumption) ?_) | (refine Kept.of_snd (by assumption) ?_) | (dsimp only) | (apply Kept.update))

theorem State.meetUpsets_kept (s : State) (d : Nat) (hit : Upset → Bool) {q : List Instr} (hk : Kept q s) : Kept q
    (State.meetUpsets s d hit) := by
  unfold State.meetUpsets
  repeat' (with_reducible first
    | assumption | (intro _) | (apply meetUpset_kept) | (apply State.modDie_kept) | (apply Kept.ite) | (apply Kept.foldl)
    | (apply Kept.foldl_fst) | split | (dsimp only) | (apply Kept.update))

theorem State.meetSlot_kept (s : State) (d : Nat) (t : Nat) (p : Nat) (hit : Upset → Bool) {q : List Instr} (hk : Kept q s) :
    Kept q (State.meetSlot s d t p hit) := by
  unfold State.meetSlot
  repeat' (with_reducible first
    | assumption | (intro _) | (apply State.meetUpsets_kept) | (apply Kept.ite) | split | (dsimp only))

theorem State.touchTag_kept (s : State) (d : Nat) (t : Nat) (p : Nat) {q : List Instr} (hk : Kept q s) : Kept q
    (State.touchTag s d t p) := by
  unfold State.touchTag
  repeat' (with_reducible first
    | assumption | (intro _) | (apply State.meetSlot_kept) | (apply Kept.ite) | split | (dsimp only))

theorem State.touchBytes_kept (s : State) (d : Nat) (t : Nat) (p : Nat) (lo : Nat) (n : Nat) {q : List Instr} (hk : Kept q s)
    : Kept q (State.touchBytes s d t p lo n) := by
  unfold State.touchBytes
  repeat' (with_reducible first
    | assumption | (intro _) | (apply State.meetSlot_kept) | (apply Kept.ite) | split | (dsimp only))

theorem State.overBytes_kept (s : State) (d : Nat) (t : Nat) (p : Nat) (lo : Nat) (n : Nat) {q : List Instr} (hk : Kept q s) :
    Kept q (State.overBytes s d t p lo n) := by
  unfold State.overBytes
  repeat' (with_reducible first
    | assumption | (intro _) | (apply State.modDie_kept) | (apply State.touchBytes_kept) | (apply Kept.ite) | split
    | (dsimp only) | (apply Kept.update))

theorem State.scrMark_kept (s : State) (d : Nat) (g : Nat) {q : List Instr} (hk : Kept q s) : Kept q (State.scrMark s d g) :=
    by
  unfold State.scrMark
  repeat' (with_reducible first
    | assumption | (intro _) | (apply State.modDie_kept) | (apply Kept.ite) | split | (dsimp only) | (apply Kept.update))

theorem State.preserveSlot_kept (s : State) (d : Nat) (t : Nat) (p : Nat) {q : List Instr} (hk : Kept q s) : Kept q
    (State.preserveSlot s d t p) := by
  unfold State.preserveSlot
  repeat' (with_reducible first
    | assumption | (intro _) | (apply State.modDie_kept) | (apply Kept.ite) | split | (refine Kept.of_fst (by assumption) ?_)
    | (refine Kept.of_snd (by assumption) ?_) | (dsimp only) | (apply Kept.update) | (apply writeBytes_wf)
    | (apply clearBytes_wf) | (apply writePicked_wf) | (apply canonMap_mapSet) | (apply canonMap_mapKeep)
    | (exact canonMap_nil))

theorem State.putSlot_kept (s : State) (d : Nat) (t : Nat) (p : Nat) (ofs : Nat) (data : List Byte) {q : List Instr} (hk :
    Kept q s) : Kept q (State.putSlot s d t p ofs data) := by
  unfold State.putSlot
  repeat' (with_reducible first
    | assumption | (intro _) | (apply State.preserveSlot_kept) | (apply State.scrMark_kept) | (apply State.stir_kept)
    | (apply Kept.ite) | split | (dsimp only) | (apply Kept.update) | (apply writeBytes_wf) | (apply clearBytes_wf)
    | (apply writePicked_wf) | (apply canonMap_mapSet) | (apply canonMap_mapKeep) | (exact canonMap_nil))

theorem State.noteWrite_kept (s : State) (d : Nat) (t : Nat) (w : Nat) (a : Nat) (n : Nat) {q : List Instr} (hk : Kept q s) :
    Kept q (State.noteWrite s d t w a n) := by
  unfold State.noteWrite
  repeat' (with_reducible first
    | assumption | (intro _) | (apply State.modTile_kept) | (apply State.modDie_kept) | (apply Kept.ite) | split
    | (dsimp only) | (apply Kept.update))

theorem State.tilePut_kept (s : State) (d : Nat) (t : Nat) (p : Nat) (ofs : Nat) (w : Nat) (data : List Byte) {q : List Instr}
    (hk : Kept q s) : Kept q (State.tilePut s d t p ofs w data) := by
  unfold State.tilePut
  repeat' (with_reducible first
    | assumption | (intro _) | (apply State.overBytes_kept) | (apply State.noteWrite_kept) | (apply State.putSlot_kept)
    | (apply Kept.ite) | split | (dsimp only))

theorem State.tileTag_kept (s : State) (d : Nat) (t : Nat) (p : Nat) (w : Nat) (whole : Bool) (fills : Bool) {q : List Instr}
    (hk : Kept q s) : Kept q (State.tileTag s d t p w whole fills) := by
  unfold State.tileTag
  repeat' (with_reducible first
    | assumption | (intro _) | (apply State.setTagAt_kept) | (apply Kept.ite) | split | (dsimp only))

theorem State.scrAbort_kept (s : State) (d : Nat) (t : Nat) (p : Nat) (w : Nat) (kind : Nat) {q : List Instr} (hk : Kept q s)
    : Kept q (State.scrAbort s d t p w kind) := by
  unfold State.scrAbort
  repeat' (with_reducible first
    | assumption | (intro _) | (apply State.scrErrInfo_kept) | (apply State.scrEvent_kept) | (apply State.scrFatalLog_kept)
    | (apply State.abortDie_kept) | (apply Kept.ite) | split | (dsimp only))

theorem State.scrArrive_kept (s : State) (d : Nat) (t : Nat) (p : Nat) (ofs : Nat) (data : List Byte) (fill : Bool) (poison :
    Bool) {q : List Instr} (hk : Kept q s) : Kept q (State.scrArrive s d t p ofs data fill poison) := by
  unfold State.scrArrive
  repeat' (with_reducible first
    | assumption | (intro _) | (apply State.touchTag_kept) | (apply State.scrAbort_kept) | (apply State.overBytes_kept)
    | (apply State.noteWrite_kept) | (apply State.putSlot_kept) | (apply State.setTagAt_kept) | (apply State.tileTag_kept)
    | (apply Kept.ite) | split | (dsimp only))

theorem State.scrDrop_kept (s : State) (d : Nat) (t : Nat) (p : Nat) (place : Nat) (src : Nat) {q : List Instr} (hk : Kept q
    s) : Kept q (State.scrDrop s d t p place src) := by
  unfold State.scrDrop
  repeat' (with_reducible first
    | assumption | (intro _) | (apply State.log_kept) | (apply State.bump_kept) | (apply State.scrEvent_kept)
    | (apply Kept.ite) | split | (dsimp only))

theorem State.windowAccess_kept (s : State) (d : Nat) (a : WindowAccess) (src : Nat) {q : List Instr} (hk : Kept q s) : Kept q
    (State.windowAccess s d a src).1 := by
  unfold State.windowAccess
  repeat' (with_reducible first
    | assumption | (intro _) | (apply State.touchBytes_kept) | (apply State.scrArrive_kept) | (apply State.scrDrop_kept)
    | (apply Kept.ite) | split | (refine Kept.of_fst (by assumption) ?_) | (refine Kept.of_snd (by assumption) ?_)
    | (dsimp only) | (apply Kept.update))

theorem State.scrLand_kept (s : State) (d : Nat) (t : Nat) (p : Nat) (ofs : Nat) (data : List Byte) (fill : Bool) (poison :
    Bool) (src : Nat) {q : List Instr} (hk : Kept q s) : Kept q (State.scrLand s d t p ofs data fill poison src) := by
  unfold State.scrLand
  repeat' (with_reducible first
    | assumption | (intro _) | (apply State.scrArrive_kept) | (apply State.scrDrop_kept) | (apply Kept.ite) | split
    | (dsimp only))

theorem State.routeArrive_kept (s : State) (src : Nat) (d : Nat) (t : Nat) (slot : Nat) (data : List Byte) {q : List Instr}
    (hk : Kept q s) : Kept q (State.routeArrive s src d t slot data) := by
  unfold State.routeArrive
  repeat' (with_reducible first
    | assumption | (intro _) | (apply State.modDie_kept) | (apply State.scrDrop_kept) | (apply State.scrArrive_kept)
    | (apply Kept.ite) | split | (refine Kept.of_fst (by assumption) ?_) | (refine Kept.of_snd (by assumption) ?_)
    | (dsimp only) | (apply Kept.update))

theorem State.startClear_kept (s : State) (d : Nat) (first : Nat) (count : Nat) {q : List Instr} (hk : Kept q s) : Kept q
    (State.startClear s d first count) := by
  unfold State.startClear
  repeat' (with_reducible first
    | assumption | (intro _) | (apply State.log_kept) | (apply State.modDie_kept) | (apply Kept.ite) | split | (dsimp only)
    | (apply Kept.update))

theorem State.preserveRange_kept (s : State) (d : Nat) (c : ClearX) {q : List Instr} (hk : Kept q s) : Kept q
    (State.preserveRange s d c) := by
  unfold State.preserveRange
  repeat' (with_reducible first
    | assumption | (intro _) | (apply State.preserveSlot_kept) | (apply Kept.ite) | (apply Kept.foldl)
    | (apply Kept.foldl_fst) | split | (dsimp only))

theorem State.zeroSlots_kept (s : State) (d : Nat) (c : ClearX) {q : List Instr} (hk : Kept q s) : Kept q (State.zeroSlots s d
    c) := by
  unfold State.zeroSlots
  repeat' (with_reducible first
    | assumption | (intro _) | (apply State.preserveRange_kept) | (apply State.modDie_kept) | (apply Kept.ite) | split
    | (dsimp only) | (apply Kept.update) | (apply writeBytes_wf) | (apply clearBytes_wf) | (apply writePicked_wf)
    | (apply canonMap_mapSet) | (apply canonMap_mapKeep) | (exact canonMap_nil))

theorem State.clearSlot_kept (s : State) (d : Nat) (p : Nat) (w : Nat) {q : List Instr} (hk : Kept q s) : Kept q
    (State.clearSlot s d p w) := by
  unfold State.clearSlot
  repeat' (with_reducible first
    | assumption | (intro _) | (apply State.setTagAt_kept) | (apply State.noteWrite_kept) | (apply State.zeroSlots_kept)
    | (apply Kept.ite) | (apply Kept.foldl) | (apply Kept.foldl_fst) | split | (dsimp only))

theorem State.startClears_kept (s : State) (d : Nat) (cs : List ClearX) (task : ClearTask) {q : List Instr} (hk : Kept q s) :
    Kept q (State.startClears s d cs task) := by
  unfold State.startClears
  repeat' (with_reducible first
    | assumption | (intro _) | (apply noteHolders_kept) | (apply State.modDie_kept) | (apply Kept.ite) | split
    | (refine Kept.of_fst (by assumption) ?_) | (refine Kept.of_snd (by assumption) ?_) | (dsimp only) | (apply Kept.update))

theorem State.scrubScratch_kept (s : State) (d : Nat) (struck : List Upset) {q : List Instr} (hk : Kept q s) : Kept q
    (State.scrubScratch s d struck) := by
  unfold State.scrubScratch
  repeat' (with_reducible first
    | assumption | (intro _) | (apply State.modDie_kept) | (apply State.meetUpsets_kept) | (apply Kept.ite) | split
    | (dsimp only) | (apply Kept.update))

/-! ### Stack -/

theorem State.setPoison_kept (s : State) (secs : List Nat) (on : Bool) {q : List Instr} (hk : Kept q s) : Kept q
    (State.setPoison s secs on) := by
  unfold State.setPoison
  repeat' (with_reducible first
    | assumption | (intro _) | (apply Kept.ite) | split | (dsimp only) | (apply Kept.update))

theorem meetStackUpset_kept (k : Nat) (s : State) (u : Upset) {q : List Instr} (hk : Kept q s) : Kept q (meetStackUpset k s u)
    := by
  unfold meetStackUpset
  repeat' (with_reducible first
    | assumption | (intro _) | (apply State.bump_kept) | (apply State.memEvent_kept) | (apply State.setPoison_kept)
    | (apply State.setReg64_kept) | (apply State.log_kept) | (apply Kept.ite) | split
    | (refine Kept.of_fst (by assumption) ?_) | (refine Kept.of_snd (by assumption) ?_) | (dsimp only) | (apply Kept.update))

theorem State.meetStackUpsets_kept (s : State) (k : Nat) (hit : Nat → Bool) {q : List Instr} (hk : Kept q s) : Kept q
    (State.meetStackUpsets s k hit) := by
  unfold State.meetStackUpsets
  repeat' (with_reducible first
    | assumption | (intro _) | (apply meetStackUpset_kept) | (apply State.modStack_kept) | (apply Kept.ite)
    | (apply Kept.foldl) | (apply Kept.foldl_fst) | split | (dsimp only) | (apply Kept.update))

theorem State.memMark_kept (s : State) (k : Nat) (o : Nat) {q : List Instr} (hk : Kept q s) : Kept q (State.memMark s k o) :=
    by
  unfold State.memMark
  repeat' (with_reducible first
    | assumption | (intro _) | (apply State.modStack_kept) | (apply Kept.ite) | split | (dsimp only) | (apply Kept.update))

theorem State.meetGranule_kept (s : State) (k : Nat) (g : Nat) {q : List Instr} (hk : Kept q s) : Kept q (State.meetGranule s
    k g) := by
  unfold State.meetGranule
  repeat' (with_reducible first
    | assumption | (intro _) | (apply State.meetStackUpsets_kept) | (apply Kept.ite) | split | (dsimp only))

theorem State.copyGranule_kept (s : State) (k : Nat) (g : Nat) (r : Nat) {q : List Instr} (hk : Kept q s) : Kept q
    (State.copyGranule s k g r) := by
  unfold State.copyGranule
  repeat' (with_reducible first
    | assumption | (intro _) | (apply State.meetGranule_kept) | (apply State.setPoison_kept) | (apply Kept.ite) | split
    | (dsimp only) | (apply Kept.update) | (apply writeBytes_wf) | (apply clearBytes_wf) | (apply writePicked_wf)
    | (apply canonMap_mapSet) | (apply canonMap_mapKeep) | (exact canonMap_nil))

theorem State.preserveGranule_kept {s s' : State} {k g : Nat} {q : List Instr} (h : s.preserveGranule k g = some s')
    (hk : Kept q s) : Kept q s' := by
  unfold State.preserveGranule at h
  split at h
  · split at h
    · cases h
    · obtain rfl := Option.some.inj h
      exact State.modStack_kept _ k _ (State.copyGranule_kept _ k g _ hk)
  · obtain rfl := Option.some.inj h
    exact hk

theorem State.cutReadMem_kept (s : State) (k : Nat) (g : Nat) {q : List Instr} (hk : Kept q s) : Kept q (State.cutReadMem s k
    g).1 := by
  unfold State.cutReadMem
  repeat' (with_reducible first
    | assumption | (intro _) | (apply State.meetGranule_kept) | (apply State.modStack_kept) | (apply Kept.ite) | split
    | (refine Kept.of_fst (by assumption) ?_) | (refine Kept.of_snd (by assumption) ?_) | (dsimp only) | (apply Kept.update))

theorem State.cutReadScr_kept (s : State) (d : Nat) (g : Nat) {q : List Instr} (hk : Kept q s) : Kept q (State.cutReadScr s d
    g).1 := by
  unfold State.cutReadScr
  repeat' (with_reducible first
    | assumption | (intro _) | (apply State.touchBytes_kept) | (apply State.modDie_kept) | (apply Kept.ite)
    | (apply Kept.foldl) | (apply Kept.foldl_fst) | split | (refine Kept.of_fst (by assumption) ?_)
    | (refine Kept.of_snd (by assumption) ?_) | (dsimp only) | (apply Kept.update))

theorem State.atomicFlags_kept (s : State) (k : Nat) (f : Flags) {q : List Instr} (hk : Kept q s) : Kept q (State.atomicFlags
    s k f) := by
  unfold State.atomicFlags
  repeat' (with_reducible first
    | assumption | (intro _) | (apply State.setReg_kept) | (apply Kept.ite) | split | (dsimp only))

theorem State.putMem_kept (s : State) (a : Nat) (bytes : List Byte) {q : List Instr} (hk : Kept q s) : Kept q (State.putMem s
    a bytes) := by
  unfold State.putMem
  repeat' (with_reducible first
    | assumption | (intro _) | (apply State.setPoison_kept) | (apply Kept.ite) | split | (dsimp only) | (apply Kept.update)
    | (apply writeBytes_wf) | (apply clearBytes_wf) | (apply writePicked_wf) | (apply canonMap_mapSet)
    | (apply canonMap_mapKeep) | (exact canonMap_nil))

theorem State.memEffect_kept (s : State) (r : Req) {q : List Instr} (hk : Kept q s) : Kept q (State.memEffect s r).1 := by
  unfold State.memEffect
  repeat' (with_reducible first
    | assumption | (intro _) | (apply State.stir_kept) | (apply State.putMem_kept) | (apply State.setPoison_kept)
    | (apply Kept.ite) | split | (refine Kept.of_fst (by assumption) ?_) | (refine Kept.of_snd (by assumption) ?_)
    | (dsimp only) | (apply Kept.update))

theorem State.countAtomic_kept (s : State) (k : Nat) (r : Req) {q : List Instr} (hk : Kept q s) : Kept q (State.countAtomic s
    k r) := by
  unfold State.countAtomic
  repeat' (with_reducible first
    | assumption | (intro _) | (apply State.bump_kept) | (apply State.drift_kept) | (apply State.modStack_kept)
    | (apply Kept.ite) | split | (refine Kept.of_fst (by assumption) ?_) | (refine Kept.of_snd (by assumption) ?_)
    | (dsimp only) | (apply Kept.update))

theorem State.countStore_kept (s : State) (k : Nat) (r : Req) (waiting : List Req) {q : List Instr} (hk : Kept q s) : Kept q
    (State.countStore s k r waiting) := by
  unfold State.countStore
  repeat' (with_reducible first
    | assumption | (intro _) | (apply State.bump_kept) | (apply State.drift_kept) | (apply Kept.ite) | split | (dsimp only))

theorem State.holdFront_kept (s : State) (k : Nat) (pc : Nat) {q : List Instr} (hk : Kept q s) : Kept q (State.holdFront s k
    pc) := by
  unfold State.holdFront
  repeat' (with_reducible first
    | assumption | (intro _) | (apply State.modStack_kept) | (apply State.memEvent_kept) | (apply Kept.ite) | split
    | (dsimp only) | (apply Kept.update))

theorem State.freeFront_kept (s : State) (k : Nat) (pc : Nat) {q : List Instr} (hk : Kept q s) : Kept q (State.freeFront s k
    pc) := by
  unfold State.freeFront
  repeat' (with_reducible first
    | assumption | (intro _) | (apply State.modStack_kept) | (apply Kept.ite) | split | (dsimp only) | (apply Kept.update))

theorem State.stackApply_kept (s : State) (k : Nat) (r : Req) (waiting : List Req) {q : List Instr} (hk : Kept q s) : Kept q
    (State.stackApply s k r waiting).1 := by
  unfold State.stackApply
  repeat' (with_reducible first
    | assumption | (intro _) | (apply State.logRefused_kept) | (apply State.meetStackUpsets_kept)
    | (apply State.holdFront_kept) | (apply State.freeFront_kept) | (apply State.countStore_kept)
    | (apply State.countAtomic_kept) | (apply State.memMark_kept) | (apply State.memEffect_kept)
    | (apply State.atomicFlags_kept) | (apply Kept.ite) | split | (refine Kept.of_fst (by assumption) ?_)
    | (refine Kept.of_snd (by assumption) ?_) | (refine State.preserveGranule_kept (by assumption) ?_) | (dsimp only)
    | (apply Kept.update))

theorem State.countFarAtomic_kept (s : State) (r : Req) {q : List Instr} (hk : Kept q s) : Kept q (State.countFarAtomic s r)
    := by
  unfold State.countFarAtomic
  repeat' (with_reducible first
    | assumption | (intro _) | (apply State.drift_kept) | (apply Kept.ite) | split | (refine Kept.of_fst (by assumption) ?_)
    | (refine Kept.of_snd (by assumption) ?_) | (dsimp only) | (apply Kept.update))

theorem State.farApply_kept (s : State) (dev : Nat) (r : Req) (waiting : List Req) {q : List Instr} (hk : Kept q s) : Kept q
    (State.farApply s dev r waiting).1 := by
  unfold State.farApply
  repeat' (with_reducible first
    | assumption | (intro _) | (apply State.logRefused_kept) | (apply State.drift_kept) | (apply State.countFarAtomic_kept)
    | (apply State.memEffect_kept) | (apply Kept.ite) | split | (dsimp only))

theorem State.imageBusy_kept (s : State) (d : Nat) (source : Nat) {q : List Instr} (hk : Kept q s) : Kept q (State.imageBusy s
    d source) := by
  unfold State.imageBusy
  repeat' (with_reducible first
    | assumption | (intro _) | (apply State.log_kept) | (apply Kept.ite) | split | (dsimp only))

theorem State.closeMem_kept (s : State) (k : Nat) (bedrock : Bool) {q : List Instr} (hk : Kept q s) : Kept q (State.closeMem s
    k bedrock).1 := by
  unfold State.closeMem
  repeat' (with_reducible first
    | assumption | (intro _) | (apply State.memEvent_kept) | (apply State.imageBusy_kept) | (apply State.modStack_kept)
    | (apply Kept.ite) | split | (dsimp only) | (apply Kept.update))

theorem State.closeScr_kept (s : State) (d : Nat) (bedrock : Bool) {q : List Instr} (hk : Kept q s) : Kept q (State.closeScr s
    d bedrock).1 := by
  unfold State.closeScr
  repeat' (with_reducible first
    | assumption | (intro _) | (apply State.strEvent_kept) | (apply State.imageBusy_kept) | (apply State.modDie_kept)
    | (apply Kept.ite) | split | (dsimp only) | (apply Kept.update))

theorem State.closeImages_kept (s : State) (d : Nat) {q : List Instr} (hk : Kept q s) : Kept q (State.closeImages s d) := by
  unfold State.closeImages
  repeat' (with_reducible first
    | assumption | (intro _) | (apply State.closeMem_kept) | (apply State.closeScr_kept) | (apply State.setReg64_kept)
    | (apply State.setFld_kept) | (apply State.strEvent_kept) | (apply Kept.ite) | split | (dsimp only))

theorem State.abandonImages_kept (s : State) (d : Nat) {q : List Instr} (hk : Kept q s) : Kept q (State.abandonImages s d) :=
    by
  unfold State.abandonImages
  repeat' (with_reducible first
    | assumption | (intro _) | (apply State.modStack_kept) | (apply State.modDie_kept) | (apply State.strEvent_kept)
    | (apply Kept.ite) | split | (dsimp only) | (apply Kept.update))

/-! ### Access -/

theorem State.unmapped_kept (s : State) (r : Req) {q : List Instr} (hk : Kept q s) : Kept q (State.unmapped s r).1 := by
  unfold State.unmapped
  repeat' (with_reducible first
    | assumption | (intro _) | (apply State.logRefused_kept) | (apply Kept.ite) | split | (dsimp only))

theorem State.atHome_kept (s : State) (r : Req) (waiting : List Req) {q : List Instr} (hk : Kept q s) : Kept q (State.atHome s
    r waiting).1 := by
  unfold State.atHome
  repeat' (with_reducible first
    | assumption | (intro _) | (apply State.stackApply_kept) | (apply State.windowAccess_kept) | (apply State.unmapped_kept)
    | (apply State.farApply_kept) | (apply Kept.ite) | split | (refine Kept.of_fst (by assumption) ?_)
    | (refine Kept.of_snd (by assumption) ?_) | (dsimp only) | (apply Kept.update))

theorem State.enqueueStack_kept (s : State) (k : Nat) (r : Req) {q : List Instr} (hk : Kept q s) : Kept q (State.enqueueStack
    s k r) := by
  unfold State.enqueueStack
  repeat' (with_reducible first
    | assumption | (intro _) | (apply State.modStack_kept) | (apply Kept.ite) | split | (dsimp only) | (apply Kept.update))

theorem State.enqueueFar_kept (s : State) (i : Nat) (r : Req) {q : List Instr} (hk : Kept q s) : Kept q (State.enqueueFar s i
    r) := by
  unfold State.enqueueFar
  repeat' (with_reducible first
    | assumption | (intro _) | (apply Kept.ite) | split | (dsimp only) | (apply Kept.update))

theorem State.drainStack_kept (k pc : Nat) (r : Req) {q0 : List Instr} :
    ∀ (n : Nat) (s : State), Kept q0 s → Kept q0 (State.drainStack k pc r n s)
  | 0, _, h => h
  | n + 1, s, h => by
    unfold State.drainStack
    repeat' (with_reducible first
      | assumption | (apply State.drainStack_kept) | (apply Kept.ite) | (apply State.modStack_kept) | (apply State.stackApply_kept)
      | split | (refine Kept.of_fst (by assumption) ?_) | (dsimp only) | (apply Kept.update) | (exact id))

theorem State.drainFar_kept (dev : Nat) (r : Req) {q0 : List Instr} :
    ∀ (n : Nat) (s : State), Kept q0 s → Kept q0 (State.drainFar dev r n s)
  | 0, _, h => h
  | n + 1, s, h => by
    unfold State.drainFar
    repeat' (with_reducible first
      | assumption | (apply State.drainFar_kept) | (apply Kept.ite) | (apply State.farApply_kept)
      | split | (refine Kept.of_fst (by assumption) ?_) | (dsimp only) | (apply Kept.update) | (exact id))

theorem State.drainHome_kept (s : State) (r : Req) {q : List Instr} (hk : Kept q s) : Kept q (State.drainHome s r) := by
  unfold State.drainHome
  repeat' (with_reducible first
    | assumption | (intro _) | (apply State.drainStack_kept) | (apply State.drainFar_kept) | (apply Kept.ite) | split
    | (refine Kept.of_fst (by assumption) ?_) | (refine Kept.of_snd (by assumption) ?_) | (dsimp only) | (apply Kept.update))

theorem State.directPiece_kept (s : State) (p : Req) {q : List Instr} (hk : Kept q s) : Kept q (State.directPiece s p).1 := by
  unfold State.directPiece
  repeat' (with_reducible first
    | assumption | (intro _) | (apply State.unmapped_kept) | (apply State.drainHome_kept) | (apply State.enqueueStack_kept)
    | (apply State.stackApply_kept) | (apply State.atHome_kept) | (apply Kept.ite) | split
    | (refine Kept.of_fst (by assumption) ?_) | (refine Kept.of_snd (by assumption) ?_) | (dsimp only) | (apply Kept.update))

theorem State.direct_kept (s : State) (r : Req) {q : List Instr} (hk : Kept q s) : Kept q (State.direct s r).1 := by
  unfold State.direct
  repeat' (with_reducible first
    | assumption | (intro _) | (apply State.directPiece_kept) | (apply Kept.ite) | (apply Kept.foldl) | (apply Kept.foldl_fst)
    | split | (dsimp only))

theorem State.number_kept (s : State) (r : Req) {q : List Instr} (hk : Kept q s) : Kept q (State.number s r).1 := by
  unfold State.number
  repeat' (with_reducible first
    | assumption | (intro _) | (apply Kept.ite) | split | (dsimp only) | (apply Kept.update))

theorem State.enqueueFabric_kept (s : State) (r : Req) {q : List Instr} (hk : Kept q s) : Kept q (State.enqueueFabric s r) :=
    by
  unfold State.enqueueFabric
  repeat' (with_reducible first
    | assumption | (intro _) | (apply Kept.ite) | split | (dsimp only) | (apply Kept.update))

theorem State.submit_kept (s : State) (r : Req) {q : List Instr} (hk : Kept q s) : Kept q (State.submit s r).1 := by
  unfold State.submit
  repeat' (with_reducible first
    | assumption | (intro _) | (apply State.unmapped_kept) | (apply State.bump_kept) | (apply State.enqueueStack_kept)
    | (apply State.enqueueFar_kept) | (apply State.enqueueFabric_kept) | (apply State.atHome_kept) | (apply Kept.ite) | split
    | (refine Kept.of_fst (by assumption) ?_) | (refine Kept.of_snd (by assumption) ?_) | (dsimp only) | (apply Kept.update))

theorem State.askRemote_kept (s : State) (r : Req) (a : Nat) (n : Nat) {q : List Instr} (hk : Kept q s) : Kept q
    (State.askRemote s r a n) := by
  unfold State.askRemote
  repeat' (with_reducible first
    | assumption | (intro _) | (apply State.number_kept) | (apply State.enqueueFabric_kept) | (apply Kept.ite)
    | (apply Kept.foldl) | (apply Kept.foldl_fst) | split | (dsimp only) | (apply Kept.update))

theorem State.readWith_kept (s : State) (r : Req) (ga : Nat) (n : Nat) {q : List Instr} (hk : Kept q s) : Kept q
    (State.readWith s r ga n).1 := by
  unfold State.readWith
  repeat' (with_reducible first
    | assumption | (intro _) | (apply State.direct_kept) | (apply State.draw_kept) | (apply State.askRemote_kept)
    | (apply Kept.ite) | split | (dsimp only) | (apply Kept.update))

theorem State.readGlobal_kept (s : State) (who : Agent) (job : Nat) (ga : Nat) (n : Nat) {q : List Instr} (hk : Kept q s) :
    Kept q (State.readGlobal s who job ga n).1 := by
  unfold State.readGlobal
  repeat' (with_reducible first
    | assumption | (intro _) | (apply State.readWith_kept) | (apply Kept.ite) | split | (dsimp only))

theorem State.readFor_kept (s : State) (h : CmdHdr) (ga : Nat) (n : Nat) {q : List Instr} (hk : Kept q s) : Kept q
    (State.readFor s h ga n).1 := by
  unfold State.readFor
  repeat' (with_reducible first
    | assumption | (intro _) | (apply State.readWith_kept) | (apply Kept.ite) | split | (dsimp only))

theorem State.writeWith_kept (s : State) (r : Req) (ga : Nat) {q : List Instr} (hk : Kept q s) : Kept q (State.writeWith s r
    ga).1 := by
  unfold State.writeWith
  repeat' (with_reducible first
    | assumption | (intro _) | (apply State.direct_kept) | (apply State.number_kept) | (apply State.enqueueFabric_kept)
    | (apply Kept.ite) | (apply Kept.foldl) | (apply Kept.foldl_fst) | split | (dsimp only) | (apply Kept.update))

theorem State.writeGlobal_kept (s : State) (who : Agent) (job : Nat) (ga : Nat) (data : List Byte) (fill : Bool) {q : List
    Instr} (hk : Kept q s) : Kept q (State.writeGlobal s who job ga data fill).1 := by
  unfold State.writeGlobal
  repeat' (with_reducible first
    | assumption | (intro _) | (apply State.writeWith_kept) | (apply Kept.ite) | split | (dsimp only) | (apply Kept.update))

end Sys2Proof.Machine
end

