-- ==== Sys2Proof/Laws/KeptDie.lean ====
section
/-! SUPPORT. Frame lemmas for the die sequencer, the mailbox, landings, cores, links, tiles and clocks: each function keeps the queue of waiting commands and the canonical form of memory,
registers and tags (`Kept`). -/

namespace Sys2Proof.Machine

/-! ### Descriptor -/

theorem State.writeTnmSlot_kept (s : State) (d : Nat) (sl : Nat) (v : Word) {q : List Instr} (hk : Kept q s) : Kept q
    (State.writeTnmSlot s d sl v) := by
  unfold State.writeTnmSlot
  repeat' (with_reducible first
    | assumption | (intro _) | (apply State.dieBusy_kept) | (apply State.log_kept) | (apply State.setReg_kept)
    | (apply Kept.ite) | split | (dsimp only))

/-! ### Mailbox -/

theorem State.takeSeq_kept (s : State) (dst : Nat) {q : List Instr} (hk : Kept q s) : Kept q (State.takeSeq s dst).2 := by
  unfold State.takeSeq
  repeat' (with_reducible first
    | assumption | (intro _) | (apply Kept.ite) | split | (dsimp only) | (apply Kept.update))

theorem State.inject_kept (s : State) (p : Packet) {q : List Instr} (hk : Kept q s) : Kept q (State.inject s p) := by
  unfold State.inject
  repeat' (with_reducible first
    | assumption | (intro _) | (apply Kept.ite) | split | (dsimp only) | (apply Kept.update))

theorem State.sendMgmt_kept (s : State) (kind : Nat) (dst : Nat) (job : Word) (space : Nat) (addr : Nat) (word7 : Word) (body
    : List Byte) {q : List Instr} (hk : Kept q s) : Kept q (State.sendMgmt s kind dst job space addr word7 body) := by
  unfold State.sendMgmt
  repeat' (with_reducible first
    | assumption | (intro _) | (apply State.takeSeq_kept) | (apply State.inject_kept) | (apply Kept.ite) | split
    | (refine Kept.of_fst (by assumption) ?_) | (refine Kept.of_snd (by assumption) ?_) | (dsimp only) | (apply Kept.update))

theorem State.pushReply_kept (s : State) (n : Nat) (ws : List Word64) (seq : Word) (final : Bool) {q : List Instr} (hk : Kept
    q s) : Kept q (State.pushReply s n ws seq final) := by
  unfold State.pushReply
  repeat' (with_reducible first
    | assumption | (intro _) | (apply State.modChan_kept) | (apply State.ring_kept) | (apply Kept.ite) | split | (dsimp only)
    | (apply Kept.update))

theorem spillTo_kept (addr : Nat) (w : State × Reply) {q : List Instr} (hk : Kept q w.1) : Kept q (spillTo addr w).1 := hk

theorem State.spill_kept (s : State) (n : Nat) (ps : List Word64) {q : List Instr} (hk : Kept q s) :
    Kept q (State.spill s n ps).1 := by
  have hw := State.writeGlobal_kept s .pkc 0 (s.reg64 (chB n + CH_SPILL_LO.off)) (word64Bytes ps) false hk
  unfold State.spill
  generalize s.spills n ps = b
  cases b
  · exact hk
  · exact spillTo_kept _ _ hw

theorem State.reply_kept (s : State) (h : CmdHdr) (opcode : Nat) (status : Nat) (ps : List Word64) (completion : Nat) (interim
    : Bool) {q : List Instr} (hk : Kept q s) : Kept q (State.reply s h opcode status ps completion interim) := by
  unfold State.reply
  repeat' (with_reducible first
    | assumption | (intro _) | (apply State.spill_kept) | (apply State.pushReply_kept) | (apply Kept.ite) | split
    | (refine Kept.of_fst (by assumption) ?_) | (refine Kept.of_snd (by assumption) ?_) | (dsimp only) | (apply Kept.update))

theorem State.openCmd_kept (s : State) (r : FwdX) {q : List Instr} (hk : Kept q s) : Kept q (State.openCmd s r) := by
  unfold State.openCmd
  repeat' (with_reducible first
    | assumption | (intro _) | (apply Kept.ite) | split | (dsimp only) | (apply Kept.update))

theorem State.closeCmd_kept (s : State) (h : CmdHdr) (opcode : Nat) {q : List Instr} (hk : Kept q s) : Kept q (State.closeCmd
    s h opcode) := by
  unfold State.closeCmd
  repeat' (with_reducible first
    | assumption | (intro _) | (apply Kept.ite) | split | (dsimp only) | (apply Kept.update))

theorem State.setCmd_kept (s : State) (h : CmdHdr) (opcode : Nat) (f : FwdX → FwdX) {q : List Instr} (hk : Kept q s) : Kept q
    (State.setCmd s h opcode f) := by
  unfold State.setCmd
  repeat' (with_reducible first
    | assumption | (intro _) | (apply Kept.ite) | split | (dsimp only) | (apply Kept.update))

theorem State.finishTop_kept (s : State) (h : CmdHdr) (opcode : Nat) (st : Nat) (ps : List Word64) (completion : Nat) {q :
    List Instr} (hk : Kept q s) : Kept q (State.finishTop s h opcode st ps completion) := by
  unfold State.finishTop
  repeat' (with_reducible first
    | assumption | (intro _) | (apply State.reply_kept) | (apply State.closeCmd_kept) | (apply Kept.ite) | split
    | (refine Kept.of_fst (by assumption) ?_) | (refine Kept.of_snd (by assumption) ?_) | (dsimp only) | (apply Kept.update))

theorem State.memberDone_kept (s : State) (chan : Nat) (seq : Word) (opcode : Nat) (unit : Nat) (st : Nat) (ps : List Word64)
    (completion : Nat) {q : List Instr} (hk : Kept q s) : Kept q (State.memberDone s chan seq opcode unit st ps completion) := by
  unfold State.memberDone
  repeat' (with_reducible first
    | assumption | (intro _) | (apply State.finishTop_kept) | (apply State.setCmd_kept) | (apply Kept.ite) | split
    | (refine Kept.of_fst (by assumption) ?_) | (refine Kept.of_snd (by assumption) ?_) | (dsimp only) | (apply Kept.update))

theorem State.finishAt_kept (s : State) (h : CmdHdr) (opcode : Nat) (st : Nat) (ps : List Word64) (comp : Nat) {q : List
    Instr} (hk : Kept q s) : Kept q (State.finishAt s h opcode st ps comp) := by
  unfold State.finishAt
  repeat' (with_reducible first
    | assumption | (intro _) | (apply State.closeCmd_kept) | (apply State.memberDone_kept) | (apply State.sendMgmt_kept)
    | (apply State.finishTop_kept) | (apply Kept.ite) | split | (refine Kept.of_fst (by assumption) ?_)
    | (refine Kept.of_snd (by assumption) ?_) | (dsimp only) | (apply Kept.update))

theorem State.finish_kept (s : State) (h : CmdHdr) (opcode : Nat) (st : Nat) (ps : List Word64) {q : List Instr} (hk : Kept q
    s) : Kept q (State.finish s h opcode st ps) := by
  unfold State.finish
  repeat' (with_reducible first
    | assumption | (intro _) | (apply State.finishAt_kept) | (apply Kept.ite) | split | (dsimp only))

theorem State.partDone_kept (s : State) (h : CmdHdr) (opcode : Nat) (part : Nat) (st : Nat) (ps : List Word64) {q : List
    Instr} (hk : Kept q s) : Kept q (State.partDone s h opcode part st ps) := by
  unfold State.partDone
  repeat' (with_reducible first
    | assumption | (intro _) | (apply State.setCmd_kept) | (apply State.finish_kept) | (apply Kept.ite) | split
    | (refine Kept.of_fst (by assumption) ?_) | (refine Kept.of_snd (by assumption) ?_) | (dsimp only) | (apply Kept.update))

theorem State.closeSession_kept (s : State) (n : Nat) {q : List Instr} (hk : Kept q s) : Kept q (State.closeSession s n) := by
  unfold State.closeSession
  repeat' (with_reducible first
    | assumption | (intro _) | (apply State.modChan_kept) | (apply State.ring_kept) | (apply State.log_kept)
    | (apply Kept.ite) | split | (refine Kept.of_fst (by assumption) ?_) | (refine Kept.of_snd (by assumption) ?_)
    | (dsimp only) | (apply Kept.update))

theorem State.touchSession_kept (s : State) (n : Nat) {q : List Instr} (hk : Kept q s) : Kept q (State.touchSession s n) := by
  unfold State.touchSession
  repeat' (with_reducible first
    | assumption | (intro _) | (apply State.modChan_kept) | (apply Kept.ite) | split | (refine Kept.of_fst (by assumption) ?_)
    | (refine Kept.of_snd (by assumption) ?_) | (dsimp only) | (apply Kept.update))

theorem State.flushChannel_kept (s : State) (n : Nat) {q : List Instr} (hk : Kept q s) : Kept q (State.flushChannel s n) := by
  unfold State.flushChannel
  repeat' (with_reducible first
    | assumption | (intro _) | (apply State.modChan_kept) | (apply State.closeSession_kept) | (apply Kept.ite) | split
    | (dsimp only) | (apply Kept.update))

theorem State.chanDenied_kept (s : State) (who : Agent) (n : Nat) {q : List Instr} (hk : Kept q s) : Kept q (State.chanDenied
    s who n) := by
  unfold State.chanDenied
  repeat' (with_reducible first
    | assumption | (intro _) | (apply State.logRefused_kept) | (apply Kept.ite) | split | (dsimp only))

theorem State.setChanging_kept (s : State) (f : FMap (Nat × Option CmdHdr) → FMap (Nat × Option CmdHdr)) {q : List Instr} (hk
    : Kept q s) : Kept q (State.setChanging s f) := by
  unfold State.setChanging
  repeat' (with_reducible first
    | assumption | (intro _) | (apply Kept.ite) | split | (dsimp only) | (apply Kept.update))

theorem State.beginChange_kept (s : State) (n : Nat) (st : Nat) (cmd : Option CmdHdr) {q : List Instr} (hk : Kept q s) : Kept
    q (State.beginChange s n st cmd) := by
  unfold State.beginChange
  repeat' (with_reducible first
    | assumption | (intro _) | (apply State.setFld_kept) | (apply State.setChanging_kept) | (apply Kept.ite) | split
    | (dsimp only))

theorem State.pwrInfo_kept (s : State) (n : Nat) (st : Nat) {q : List Instr} (hk : Kept q s) : Kept q (State.pwrInfo s n st)
    := by
  unfold State.pwrInfo
  repeat' (with_reducible first
    | assumption | (intro _) | (apply State.log_kept) | (apply Kept.ite) | split | (dsimp only))

theorem State.wakeDomain_kept (s : State) (n : Nat) {q : List Instr} (hk : Kept q s) : Kept q (State.wakeDomain s n) := by
  unfold State.wakeDomain
  repeat' (with_reducible first
    | assumption | (intro _) | (apply State.setChanging_kept) | (apply State.beginChange_kept) | (apply Kept.ite) | split
    | (refine Kept.of_fst (by assumption) ?_) | (refine Kept.of_snd (by assumption) ?_) | (dsimp only) | (apply Kept.update))

theorem State.noteWake_kept (s : State) (host : Bool) (groups : Nat) {q : List Instr} (hk : Kept q s) : Kept q (State.noteWake
    s host groups) := by
  unfold State.noteWake
  repeat' (with_reducible first
    | assumption | (intro _) | (apply State.setFld_kept) | (apply State.pwrEvent_kept) | (apply State.pwrInfo_kept)
    | (apply Kept.ite) | split | (dsimp only))

theorem State.wakeHost_kept (s : State) {q : List Instr} (hk : Kept q s) : Kept q (State.wakeHost s) := by
  unfold State.wakeHost
  repeat' (with_reducible first
    | assumption | (intro _) | (apply State.wakeDomain_kept) | (apply State.noteWake_kept) | (apply Kept.ite) | split
    | (dsimp only))

theorem State.holdHost_kept (s : State) (who : Agent) (off : Nat) (read : Bool) (wide : Bool) (v : Word64) {q : List Instr}
    (hk : Kept q s) : Kept q (State.holdHost s who off read wide v) := by
  unfold State.holdHost
  repeat' (with_reducible first
    | assumption | (intro _) | (apply State.wakeHost_kept) | (apply Kept.ite) | split
    | (refine Kept.of_fst (by assumption) ?_) | (refine Kept.of_snd (by assumption) ?_) | (dsimp only) | (apply Kept.update))

theorem State.overflow_kept (s : State) (n : Nat) {q : List Instr} (hk : Kept q s) : Kept q (State.overflow s n) := by
  unfold State.overflow
  repeat' (with_reducible first
    | assumption | (intro _) | (apply State.ring_kept) | (apply State.modChan_kept) | (apply Kept.ite) | split | (dsimp only)
    | (apply Kept.update))

theorem State.pushWord_kept (s : State) (who : Agent) (n : Nat) (w : Word64) {q : List Instr} (hk : Kept q s) : Kept q
    (State.pushWord s who n w) := by
  unfold State.pushWord
  repeat' (with_reducible first
    | assumption | (intro _) | (apply State.touchSession_kept) | (apply State.overflow_kept) | (apply State.modChan_kept)
    | (apply Kept.ite) | split | (dsimp only) | (apply Kept.update))

theorem State.resync_kept (s : State) (n : Nat) {q : List Instr} (hk : Kept q s) : Kept q (State.resync s n) := by
  unfold State.resync
  repeat' (with_reducible first
    | assumption | (intro _) | (apply State.modChan_kept) | (apply State.ring_kept) | (apply Kept.ite) | split | (dsimp only)
    | (apply Kept.update))

theorem State.asSender_kept (s : State) (who : Agent) (n : Nat) (off : Nat) (wide : Bool) (v : Word64) (f : State → State) {q
    : List Instr} (hf : ∀ a0, Kept q a0 → Kept q (f a0)) (hk : Kept q s) : Kept q (State.asSender s who n off wide v f) := by
  unfold State.asSender
  repeat' (with_reducible first
    | assumption | (intro _) | (apply State.chanDenied_kept) | (apply State.holdHost_kept) | (apply hf) | (apply Kept.ite)
    | split | (dsimp only))

theorem State.receivePacket_kept (s : State) (n : Nat) {q : List Instr} (hk : Kept q s) : Kept q (State.receivePacket s n) :=
    by
  unfold State.receivePacket
  repeat' (with_reducible first
    | assumption | (intro _) | (apply State.modChan_kept) | (apply State.ring_kept) | (apply Kept.ite) | split
    | (refine Kept.of_fst (by assumption) ?_) | (refine Kept.of_snd (by assumption) ?_) | (dsimp only) | (apply Kept.update))

theorem State.acknowledge_kept (s : State) (n : Nat) {q : List Instr} (hk : Kept q s) : Kept q (State.acknowledge s n) := by
  unfold State.acknowledge
  repeat' (with_reducible first
    | assumption | (intro _) | (apply State.modChan_kept) | (apply State.setReg_kept) | (apply State.bump_kept)
    | (apply State.ring_kept) | (apply State.reply_kept) | (apply Kept.ite) | split | (refine Kept.of_fst (by assumption) ?_)
    | (refine Kept.of_snd (by assumption) ?_) | (dsimp only) | (apply Kept.update))

theorem State.readReply_kept (s : State) (n : Nat) {q : List Instr} (hk : Kept q s) : Kept q (State.readReply s n).1 := by
  unfold State.readReply
  repeat' (with_reducible first
    | assumption | (intro _) | (apply State.modChan_kept) | (apply State.touchSession_kept) | (apply State.ring_kept)
    | (apply Kept.ite) | split | (refine Kept.of_fst (by assumption) ?_) | (refine Kept.of_snd (by assumption) ?_)
    | (dsimp only) | (apply Kept.update))

/-! ### Die -/

theorem State.chooseTask_kept (s : State) (d : Nat) {q : List Instr} (hk : Kept q s) : Kept q (State.chooseTask s d).1 := by
  unfold State.chooseTask
  repeat' (with_reducible first
    | assumption | (intro _) | (apply State.dieBusy_kept) | (apply Kept.ite) | (apply Kept.foldl) | (apply Kept.foldl_fst)
    | split | (refine Kept.of_fst (by assumption) ?_) | (refine Kept.of_snd (by assumption) ?_) | (dsimp only)
    | (apply Kept.update))

theorem State.applyLayout_kept (s : State) (d : Nat) (x : SlotX) {q : List Instr} (hk : Kept q s) : Kept q (State.applyLayout
    s d x) := by
  unfold State.applyLayout
  repeat' (with_reducible first
    | assumption | (intro _) | (apply State.setTag_kept) | (apply Kept.ite) | (apply Kept.foldl) | (apply Kept.foldl_fst)
    | split | (dsimp only))

theorem State.loadTiles_kept (s : State) (d : Nat) (x : SlotX) (wipe : Bool) {q : List Instr} (hk : Kept q s) : Kept q
    (State.loadTiles s d x wipe) := by
  unfold State.loadTiles
  repeat' (with_reducible first
    | assumption | (intro _) | (apply State.mapTiles_kept) | (apply State.modTile_kept) | (apply Kept.ite)
    | (apply Kept.foldl) | (apply Kept.foldl_fst) | split | (dsimp only) | (apply Kept.update))

theorem State.enterSlot_kept (s : State) (d : Nat) (n : Nat) (sl : Nat) (wipe : Bool) {q : List Instr} (hk : Kept q s) : Kept
    q (State.enterSlot s d n sl wipe) := by
  unfold State.enterSlot
  repeat' (with_reducible first
    | assumption | (intro _) | (apply State.setSlotState_kept) | (apply State.setFld_kept) | (apply State.closeSession_kept)
    | (apply State.modChan_kept) | (apply State.loadTiles_kept) | (apply State.applyLayout_kept) | (apply Kept.ite) | split
    | (dsimp only) | (apply Kept.update))

theorem State.loadRegion_kept (s : State) (d : Nat) (n : Nat) {q : List Instr} (hk : Kept q s) : Kept q (State.loadRegion s d
    n) := by
  unfold State.loadRegion
  repeat' (with_reducible first
    | assumption | (intro _) | (apply State.modDie_kept) | (apply Kept.ite) | split | (dsimp only) | (apply Kept.update))

theorem State.resetOvf_kept (s : State) (d : Nat) {q : List Instr} (hk : Kept q s) : Kept q (State.resetOvf s d) := by
  unfold State.resetOvf
  repeat' (with_reducible first
    | assumption | (intro _) | (apply State.setFld_kept) | (apply State.modDie_kept) | (apply Kept.ite) | split | (dsimp only)
    | (apply Kept.update))

theorem State.beginRun_kept (s : State) (d : Nat) (wait : Nat) {q : List Instr} (hk : Kept q s) : Kept q (State.beginRun s d
    wait) := by
  unfold State.beginRun
  repeat' (with_reducible first
    | assumption | (intro _) | (apply State.mapTiles_kept) | (apply State.setReg64_kept) | (apply State.setFld_kept)
    | (apply State.resetOvf_kept) | (apply State.modDie_kept) | (apply State.setDieState_kept) | (apply Kept.ite) | split
    | (dsimp only) | (apply Kept.update))

theorem State.firstStep_kept (s : State) (d : Nat) (anchor : Nat) {q : List Instr} (hk : Kept q s) : Kept q (State.firstStep s
    d anchor) := by
  unfold State.firstStep
  repeat' (with_reducible first
    | assumption | (intro _) | (apply State.setReg64_kept) | (apply State.modDie_kept) | (apply State.beginRun_kept)
    | (apply Kept.ite) | split | (dsimp only) | (apply Kept.update))

theorem State.armedPast_kept (s : State) (d : Nat) (start : Nat) {q : List Instr} (hk : Kept q s) : Kept q (State.armedPast s
    d start) := by
  unfold State.armedPast
  repeat' (with_reducible first
    | assumption | (intro _) | (apply State.start_kept) | (apply State.logLate_kept) | (apply State.drift_kept)
    | (apply State.dsqEvent_kept) | (apply State.firstStep_kept) | (apply Kept.ite) | split | (dsimp only))

theorem State.armDie_kept (s : State) (d : Nat) {q : List Instr} (hk : Kept q s) : Kept q (State.armDie s d) := by
  unfold State.armDie
  repeat' (with_reducible first
    | assumption | (intro _) | (apply State.start_kept) | (apply State.dieBusy_kept) | (apply State.loadRegion_kept)
    | (apply State.mapTiles_kept) | (apply State.enterSlot_kept) | (apply State.setFld_kept) | (apply State.modDie_kept)
    | (apply State.setDieState_kept) | (apply State.armedPast_kept) | (apply Kept.ite) | split
    | (refine Kept.of_fst (by assumption) ?_) | (refine Kept.of_snd (by assumption) ?_) | (dsimp only) | (apply Kept.update))

theorem State.startDie_kept (s : State) (d : Nat) {q : List Instr} (hk : Kept q s) : Kept q (State.startDie s d) := by
  unfold State.startDie
  repeat' (with_reducible first
    | assumption | (intro _) | (apply State.start_kept) | (apply State.firstStep_kept) | (apply Kept.ite) | split
    | (dsimp only))

theorem State.stepTo_kept (s : State) (d : Nat) (c : Nat) {q : List Instr} (hk : Kept q s) : Kept q (State.stepTo s d c) := by
  unfold State.stepTo
  repeat' (with_reducible first
    | assumption | (intro _) | (apply State.setReg64_kept) | (apply Kept.ite) | split | (dsimp only))

theorem State.logRefired_kept (s : State) (d : Nat) (fromS : Nat) (toS : Nat) (exhausted : Bool) {q : List Instr} (hk : Kept q
    s) : Kept q (State.logRefired s d fromS toS exhausted) := by
  unfold State.logRefired
  repeat' (with_reducible first
    | assumption | (intro _) | (apply State.log_kept) | (apply Kept.ite) | split | (dsimp only))

theorem State.closeAt_kept (s : State) (d : Nat) (root : Nat) (cgrain : Nat) (known : Nat) {q : List Instr} (hk : Kept q s) :
    Kept q (State.closeAt s d root cgrain known) := by
  unfold State.closeAt
  repeat' (with_reducible first
    | assumption | (intro _) | (apply State.modDie_kept) | (apply Kept.ite) | split | (dsimp only) | (apply Kept.update))

theorem State.voteDone_kept (s : State) (d : Nat) (status : Nat) (ovf : Bool) (unable : Bool) (root : Nat) (cgrain : Nat)
    (known : Nat) {q : List Instr} (hk : Kept q s) : Kept q (State.voteDone s d status ovf unable root cgrain known) := by
  unfold State.voteDone
  repeat' (with_reducible first
    | assumption | (intro _) | (apply State.setFld_kept) | (apply State.tnmEvent_kept) | (apply State.log_kept)
    | (apply State.abortDie_kept) | (apply State.closeAt_kept) | (apply State.modDie_kept) | (apply State.logRefired_kept)
    | (apply Kept.ite) | split | (dsimp only) | (apply Kept.update))

theorem State.endDie_kept (s : State) (d : Nat) {q : List Instr} (hk : Kept q s) : Kept q (State.endDie s d) := by
  unfold State.endDie
  repeat' (with_reducible first
    | assumption | (intro _) | (apply State.stepTo_kept) | (apply State.setDieState_kept) | (apply State.dsqEvent_kept)
    | (apply State.modDie_kept) | (apply State.setFld_kept) | (apply State.voteDone_kept) | (apply Kept.ite) | split
    | (dsimp only) | (apply Kept.update))

theorem State.noteLateCut_kept (s : State) (d : Nat) {q : List Instr} (hk : Kept q s) : Kept q (State.noteLateCut s d) := by
  unfold State.noteLateCut
  repeat' (with_reducible first
    | assumption | (intro _) | (apply State.logLate_kept) | (apply State.drift_kept) | (apply State.dsqEvent_kept)
    | (apply Kept.ite) | split | (dsimp only))

theorem State.replan_kept (s : State) (d : Nat) (fresh : Bool) {q : List Instr} (hk : Kept q s) : Kept q (State.replan s d
    fresh) := by
  unfold State.replan
  repeat' (with_reducible first
    | assumption | (intro _) | (apply State.setReg64_kept) | (apply State.modDie_kept) | (apply Kept.ite) | split
    | (dsimp only) | (apply Kept.update))

theorem State.cutCommit_kept (s : State) (d : Nat) {q : List Instr} (hk : Kept q s) : Kept q (State.cutCommit s d) := by
  unfold State.cutCommit
  repeat' (with_reducible first
    | assumption | (intro _) | (apply State.noteLateCut_kept) | (apply State.setReg64_kept) | (apply State.setFld_kept)
    | (apply State.commitShadows_kept) | (apply State.replan_kept) | (apply State.modStack_kept) | (apply Kept.ite) | split
    | (dsimp only) | (apply Kept.update))

theorem State.cutMark_kept (s : State) (d : Nat) (str : Bool) {q : List Instr} (hk : Kept q s) : Kept q (State.cutMark s d
    str) := by
  unfold State.cutMark
  repeat' (with_reducible first
    | assumption | (intro _) | (apply State.closeImages_kept) | (apply State.setFld_kept) | (apply State.dsqEvent_kept)
    | (apply State.modDie_kept) | (apply Kept.ite) | split | (dsimp only) | (apply Kept.update))

theorem State.cutNext_kept (d : Nat) (c : State × Option Nat) {q : List Instr} (hk : Kept q c.1) :
    Kept q (State.cutNext d c) := by
  obtain ⟨s, n⟩ := c
  cases n with
  | none => exact State.enterStopped_kept _ _ hk
  | some n =>
    refine Kept.ite ?_ (Kept.ite ?_ ?_)
    · exact State.beginRun_kept _ _ _ (State.modDie_kept _ _ _ (State.enterSlot_kept _ _ _ _ _ (State.loadRegion_kept _ _ _ hk)))
    · exact State.beginRun_kept _ _ _ (State.enterSlot_kept _ _ _ _ _ hk)
    · exact State.beginRun_kept _ _ _ hk

theorem State.cutTask_kept (s : State) (d : Nat) {q : List Instr} (hk : Kept q s) : Kept q (State.cutTask s d) := by
  unfold State.cutTask
  repeat' (with_reducible first
    | assumption | (intro _) | (apply State.enterStopped_kept) | (apply State.cutNext_kept) | (apply State.chooseTask_kept)
    | (apply Kept.ite) | split | (dsimp only))

theorem State.cutFinish_kept (s : State) (d : Nat) (str : Bool) {q : List Instr} (hk : Kept q s) : Kept q (State.cutFinish s d
    str) := by
  unfold State.cutFinish
  repeat' (with_reducible first
    | assumption | (intro _) | (apply State.cutMark_kept) | (apply State.cutTask_kept) | (apply Kept.ite) | split
    | (dsimp only))

theorem State.switchDone_kept (s : State) (d : Nat) {q : List Instr} (hk : Kept q s) : Kept q (State.switchDone s d) := by
  unfold State.switchDone
  repeat' (with_reducible first
    | assumption | (intro _) | (apply State.resetOvf_kept) | (apply State.modDie_kept) | (apply Kept.ite) | split
    | (refine Kept.of_fst (by assumption) ?_) | (refine Kept.of_snd (by assumption) ?_) | (dsimp only) | (apply Kept.update))

theorem State.refireDie_kept (s : State) (d : Nat) {q : List Instr} (hk : Kept q s) : Kept q (State.refireDie s d) := by
  unfold State.refireDie
  repeat' (with_reducible first
    | assumption | (intro _) | (apply State.logRefired_kept) | (apply State.bump_kept) | (apply State.setReg_kept)
    | (apply State.tnmEvent_kept) | (apply State.setFld_kept) | (apply State.modDie_kept) | (apply State.enterSlot_kept)
    | (apply State.beginRun_kept) | (apply Kept.ite) | split | (refine Kept.of_fst (by assumption) ?_)
    | (refine Kept.of_snd (by assumption) ?_) | (dsimp only) | (apply Kept.update))

theorem State.setWaitInfo_kept (s : State) (d : Nat) (ws : List WaitX) {q : List Instr} (hk : Kept q s) : Kept q
    (State.setWaitInfo s d ws) := by
  unfold State.setWaitInfo
  repeat' (with_reducible first
    | assumption | (intro _) | (apply State.setReg_kept) | (apply Kept.ite) | (apply Kept.foldl) | (apply Kept.foldl_fst)
    | split | (refine Kept.of_fst (by assumption) ?_) | (refine Kept.of_snd (by assumption) ?_) | (dsimp only)
    | (apply Kept.update))

theorem State.holdDie_kept (s : State) (d : Nat) (ws : List WaitX) {q : List Instr} (hk : Kept q s) : Kept q (State.holdDie s
    d ws) := by
  unfold State.holdDie
  repeat' (with_reducible first
    | assumption | (intro _) | (apply State.stepTo_kept) | (apply State.modDie_kept) | (apply State.setWaitInfo_kept)
    | (apply State.setDieState_kept) | (apply Kept.ite) | (apply Kept.foldl) | (apply Kept.foldl_fst) | split
    | (refine Kept.of_fst (by assumption) ?_) | (refine Kept.of_snd (by assumption) ?_) | (dsimp only) | (apply Kept.update))

theorem State.releaseHold_kept (s : State) (d : Nat) {q : List Instr} (hk : Kept q s) : Kept q (State.releaseHold s d) := by
  unfold State.releaseHold
  repeat' (with_reducible first
    | assumption | (intro _) | (apply State.touchTag_kept) | (apply State.countHold_kept) | (apply State.setDieState_kept)
    | (apply Kept.ite) | (apply Kept.foldl) | (apply Kept.foldl_fst) | split | (refine Kept.of_fst (by assumption) ?_)
    | (refine Kept.of_snd (by assumption) ?_) | (dsimp only) | (apply Kept.update))

theorem State.holdTimeout_kept (s : State) (d : Nat) {q : List Instr} (hk : Kept q s) : Kept q (State.holdTimeout s d) := by
  unfold State.holdTimeout
  repeat' (with_reducible first
    | assumption | (intro _) | (apply State.dsqEvent_kept) | (apply State.log_kept) | (apply State.abortDie_kept)
    | (apply Kept.ite) | split | (refine Kept.of_fst (by assumption) ?_) | (refine Kept.of_snd (by assumption) ?_)
    | (dsimp only) | (apply Kept.update))

/-! ### Landing -/

theorem State.landSlot_kept (s : State) (d : Nat) (t : Nat) (r : TileReq) (i : Nat) (data : List Byte) (poison : Bool) {q :
    List Instr} (hk : Kept q s) : Kept q (State.landSlot s d t r i data poison) := by
  unfold State.landSlot
  repeat' (with_reducible first
    | assumption | (intro _) | (apply State.scrDrop_kept) | (apply State.scrLand_kept) | (apply Kept.ite) | split
    | (dsimp only))

theorem State.landPoison_kept (s : State) (d : Nat) (t : Nat) (r : TileReq) (i : Nat) (st : Nat) {q : List Instr} (hk : Kept q
    s) : Kept q (State.landPoison s d t r i st) := by
  unfold State.landPoison
  repeat' (with_reducible first
    | assumption | (intro _) | (apply State.log_kept) | (apply State.scrDrop_kept) | (apply State.setTagAt_kept)
    | (apply Kept.ite) | split | (dsimp only))

theorem landPart_kept (d t : Nat) (rep : Reply) (y : State × TileReq) (p : Nat × Nat × Nat) {q : List Instr} (hk : Kept q y.1) :
    Kept q (landPart d t rep y p).1 := by
  unfold landPart
  repeat' (with_reducible first
    | assumption | (intro _) | (apply State.landSlot_kept) | (apply State.landPoison_kept) | (apply Kept.ite) | split
    | (dsimp only))

theorem State.readSource_kept (s : State) (f : SourceFetch) (src : Nat) {q : List Instr} (hk : Kept q s) : Kept q
    (State.readSource s f src).1 := by
  unfold State.readSource
  repeat' (with_reducible first
    | assumption | (intro _) | (apply State.readWith_kept) | (apply Kept.ite) | (apply Kept.foldl) | (apply Kept.foldl_fst)
    | split | (dsimp only) | (apply Kept.update))

theorem State.landTile_kept (s : State) (d t id ofs : Nat) (op : MemOp) (rep : Reply) {q : List Instr} (hk : Kept q s) :
    Kept q (State.landTile s d t id ofs op rep) := by
  unfold State.landTile
  split
  · exact hk
  · extract_lets n s1 r1 y
    have h1 : Kept q s1 := Kept.ite (State.modTile_kept _ _ _ _ hk) hk
    clear_value s1
    have hy : Kept q y.1 := Kept.foldl_fst (fun z p hz => landPart_kept _ _ _ z p hz) (State.modTile_kept _ _ _ _ h1)
    clear_value y
    refine Kept.ite (State.modTile_kept _ _ _ _ hy) (Kept.ite ?_ (State.modTile_kept _ _ _ _ h1))
    exact State.landSlot_kept _ _ _ _ _ _ _ (State.modTile_kept _ _ _ _ h1)

theorem State.landTileSource_kept (s : State) (d : Nat) (t : Nat) (id : Nat) (ofs : Nat) (n : Nat) (rep : Reply) {q : List
    Instr} (hk : Kept q s) : Kept q (State.landTileSource s d t id ofs n rep) := by
  unfold State.landTileSource
  repeat' (with_reducible first
    | assumption | (intro _) | (apply State.modTile_kept) | (apply Kept.ite) | split | (refine Kept.of_fst (by assumption) ?_)
    | (refine Kept.of_snd (by assumption) ?_) | (dsimp only) | (apply Kept.update))

theorem State.tileFenceDone_kept (s : State) (d : Nat) (t : Nat) {q : List Instr} (hk : Kept q s) : Kept q
    (State.tileFenceDone s d t) := by
  unfold State.tileFenceDone
  repeat' (with_reducible first
    | assumption | (intro _) | (apply State.modTile_kept) | (apply State.landSlot_kept) | (apply Kept.ite) | split
    | (refine Kept.of_fst (by assumption) ?_) | (refine Kept.of_snd (by assumption) ?_) | (dsimp only) | (apply Kept.update))

theorem State.setDesc_kept (s : State) (e : Nat) (id : Nat) (f : CopyDesc → CopyDesc) {q : List Instr} (hk : Kept q s) : Kept
    q (State.setDesc s e id f) := by
  unfold State.setDesc
  repeat' (with_reducible first
    | assumption | (intro _) | (apply State.modCopy_kept) | (apply Kept.ite) | split | (dsimp only) | (apply Kept.update))

theorem State.engineRead_kept (s : State) (e : Agent) (sub : Submit) (ga : Nat) (n : Nat) {q : List Instr} (hk : Kept q s) :
    Kept q (State.engineRead s e sub ga n).1 := by
  unfold State.engineRead
  repeat' (with_reducible first
    | assumption | (intro _) | (apply State.readWith_kept) | (apply Kept.ite) | split | (dsimp only))

theorem State.engineWrite_kept (s : State) (e : Agent) (sub : Submit) (ga : Nat) (data : List Byte) {q : List Instr} (hk :
    Kept q s) : Kept q (State.engineWrite s e sub ga data).1 := by
  unfold State.engineWrite
  repeat' (with_reducible first
    | assumption | (intro _) | (apply State.writeWith_kept) | (apply Kept.ite) | split | (dsimp only))

theorem State.writeDenied_kept (s : State) (who : Agent) (source : Nat) (unit : Nat) (off : Nat) {q : List Instr} (hk : Kept q
    s) : Kept q (State.writeDenied s who source unit off) := by
  unfold State.writeDenied
  repeat' (with_reducible first
    | assumption | (intro _) | (apply State.logRefused_kept) | (apply Kept.ite) | split | (dsimp only))

theorem State.landCopy_kept (s : State) (e : Nat) (id : Nat) (op : MemOp) (rep : Reply) {q : List Instr} (hk : Kept q s) :
    Kept q (State.landCopy s e id op rep) := by
  unfold State.landCopy
  repeat' (with_reducible first
    | assumption | (intro _) | (apply State.modCopy_kept) | (apply State.setDesc_kept) | (apply Kept.ite) | split
    | (refine Kept.of_fst (by assumption) ?_) | (refine Kept.of_snd (by assumption) ?_) | (dsimp only) | (apply Kept.update))

theorem State.landCopySource_kept (s : State) (e : Nat) (id : Nat) (ofs : Nat) (n : Nat) (rep : Reply) {q : List Instr} (hk :
    Kept q s) : Kept q (State.landCopySource s e id ofs n rep) := by
  unfold State.landCopySource
  repeat' (with_reducible first
    | assumption | (intro _) | (apply State.modCopy_kept) | (apply State.setDesc_kept) | (apply Kept.ite) | split
    | (refine Kept.of_fst (by assumption) ?_) | (refine Kept.of_snd (by assumption) ?_) | (dsimp only) | (apply Kept.update))

theorem State.landSolver_kept (s : State) (e : Nat) (op : MemOp) (rep : Reply) {q : List Instr} (hk : Kept q s) : Kept q
    (State.landSolver s e op rep) := by
  unfold State.landSolver
  repeat' (with_reducible first
    | assumption | (intro _) | (apply State.modSolver_kept) | (apply Kept.ite) | split | (dsimp only) | (apply Kept.update))

theorem State.ackSources_kept (s : State) (q0 : InReq) {q : List Instr} (hk : Kept q s) : Kept q (State.ackSources s q0) := by
  unfold State.ackSources
  repeat' (with_reducible first
    | assumption | (intro _) | (apply Kept.ite) | (apply Kept.foldl) | (apply Kept.foldl_fst) | split | (dsimp only)
    | (apply Kept.update))

theorem State.inReqDone_kept (s : State) (q0 : InReq) {q : List Instr} (hk : Kept q s) : Kept q (State.inReqDone s q0) := by
  unfold State.inReqDone
  repeat' (with_reducible first
    | assumption | (intro _) | (apply State.inject_kept) | (apply State.ackSources_kept) | (apply Kept.ite) | split
    | (refine Kept.of_fst (by assumption) ?_) | (refine Kept.of_snd (by assumption) ?_) | (dsimp only) | (apply Kept.update))

theorem State.landRemote_kept (s : State) (key : Nat) (ofs : Nat) (rep : Reply) {q : List Instr} (hk : Kept q s) : Kept q
    (State.landRemote s key ofs rep) := by
  unfold State.landRemote
  repeat' (with_reducible first
    | assumption | (intro _) | (apply State.inReqDone_kept) | (apply Kept.ite) | split
    | (refine Kept.of_fst (by assumption) ?_) | (refine Kept.of_snd (by assumption) ?_) | (dsimp only) | (apply Kept.update))

theorem State.hostFault_kept (s : State) (fn : Nat) (err : Nat) (status : Nat) {q : List Instr} (hk : Kept q s) : Kept q
    (State.hostFault s fn err status) := by
  unfold State.hostFault
  repeat' (with_reducible first
    | assumption | (intro _) | (apply State.logRefused_kept) | (apply Kept.ite) | split | (dsimp only) | (apply Kept.update))

theorem State.hostUR_kept (s : State) (fn : Nat) {q : List Instr} (hk : Kept q s) : Kept q (State.hostUR s fn) := by
  unfold State.hostUR
  repeat' (with_reducible first
    | assumption | (intro _) | (apply State.bump_kept) | (apply State.hostFault_kept) | (apply Kept.ite) | split
    | (dsimp only))

theorem State.hostCA_kept (s : State) (fn : Nat) (status : Nat) {q : List Instr} (hk : Kept q s) : Kept q (State.hostCA s fn
    status) := by
  unfold State.hostCA
  repeat' (with_reducible first
    | assumption | (intro _) | (apply State.bump_kept) | (apply State.hostFault_kept) | (apply Kept.ite) | split
    | (dsimp only))

theorem State.hostAnswer_kept (s : State) (fn : Nat) (status : Nat) (poison : Bool) (bytes : List Byte) {q : List Instr} (hk :
    Kept q s) : Kept q (State.hostAnswer s fn status poison bytes) := by
  unfold State.hostAnswer
  repeat' (with_reducible first
    | assumption | (intro _) | (apply Kept.ite) | split | (dsimp only) | (apply Kept.update))

theorem State.hostEnd_kept (s : State) (r : HostReq) {q : List Instr} (hk : Kept q s) : Kept q (State.hostEnd s r) := by
  unfold State.hostEnd
  repeat' (with_reducible first
    | assumption | (intro _) | (apply State.hostCA_kept) | (apply State.hostAnswer_kept) | (apply State.bump_kept)
    | (apply State.logRefused_kept) | (apply Kept.ite) | split | (dsimp only) | (apply Kept.update))

theorem State.hostSettle_kept (s : State) (fn : Nat) {q : List Instr} (hk : Kept q s) : Kept q (State.hostSettle s fn) := by
  unfold State.hostSettle
  repeat' (with_reducible first
    | assumption | (intro _) | (apply State.hostEnd_kept) | (apply Kept.ite) | (apply Kept.foldl) | (apply Kept.foldl_fst)
    | split | (dsimp only))

theorem State.landHost_kept (s : State) (fn : Nat) (id : Nat) (ofs : Nat) (rep : Reply) {q : List Instr} (hk : Kept q s) :
    Kept q (State.landHost s fn id ofs rep) := by
  unfold State.landHost
  repeat' (with_reducible first
    | assumption | (intro _) | (apply State.hostSettle_kept) | (apply Kept.ite) | split | (dsimp only) | (apply Kept.update))

theorem State.modStrata_kept (s : State) (job : Nat) (f : StrJob → StrJob) {q : List Instr} (hk : Kept q s) : Kept q
    (State.modStrata s job f) := by
  unfold State.modStrata
  repeat' (with_reducible first
    | assumption | (intro _) | (apply Kept.ite) | split | (dsimp only) | (apply Kept.update))

theorem State.modOpen_kept (s : State) (job : Nat) (f : StrOpen → StrOpen) {q : List Instr} (hk : Kept q s) : Kept q
    (State.modOpen s job f) := by
  unfold State.modOpen
  repeat' (with_reducible first
    | assumption | (intro _) | (apply State.modStrata_kept) | (apply Kept.ite) | split | (dsimp only) | (apply Kept.update))

theorem State.landStratum_kept (s : State) (job : Nat) (rep : Reply) {q : List Instr} (hk : Kept q s) : Kept q
    (State.landStratum s job rep) := by
  unfold State.landStratum
  repeat' (with_reducible first
    | assumption | (intro _) | (apply State.modOpen_kept) | (apply Kept.ite) | split | (dsimp only) | (apply Kept.update))

theorem State.landCoreWrite_kept (s : State) (c : Nat) (r : Req) (rep : Reply) {q : List Instr} (hk : Kept q s) : Kept q
    (State.landCoreWrite s c r rep) := by
  unfold State.landCoreWrite
  repeat' (with_reducible first
    | assumption | (intro _) | (apply State.modCore_kept) | (apply State.log_kept) | (apply Kept.ite) | split | (dsimp only)
    | (apply Kept.update))

theorem State.landReq_kept (s : State) (r : Req) (rep : Reply) {q : List Instr} (hk : Kept q s) : Kept q (State.landReq s r
    rep) := by
  unfold State.landReq
  repeat' (with_reducible first
    | assumption | (intro _) | (apply State.landTile_kept) | (apply State.modCore_kept) | (apply State.coreWrite_kept)
    | (apply State.landCoreWrite_kept) | (apply State.landCopy_kept) | (apply State.partDone_kept)
    | (apply State.landHost_kept) | (apply State.landRemote_kept) | (apply State.landTileSource_kept)
    | (apply State.landCopySource_kept) | (apply State.landSolver_kept) | (apply State.landStratum_kept) | (apply Kept.ite)
    | split | (refine Kept.of_fst (by assumption) ?_) | (refine Kept.of_snd (by assumption) ?_) | (dsimp only)
    | (apply Kept.update))

theorem State.issueReqs_kept (s : State) (rs : List Req) {q : List Instr} (hk : Kept q s) : Kept q (State.issueReqs s rs) :=
    by
  unfold State.issueReqs
  repeat' (with_reducible first
    | assumption | (intro _) | (apply State.number_kept) | (apply State.submit_kept) | (apply State.landReq_kept)
    | (apply State.enqueueFabric_kept) | (apply Kept.ite) | (apply Kept.foldl) | (apply Kept.foldl_fst) | split
    | (refine Kept.of_fst (by assumption) ?_) | (refine Kept.of_snd (by assumption) ?_) | (dsimp only) | (apply Kept.update))

theorem State.issueAccesses_kept (s : State) (rs : List (Req × Nat)) {q : List Instr} (hk : Kept q s) : Kept q
    (State.issueAccesses s rs) := by
  unfold State.issueAccesses
  repeat' (with_reducible first
    | assumption | (intro _) | (apply State.issueReqs_kept) | (apply State.landReq_kept) | (apply Kept.ite)
    | (apply Kept.foldl) | (apply Kept.foldl_fst) | split | (dsimp only))

theorem State.pumpTile_kept (d t : Nat) {q0 : List Instr} :
    ∀ (n : Nat) (s : State), Kept q0 s → Kept q0 (State.pumpTile d t n s)
  | 0, _, h => h
  | n + 1, s, h => by
    unfold State.pumpTile
    repeat' (with_reducible first
      | assumption | (apply State.pumpTile_kept) | (apply Kept.ite) | (apply State.issueAccesses_kept) | (apply State.modTile_kept)
      | split | (refine Kept.of_fst (by assumption) ?_) | (dsimp only) | (apply Kept.update) | (exact id))

theorem State.pumpCopy_kept (e : Nat) {q0 : List Instr} :
    ∀ (n : Nat) (s : State), Kept q0 s → Kept q0 (State.pumpCopy e n s)
  | 0, _, h => h
  | n + 1, s, h => by
    unfold State.pumpCopy
    repeat' (with_reducible first
      | assumption | (apply State.pumpCopy_kept) | (apply Kept.ite) | (apply State.issueAccesses_kept) | (apply State.modCopy_kept)
      | split | (refine Kept.of_fst (by assumption) ?_) | (dsimp only) | (apply Kept.update) | (exact id))

theorem State.pumpSolver_kept (e : Nat) {q0 : List Instr} :
    ∀ (n : Nat) (s : State), Kept q0 s → Kept q0 (State.pumpSolver e n s)
  | 0, _, h => h
  | n + 1, s, h => by
    unfold State.pumpSolver
    repeat' (with_reducible first
      | assumption | (apply State.pumpSolver_kept) | (apply Kept.ite) | (apply State.issueAccesses_kept) | (apply State.modSolver_kept)
      | split | (refine Kept.of_fst (by assumption) ?_) | (dsimp only) | (apply Kept.update) | (exact id))

theorem State.runCopy_kept (s : State) (e : Nat) {q : List Instr} (hk : Kept q s) : Kept q (State.runCopy s e) := by
  unfold State.runCopy
  repeat' (with_reducible first
    | assumption | (intro _) | (apply State.pumpCopy_kept) | (apply Kept.ite) | split | (dsimp only))

theorem State.runSolver_kept (s : State) (e : Nat) {q : List Instr} (hk : Kept q s) : Kept q (State.runSolver s e) := by
  unfold State.runSolver
  repeat' (with_reducible first
    | assumption | (intro _) | (apply State.pumpSolver_kept) | (apply Kept.ite) | split | (dsimp only))

theorem State.goesOn_kept (s : State) (land : Landing) {q : List Instr} (hk : Kept q s) : Kept q (State.goesOn s land) := by
  unfold State.goesOn
  repeat' (with_reducible first
    | assumption | (intro _) | (apply State.pumpTile_kept) | (apply State.runCopy_kept) | (apply State.runSolver_kept)
    | (apply Kept.ite) | split | (refine Kept.of_fst (by assumption) ?_) | (refine Kept.of_snd (by assumption) ?_)
    | (dsimp only) | (apply Kept.update))

theorem State.applyStack_kept (s : State) (k : Nat) (pc : Nat) {q : List Instr} (hk : Kept q s) : Kept q (State.applyStack s k
    pc) := by
  unfold State.applyStack
  repeat' (with_reducible first
    | assumption | (intro _) | (apply State.modStack_kept) | (apply State.landReq_kept) | (apply State.goesOn_kept)
    | (apply State.stackApply_kept) | (apply Kept.ite) | split | (refine Kept.of_fst (by assumption) ?_)
    | (refine Kept.of_snd (by assumption) ?_) | (dsimp only) | (apply Kept.update))

theorem State.scrubStack_kept (s : State) (k : Nat) (struck : List Upset) {q : List Instr} (hk : Kept q s) : Kept q
    (State.scrubStack s k struck) := by
  unfold State.scrubStack
  repeat' (with_reducible first
    | assumption | (intro _) | (apply State.modStack_kept) | (apply State.meetStackUpsets_kept) | (apply Kept.ite) | split
    | (dsimp only) | (apply Kept.update))

theorem State.applyFar_kept (s : State) (dev : Nat) (poison : Bool) {q : List Instr} (hk : Kept q s) : Kept q (State.applyFar
    s dev poison) := by
  unfold State.applyFar
  repeat' (with_reducible first
    | assumption | (intro _) | (apply State.landReq_kept) | (apply State.goesOn_kept) | (apply State.farApply_kept)
    | (apply Kept.ite) | split | (refine Kept.of_fst (by assumption) ?_) | (refine Kept.of_snd (by assumption) ?_)
    | (dsimp only) | (apply Kept.update))

/-! ### Cores -/

theorem State.setCoreState_kept (s : State) (c : Nat) (v : Nat) {q : List Instr} (hk : Kept q s) : Kept q (State.setCoreState
    s c v) := by
  unfold State.setCoreState
  repeat' (with_reducible first
    | assumption | (intro _) | (apply State.setFld_kept) | (apply Kept.ite) | split | (dsimp only))

theorem State.setPl_kept (s : State) (c : Nat) (pl : Nat) {q : List Instr} (hk : Kept q s) : Kept q (State.setPl s c pl) := by
  unfold State.setPl
  repeat' (with_reducible first
    | assumption | (intro _) | (apply State.setFld_kept) | (apply Kept.ite) | split | (dsimp only))

theorem State.setGreg_kept (s : State) (c : Nat) (n : Nat) (v : Word64) {q : List Instr} (hk : Kept q s) : Kept q
    (State.setGreg s c n v) := by
  unfold State.setGreg
  repeat' (with_reducible first
    | assumption | (intro _) | (apply State.modCore_kept) | (apply Kept.ite) | split | (dsimp only) | (apply Kept.update))

theorem State.advance_kept (s : State) (c : Nat) {q : List Instr} (hk : Kept q s) : Kept q (State.advance s c) := by
  unfold State.advance
  repeat' (with_reducible first
    | assumption | (intro _) | (apply State.modCore_kept) | (apply Kept.ite) | split | (dsimp only) | (apply Kept.update))

theorem State.enterLevel_kept (s : State) (c : Nat) (pl : Nat) (entry : Nat) (pc : Nat) (cause : Nat) {q : List Instr} (hk :
    Kept q s) : Kept q (State.enterLevel s c pl entry pc cause) := by
  unfold State.enterLevel
  repeat' (with_reducible first
    | assumption | (intro _) | (apply State.modCore_kept) | (apply State.setPl_kept) | (apply State.setCoreState_kept)
    | (apply Kept.ite) | split | (dsimp only) | (apply Kept.update))

theorem State.coreException_kept (s : State) (c : Nat) (pc : Nat) (cause : Nat) {q : List Instr} (hk : Kept q s) : Kept q
    (State.coreException s c pc cause) := by
  unfold State.coreException
  repeat' (with_reducible first
    | assumption | (intro _) | (apply State.enterLevel_kept) | (apply Kept.ite) | split | (dsimp only))

theorem State.sysInstr_kept (s : State) (c : Nat) (w : Word) (fn : Nat) (useA : Bool) (useB : Bool) (f : State → State) {q :
    List Instr} (hf : ∀ a0, Kept q a0 → Kept q (f a0)) (hk : Kept q s) : Kept q (State.sysInstr s c w fn useA useB f) := by
  unfold State.sysInstr
  repeat' (with_reducible first
    | assumption | (intro _) | (apply State.coreException_kept) | (apply hf) | (apply Kept.ite) | split | (dsimp only))

theorem State.staleFills_kept (s : State) (d : Nat) (hit : Nat → Bool) {q : List Instr} (hk : Kept q s) : Kept q
    (State.staleFills s d hit) := by
  unfold State.staleFills
  repeat' (with_reducible first
    | assumption | (intro _) | (apply Kept.ite) | split | (dsimp only) | (apply Kept.update))

theorem State.updateLine_kept (s : State) (d : Nat) (a : Nat) (bs : List Byte) {q : List Instr} (hk : Kept q s) : Kept q
    (State.updateLine s d a bs) := by
  unfold State.updateLine
  repeat' (with_reducible first
    | assumption | (intro _) | (apply State.staleFills_kept) | (apply State.setProc_kept) | (apply Kept.ite) | split
    | (refine Kept.of_fst (by assumption) ?_) | (refine Kept.of_snd (by assumption) ?_) | (dsimp only) | (apply Kept.update))

theorem State.issueCore_kept (s : State) (a : Nat) (r : Req) {q : List Instr} (hk : Kept q s) : Kept q (State.issueCore s a r)
    := by
  unfold State.issueCore
  repeat' (with_reducible first
    | assumption | (intro _) | (apply State.number_kept) | (apply State.landReq_kept) | (apply State.issueReqs_kept)
    | (apply Kept.ite) | split | (dsimp only))

theorem State.sendStore_kept (s : State) (c : Nat) (a : Nat) (secure : Bool) (bs : List Byte) {q : List Instr} (hk : Kept q s)
    : Kept q (State.sendStore s c a secure bs) := by
  unfold State.sendStore
  repeat' (with_reducible first
    | assumption | (intro _) | (apply State.modCore_kept) | (apply State.issueCore_kept) | (apply State.coreWrite_kept)
    | (apply Kept.ite) | split | (dsimp only) | (apply Kept.update))

theorem State.sendLine_kept (c : Nat) (s : State) (w : BufLine) {q : List Instr} (hk : Kept q s) : Kept q (State.sendLine c s
    w) := by
  unfold State.sendLine
  repeat' (with_reducible first
    | assumption | (intro _) | (apply State.updateLine_kept) | (apply State.sendStore_kept) | (apply Kept.ite)
    | (apply Kept.foldl) | (apply Kept.foldl_fst) | split | (dsimp only))

theorem State.sendStores_kept (s : State) (c : Nat) {q : List Instr} (hk : Kept q s) : Kept q (State.sendStores s c) := by
  unfold State.sendStores
  repeat' (with_reducible first
    | assumption | (intro _) | (apply State.sendLine_kept) | (apply State.modCore_kept) | (apply Kept.ite)
    | (apply Kept.foldl) | (apply Kept.foldl_fst) | split | (dsimp only) | (apply Kept.update))

theorem State.sendAllStores_kept (s : State) {q : List Instr} (hk : Kept q s) : Kept q (State.sendAllStores s) := by
  unfold State.sendAllStores
  repeat' (with_reducible first
    | assumption | (intro _) | (apply State.sendStores_kept) | (apply Kept.ite) | (apply Kept.foldl) | (apply Kept.foldl_fst)
    | split | (dsimp only))

theorem State.coreWrite_kept (s : State) (c : Nat) (a : Nat) (bs : List Byte) {q : List Instr} (hk : Kept q s) : Kept q
    (State.coreWrite s c a bs) := by
  unfold State.coreWrite
  repeat' (with_reducible first
    | assumption | (intro _) | (apply State.updateLine_kept) | (apply State.modCore_kept) | (apply State.sendStore_kept)
    | (apply Kept.ite) | split | (dsimp only))

theorem State.sendOwn_kept (s : State) (c : Nat) (a : Nat) {q : List Instr} (hk : Kept q s) : Kept q (State.sendOwn s c a) :=
    by
  unfold State.sendOwn
  repeat' (with_reducible first
    | assumption | (intro _) | (apply State.sendStores_kept) | (apply Kept.ite) | split | (dsimp only))

theorem State.invalidate_kept (s : State) (d : Nat) (hit : Nat → Bool) {q : List Instr} (hk : Kept q s) : Kept q
    (State.invalidate s d hit) := by
  unfold State.invalidate
  repeat' (with_reducible first
    | assumption | (intro _) | (apply State.setProc_kept) | (apply State.staleFills_kept) | (apply Kept.ite) | split
    | (dsimp only) | (apply Kept.update))

theorem State.startInval_kept (s : State) (c : Nat) (cycles : Nat) (range : Option (Nat × Nat)) (hit : Nat → Bool) {q : List
    Instr} (hk : Kept q s) : Kept q (State.startInval s c cycles range hit) := by
  unfold State.startInval
  repeat' (with_reducible first
    | assumption | (intro _) | (apply State.advance_kept) | (apply State.invalidate_kept) | (apply State.modCore_kept)
    | (apply State.setCoreState_kept) | (apply Kept.ite) | split | (dsimp only) | (apply Kept.update))

theorem State.invr_kept (s : State) (c : Nat) (a : Nat) (n : Nat) {q : List Instr} (hk : Kept q s) : Kept q (State.invr s c a
    n) := by
  unfold State.invr
  repeat' (with_reducible first
    | assumption | (intro _) | (apply State.startInval_kept) | (apply Kept.ite) | split
    | (refine Kept.of_fst (by assumption) ?_) | (refine Kept.of_snd (by assumption) ?_) | (dsimp only) | (apply Kept.update))

theorem State.takeIrq_kept (s : State) (c : Nat) {q : List Instr} (hk : Kept q s) : Kept q (State.takeIrq s c) := by
  unfold State.takeIrq
  repeat' (with_reducible first
    | assumption | (intro _) | (apply State.modCore_kept) | (apply State.enterLevel_kept) | (apply Kept.ite) | split
    | (refine Kept.of_fst (by assumption) ?_) | (refine Kept.of_snd (by assumption) ?_) | (dsimp only) | (apply Kept.update))

theorem State.writeGrainCmp_kept (s : State) (c : Nat) (high : Bool) (v : Word) {q : List Instr} (hk : Kept q s) : Kept q
    (State.writeGrainCmp s c high v) := by
  unfold State.writeGrainCmp
  repeat' (with_reducible first
    | assumption | (intro _) | (apply State.setReg_kept) | (apply State.modCore_kept) | (apply Kept.ite) | split
    | (dsimp only) | (apply Kept.update))

theorem State.writeIrqMask_kept (s : State) (c : Nat) (w : Nat) (secure : Bool) (v : Word) {q : List Instr} (hk : Kept q s) :
    Kept q (State.writeIrqMask s c w secure v) := by
  unfold State.writeIrqMask
  repeat' (with_reducible first
    | assumption | (intro _) | (apply State.setReg_kept) | (apply Kept.ite) | split | (dsimp only))

theorem State.releaseCore_kept (s : State) (c : Nat) {q : List Instr} (hk : Kept q s) : Kept q (State.releaseCore s c) := by
  unfold State.releaseCore
  repeat' (with_reducible first
    | assumption | (intro _) | (apply State.modCore_kept) | (apply State.setPl_kept) | (apply State.setCoreState_kept)
    | (apply Kept.ite) | split | (dsimp only) | (apply Kept.update))

theorem State.takeNmi_kept (s : State) (c : Nat) {q : List Instr} (hk : Kept q s) : Kept q (State.takeNmi s c) := by
  unfold State.takeNmi
  repeat' (with_reducible first
    | assumption | (intro _) | (apply State.enterLevel_kept) | (apply State.modCore_kept) | (apply Kept.ite) | split
    | (refine Kept.of_fst (by assumption) ?_) | (refine Kept.of_snd (by assumption) ?_) | (dsimp only) | (apply Kept.update))

theorem State.discardLines_kept (s : State) (c : Nat) (level : Nat) (ls : List Nat) {q : List Instr} (hk : Kept q s) : Kept q
    (State.discardLines s c level ls) := by
  unfold State.discardLines
  repeat' (with_reducible first
    | assumption | (intro _) | (apply State.setProc_kept) | (apply State.bump_kept) | (apply Kept.ite) | (apply Kept.foldl)
    | (apply Kept.foldl_fst) | split | (dsimp only) | (apply Kept.update))

theorem State.cacheError_kept (s : State) (c a : Nat) (x : CacheError) {q : List Instr} (hk : Kept q s) :
    Kept q (State.cacheError s c a x) := by
  cases x
  · exact hk
  · exact State.discardLines_kept _ _ _ _ hk
  · exact State.discardLines_kept _ _ _ _ hk

theorem State.askLine_kept (s : State) (c : Nat) (l : CoreLoad) {q : List Instr} (hk : Kept q s) : Kept q (State.askLine s c
    l) := by
  unfold State.askLine
  repeat' (with_reducible first
    | assumption | (intro _) | (apply State.sendOwn_kept) | (apply State.modCore_kept) | (apply State.issueCore_kept)
    | (apply Kept.ite) | split | (dsimp only) | (apply Kept.update))

theorem State.coreLoad_kept (s : State) (c : Nat) (rd : Nat) (a : Nat) (n : Nat) (privPage : Bool) (fetch : Bool) {q : List
    Instr} (hk : Kept q s) : Kept q (State.coreLoad s c rd a n privPage fetch) := by
  unfold State.coreLoad
  repeat' (with_reducible first
    | assumption | (intro _) | (apply State.coreException_kept) | (apply State.setGreg_kept) | (apply State.advance_kept)
    | (apply State.askLine_kept) | (apply Kept.ite) | split | (refine Kept.of_fst (by assumption) ?_)
    | (refine Kept.of_snd (by assumption) ?_) | (dsimp only) | (apply Kept.update))

theorem State.coreStore_kept (s : State) (c : Nat) (a : Nat) (n : Nat) (v : Word64) (privPage : Bool) {q : List Instr} (hk :
    Kept q s) : Kept q (State.coreStore s c a n v privPage) := by
  unfold State.coreStore
  repeat' (with_reducible first
    | assumption | (intro _) | (apply State.coreException_kept) | (apply State.sendStores_kept) | (apply State.advance_kept)
    | (apply State.coreWrite_kept) | (apply Kept.ite) | split | (dsimp only))

theorem State.coreAtomic_kept (s : State) (c : Nat) (rd : Nat) (a : Nat) (aop : Nat) (size64 : Bool) (privPage : Bool)
    (operand : List Byte) {q : List Instr} (hk : Kept q s) : Kept q (State.coreAtomic s c rd a aop size64 privPage operand) := by
  unfold State.coreAtomic
  repeat' (with_reducible first
    | assumption | (intro _) | (apply State.coreException_kept) | (apply State.advance_kept) | (apply State.sendOwn_kept)
    | (apply State.invalidate_kept) | (apply State.modCore_kept) | (apply State.issueCore_kept) | (apply State.coreWrite_kept)
    | (apply Kept.ite) | split | (dsimp only) | (apply Kept.update))

theorem State.installLine_kept (s : State) (c : Nat) (id : Nat) (l : CoreLoad) (bs : List Byte) {q : List Instr} (hk : Kept q
    s) : Kept q (State.installLine s c id l bs) := by
  unfold State.installLine
  repeat' (with_reducible first
    | assumption | (intro _) | (apply State.setProc_kept) | (apply Kept.ite) | split | (dsimp only) | (apply Kept.update))

theorem State.giveBytes_kept (s : State) (c : Nat) (l : CoreLoad) (bs : List Byte) {q : List Instr} (hk : Kept q s) : Kept q
    (State.giveBytes s c l bs) := by
  unfold State.giveBytes
  repeat' (with_reducible first
    | assumption | (intro _) | (apply State.modCore_kept) | (apply State.setGreg_kept) | (apply Kept.ite) | split
    | (dsimp only) | (apply Kept.update))

theorem State.loadReply_kept (s : State) (c : Nat) (id : Nat) {q : List Instr} (hk : Kept q s) : Kept q (State.loadReply s c
    id) := by
  unfold State.loadReply
  repeat' (with_reducible first
    | assumption | (intro _) | (apply State.installLine_kept) | (apply State.modCore_kept) | (apply State.log_kept)
    | (apply State.coreException_kept) | (apply State.draw_kept) | (apply State.giveBytes_kept) | (apply Kept.ite) | split
    | (refine Kept.of_fst (by assumption) ?_) | (refine Kept.of_snd (by assumption) ?_) | (dsimp only) | (apply Kept.update))

/-! ### Links -/

theorem State.resend_kept (s : State) (lost : Nat → Bool) {q : List Instr} (hk : Kept q s) : Kept q (State.resend s lost) :=
    by
  unfold State.resend
  repeat' (with_reducible first
    | assumption | (intro _) | (apply State.bump_kept) | (apply State.inject_kept) | (apply Kept.ite) | (apply Kept.foldl)
    | (apply Kept.foldl_fst) | split | (dsimp only) | (apply Kept.update))

theorem State.raiseEpoch_kept (s : State) {q : List Instr} (hk : Kept q s) : Kept q (State.raiseEpoch s) := by
  unfold State.raiseEpoch
  repeat' (with_reducible first
    | assumption | (intro _) | (apply State.setFld_kept) | (apply State.resend_kept) | (apply Kept.ite) | split | (dsimp only))

theorem State.loseDest_kept (s : State) (dst : Nat) {q : List Instr} (hk : Kept q s) : Kept q (State.loseDest s dst) := by
  unfold State.loseDest
  repeat' (with_reducible first
    | assumption | (intro _) | (apply State.landReq_kept) | (apply State.goesOn_kept) | (apply Kept.ite) | (apply Kept.foldl)
    | (apply Kept.foldl_fst) | split | (dsimp only) | (apply Kept.update))

theorem State.setPortState_kept (s : State) (p : Nat) (v : Nat) {q : List Instr} (hk : Kept q s) : Kept q (State.setPortState
    s p v) := by
  unfold State.setPortState
  repeat' (with_reducible first
    | assumption | (intro _) | (apply State.setFld_kept) | (apply Kept.ite) | split | (dsimp only))

theorem State.portLog_kept (s : State) (p : Nat) (status : Nat) {q : List Instr} (hk : Kept q s) : Kept q (State.portLog s p
    status) := by
  unfold State.portLog
  repeat' (with_reducible first
    | assumption | (intro _) | (apply State.log_kept) | (apply Kept.ite) | split | (dsimp only))

theorem State.sendNotices_kept (s : State) (level : Nat) (peer : Nat) {q : List Instr} (hk : Kept q s) : Kept q
    (State.sendNotices s level peer) := by
  unfold State.sendNotices
  repeat' (with_reducible first
    | assumption | (intro _) | (apply State.sendMgmt_kept) | (apply Kept.ite) | (apply Kept.foldl) | (apply Kept.foldl_fst)
    | split | (dsimp only))

theorem State.sendControl_kept (s : State) (p : Nat) (ctype : Nat) (nak : Nat) {q : List Instr} (hk : Kept q s) : Kept q
    (State.sendControl s p ctype nak) := by
  unfold State.sendControl
  repeat' (with_reducible first
    | assumption | (intro _) | (apply State.modPort_kept) | (apply Kept.ite) | split | (dsimp only) | (apply Kept.update))

theorem State.leaveUp_kept (s : State) (p : Nat) {q : List Instr} (hk : Kept q s) : Kept q (State.leaveUp s p) := by
  unfold State.leaveUp
  repeat' (with_reducible first
    | assumption | (intro _) | (apply State.modPort_kept) | (apply State.setPortState_kept) | (apply State.prtEvent_kept)
    | (apply State.portLog_kept) | (apply State.raiseEpoch_kept) | (apply State.sendNotices_kept) | (apply Kept.ite) | split
    | (dsimp only))

theorem State.knockPort_kept (s : State) (p : Nat) {q : List Instr} (hk : Kept q s) : Kept q (State.knockPort s p) := by
  unfold State.knockPort
  repeat' (with_reducible first
    | assumption | (intro _) | (apply State.modPort_kept) | (apply Kept.ite) | split | (dsimp only) | (apply Kept.update))

theorem State.portToDown_kept (s : State) (p : Nat) {q : List Instr} (hk : Kept q s) : Kept q (State.portToDown s p) := by
  unfold State.portToDown
  repeat' (with_reducible first
    | assumption | (intro _) | (apply State.leaveUp_kept) | (apply State.setPortState_kept) | (apply State.knockPort_kept)
    | (apply Kept.ite) | split | (dsimp only))

theorem State.portTrain_kept (s : State) (p : Nat) {q : List Instr} (hk : Kept q s) : Kept q (State.portTrain s p) := by
  unfold State.portTrain
  repeat' (with_reducible first
    | assumption | (intro _) | (apply State.setPortState_kept) | (apply State.modPort_kept) | (apply State.sendControl_kept)
    | (apply Kept.ite) | split | (dsimp only) | (apply Kept.update))

theorem State.portRetrain_kept (s : State) (p : Nat) {q : List Instr} (hk : Kept q s) : Kept q (State.portRetrain s p) := by
  unfold State.portRetrain
  repeat' (with_reducible first
    | assumption | (intro _) | (apply State.portToDown_kept) | (apply State.portTrain_kept) | (apply Kept.ite) | split
    | (dsimp only))

theorem State.portReleased_kept (s : State) (p : Nat) (role : Nat) (who : Nat) {q : List Instr} (hk : Kept q s) : Kept q
    (State.portReleased s p role who) := by
  unfold State.portReleased
  repeat' (with_reducible first
    | assumption | (intro _) | (apply State.logRefused_kept) | (apply State.setPortState_kept) | (apply State.knockPort_kept)
    | (apply State.portTrain_kept) | (apply Kept.ite) | split | (dsimp only))

theorem State.portEnabled_kept (s : State) (p : Nat) (on : Bool) {q : List Instr} (hk : Kept q s) : Kept q (State.portEnabled
    s p on) := by
  unfold State.portEnabled
  repeat' (with_reducible first
    | assumption | (intro _) | (apply State.setFld_kept) | (apply State.knockPort_kept) | (apply State.portToDown_kept)
    | (apply Kept.ite) | split | (dsimp only))

theorem State.quarantine_kept (s : State) (p : Nat) {q : List Instr} (hk : Kept q s) : Kept q (State.quarantine s p) := by
  unfold State.quarantine
  repeat' (with_reducible first
    | assumption | (intro _) | (apply State.leaveUp_kept) | (apply State.setPortState_kept) | (apply State.modPort_kept)
    | (apply State.sendControl_kept) | (apply State.prtEvent_kept) | (apply State.portLog_kept) | (apply Kept.ite) | split
    | (dsimp only) | (apply Kept.update))

theorem State.portSend_kept (s : State) (p : Nat) {q : List Instr} (hk : Kept q s) : Kept q (State.portSend s p) := by
  unfold State.portSend
  repeat' (with_reducible first
    | assumption | (intro _) | (apply State.modPort_kept) | (apply Kept.ite) | split | (dsimp only) | (apply Kept.update))

theorem State.discardFlit_kept (s : State) (p : Nat) (again : Bool) {q : List Instr} (hk : Kept q s) : Kept q
    (State.discardFlit s p again) := by
  unfold State.discardFlit
  repeat' (with_reducible first
    | assumption | (intro _) | (apply State.modPort_kept) | (apply State.sendControl_kept) | (apply Kept.ite) | split
    | (dsimp only) | (apply Kept.update))

theorem State.flitIn_kept (s : State) (p : Nat) (fec : Fec) (count : Nat) (ws : List Word) {q : List Instr} (hk : Kept q s) :
    Kept q (State.flitIn s p fec count ws) := by
  unfold State.flitIn
  repeat' (with_reducible first
    | assumption | (intro _) | (apply State.bump_kept) | (apply State.modPort_kept) | (apply State.discardFlit_kept)
    | (apply State.portSend_kept) | (apply Kept.ite) | split | (refine Kept.of_fst (by assumption) ?_)
    | (refine Kept.of_snd (by assumption) ?_) | (dsimp only) | (apply Kept.update))

theorem State.controlIn_kept (s : State) (p : Nat) (ws : List Word) {q : List Instr} (hk : Kept q s) : Kept q (State.controlIn
    s p ws) := by
  unfold State.controlIn
  repeat' (with_reducible first
    | assumption | (intro _) | (apply State.modPort_kept) | (apply Kept.ite) | split | (dsimp only) | (apply Kept.update))

theorem State.nakIn_kept (s : State) (p : Nat) (ws : List Word) {q : List Instr} (hk : Kept q s) : Kept q (State.nakIn s p ws)
    := by
  unfold State.nakIn
  repeat' (with_reducible first
    | assumption | (intro _) | (apply State.controlIn_kept) | (apply State.bump_kept) | (apply State.modPort_kept)
    | (apply Kept.ite) | (apply Kept.foldl) | (apply Kept.foldl_fst) | split | (dsimp only) | (apply Kept.update))

theorem State.creditIn_kept (s : State) (p : Nat) (ws : List Word) {q : List Instr} (hk : Kept q s) : Kept q (State.creditIn s
    p ws) := by
  unfold State.creditIn
  repeat' (with_reducible first
    | assumption | (intro _) | (apply State.controlIn_kept) | (apply State.portSend_kept) | (apply Kept.ite) | split
    | (dsimp only))

theorem State.identIn_kept (s : State) (p : Nat) (ws : List Word) (rev : Bool) {q : List Instr} (hk : Kept q s) : Kept q
    (State.identIn s p ws rev) := by
  unfold State.identIn
  repeat' (with_reducible first
    | assumption | (intro _) | (apply State.setFld_kept) | (apply State.modPort_kept) | (apply State.setPortState_kept)
    | (apply State.prtEvent_kept) | (apply State.portLog_kept) | (apply State.controlIn_kept) | (apply Kept.ite) | split
    | (refine Kept.of_fst (by assumption) ?_) | (refine Kept.of_snd (by assumption) ?_) | (dsimp only) | (apply Kept.update))

theorem State.quarantineIn_kept (s : State) (p : Nat) (ws : List Word) {q : List Instr} (hk : Kept q s) : Kept q
    (State.quarantineIn s p ws) := by
  unfold State.quarantineIn
  repeat' (with_reducible first
    | assumption | (intro _) | (apply State.portToDown_kept) | (apply Kept.ite) | split | (dsimp only))

/-! ### Tile -/

theorem State.issued_kept (s : State) (d : Nat) (t : Nat) (w : BitVec 128) {q : List Instr} (hk : Kept q s) : Kept q
    (State.issued s d t w) := by
  unfold State.issued
  repeat' (with_reducible first
    | assumption | (intro _) | (apply State.modTile_kept) | (apply Kept.ite) | split | (dsimp only) | (apply Kept.update))

theorem State.touchTags_kept (s : State) (d : Nat) (t : Nat) (ps : List Nat) {q : List Instr} (hk : Kept q s) : Kept q
    (State.touchTags s d t ps) := by
  unfold State.touchTags
  repeat' (with_reducible first
    | assumption | (intro _) | (apply State.touchTag_kept) | (apply Kept.ite) | (apply Kept.foldl) | (apply Kept.foldl_fst)
    | split | (dsimp only))

theorem State.touchRanges_kept (s : State) (d : Nat) (t : Nat) (rs : List (Nat × Nat)) {q : List Instr} (hk : Kept q s) : Kept
    q (State.touchRanges s d t rs) := by
  unfold State.touchRanges
  repeat' (with_reducible first
    | assumption | (intro _) | (apply State.touchBytes_kept) | (apply Kept.ite) | (apply Kept.foldl) | (apply Kept.foldl_fst)
    | split | (dsimp only))

theorem State.moveWord_kept (s : State) (d : Nat) (f : Flight) {q : List Instr} (hk : Kept q s) : Kept q (State.moveWord s d
    f).1 := by
  unfold State.moveWord
  repeat' (with_reducible first
    | assumption | (intro _) | (apply State.modTile_kept) | (apply State.modDie_kept) | (apply Kept.ite) | split
    | (dsimp only) | (apply Kept.update))

theorem State.moveWords_kept (s : State) (d : Nat) (lim : Nat) {q : List Instr} (hk : Kept q s) : Kept q (State.moveWords s d
    lim) := by
  unfold State.moveWords
  repeat' (with_reducible first
    | assumption | (intro _) | (apply State.moveWord_kept) | (apply State.modDie_kept) | (apply Kept.ite) | (apply Kept.foldl)
    | (apply Kept.foldl_fst) | split | (dsimp only) | (apply Kept.update))

theorem State.sendWords_kept (d t lim : Nat) {q : List Instr} :
    ∀ (n : Nat) (r : State × Bool), Kept q r.1 → Kept q (State.sendWords d t lim n r).1
  | 0, _, h => h
  | n + 1, r, h => by
    unfold State.sendWords
    repeat' (with_reducible first
      | assumption | (apply State.sendWords_kept) | (apply Kept.ite) | (apply State.scrAbort_kept) | (apply State.setTagAt_kept)
      | (apply State.modTile_kept) | (apply State.modDie_kept) | (apply State.touchBytes_kept) | split | dsimp only)

theorem State.recvWords_kept (d t lim : Nat) {q : List Instr} :
    ∀ (n : Nat) (r : State × Bool), Kept q r.1 → Kept q (State.recvWords d t lim n r).1
  | 0, _, h => h
  | n + 1, r, h => by
    unfold State.recvWords
    repeat' (with_reducible first
      | assumption | (apply State.recvWords_kept) | (apply Kept.ite) | (apply State.tileTag_kept) | (apply State.modTile_kept)
      | (apply State.tilePut_kept) | split | dsimp only)

theorem State.settle_kept {q : List Instr} :
    ∀ (n : Nat) (s : State) (d lim : Nat), Kept q s → Kept q (State.settle n s d lim)
  | 0, _, _, _, h => h
  | n + 1, s, d, lim, h => by
    unfold State.settle
    repeat' (with_reducible first
      | assumption | (intro _) | (apply State.settle_kept) | (apply Kept.ite) | (apply State.sendWords_kept)
      | (apply State.recvWords_kept) | (apply Kept.foldl_fst) | (apply State.moveWords_kept) | split | dsimp only)

theorem State.placeWords_kept (s : State) (d : Nat) (t : Nat) (ws : List (Nat × List Byte)) {q : List Instr} (hk : Kept q s) :
    Kept q (State.placeWords s d t ws) := by
  unfold State.placeWords
  repeat' (with_reducible first
    | assumption | (intro _) | (apply State.modDie_kept) | (apply Kept.ite) | split | (dsimp only) | (apply Kept.update))

theorem State.stream_kept (s : State) (d : Nat) (lim : Nat) {q : List Instr} (hk : Kept q s) : Kept q (State.stream s d lim)
    := by
  unfold State.stream
  repeat' (with_reducible first
    | assumption | (intro _) | (apply State.settle_kept) | (apply Kept.ite) | split | (dsimp only))

theorem State.mmaTo_kept (d t : Nat) (x : MmaDesc) (y : TileX) (c : Nat) {q : List Instr} :
    ∀ (n : Nat) (s : State) (m : MmaRun), Kept q s → Kept q (State.mmaTo d t x y c n s m).1
  | 0, _, _, h => h
  | n + 1, s, m, h => by
    unfold State.mmaTo
    extract_lets takes s1
    have h1 : Kept q s1 := Kept.ite h (State.touchRanges_kept _ _ _ _ h)
    clear_value s1
    refine Kept.ite_fst h ?_
    split
    · exact State.mmaTo_kept d t x y c n _ _ h1
    · exact h1
    · exact h1

theorem State.mmaEmpty_kept (s : State) (d : Nat) (t : Nat) (x : MmaDesc) {q : List Instr} (hk : Kept q s) : Kept q
    (State.mmaEmpty s d t x) := by
  unfold State.mmaEmpty
  repeat' (with_reducible first
    | assumption | (intro _) | (apply State.setTagAt_kept) | (apply State.modTile_kept) | (apply Kept.ite)
    | (apply Kept.foldl) | (apply Kept.foldl_fst) | split | (refine Kept.of_fst (by assumption) ?_)
    | (refine Kept.of_snd (by assumption) ?_) | (dsimp only) | (apply Kept.update))

theorem State.mmaCatchUp_kept (s : State) (d t c : Nat) {q : List Instr} (hk : Kept q s) :
    Kept q (State.mmaCatchUp s d t c) := by
  unfold State.mmaCatchUp
  split
  · exact hk
  · next m hm =>
    have h1 : ∀ (y : TileX) f, Kept q (((State.mmaTo d t (mmaDesc m.desc) (s.tile d t) c (c + 1 - m.cycle) s m).1.setTile
        d t y).raise d t true f) :=
      fun y f => State.raise_kept _ _ _ _ _ (State.setTile_kept _ _ _ _ (State.mmaTo_kept _ _ _ _ _ _ _ _ hk))
    dsimp only
    split
    · exact State.scrAbort_kept _ _ _ _ _ _ (h1 _ _)
    · exact State.mmaEmpty_kept _ _ _ _ (h1 _ _)

theorem State.mmaSync_kept (s : State) (d : Nat) (t : Nat) (c : Nat) {q : List Instr} (hk : Kept q s) : Kept q (State.mmaSync
    s d t c) := by
  unfold State.mmaSync
  repeat' (with_reducible first
    | assumption | (intro _) | (apply State.mmaCatchUp_kept) | (apply Kept.ite) | (apply Kept.foldl) | (apply Kept.foldl_fst)
    | split | (refine Kept.of_fst (by assumption) ?_) | (refine Kept.of_snd (by assumption) ?_) | (dsimp only)
    | (apply Kept.update))

theorem State.issueWith_kept (s : State) (d : Nat) (t : Nat) (w : BitVec 128) (op : Nat) (reads : List Nat) (writes : List
    Nat) (f : State → State) {q : List Instr} (hf : ∀ a0, Kept q a0 → Kept q (f a0)) (hk : Kept q s) : Kept q (State.issueWith s d
    t w op reads writes f) := by
  unfold State.issueWith
  repeat' (with_reducible first
    | assumption | (intro _) | (apply State.stream_kept) | (apply State.mmaSync_kept) | (apply State.touchTags_kept)
    | (apply State.holdDie_kept) | (apply State.issued_kept) | (apply hf) | (apply Kept.ite) | split | (dsimp only))

theorem State.mmaFinish_kept (s : State) (d : Nat) (t : Nat) {q : List Instr} (hk : Kept q s) : Kept q (State.mmaFinish s d t)
    := by
  unfold State.mmaFinish
  repeat' (with_reducible first
    | assumption | (intro _) | (apply State.stream_kept) | (apply State.mmaCatchUp_kept) | (apply State.modTile_kept)
    | (apply Kept.ite) | split | (refine Kept.of_fst (by assumption) ?_) | (refine Kept.of_snd (by assumption) ?_)
    | (dsimp only) | (apply Kept.update))

theorem State.sendFinish_kept (s : State) (d : Nat) (t : Nat) {q : List Instr} (hk : Kept q s) : Kept q (State.sendFinish s d
    t) := by
  unfold State.sendFinish
  repeat' (with_reducible first
    | assumption | (intro _) | (apply State.stream_kept) | (apply State.mmaSync_kept) | (apply State.start_kept)
    | (apply State.modTile_kept) | (apply Kept.ite) | split | (refine Kept.of_fst (by assumption) ?_)
    | (refine Kept.of_snd (by assumption) ?_) | (dsimp only) | (apply Kept.update))

theorem State.recvFinish_kept (s : State) (d : Nat) (t : Nat) {q : List Instr} (hk : Kept q s) : Kept q (State.recvFinish s d
    t) := by
  unfold State.recvFinish
  repeat' (with_reducible first
    | assumption | (intro _) | (apply State.stream_kept) | (apply State.modTile_kept) | (apply Kept.ite) | split
    | (refine Kept.of_fst (by assumption) ?_) | (refine Kept.of_snd (by assumption) ?_) | (dsimp only) | (apply Kept.update))

theorem State.writeScrClear_kept (s : State) (d : Nat) (v : Word) {q : List Instr} (hk : Kept q s) : Kept q
    (State.writeScrClear s d v) := by
  unfold State.writeScrClear
  repeat' (with_reducible first
    | assumption | (intro _) | (apply State.setFld_kept) | (apply State.startClear_kept) | (apply Kept.ite) | split
    | (dsimp only))

/-! ### Clocks -/

theorem State.setDemands_kept (s : State) (d : Nat) (m : FMap Nat) {q : List Instr} (hk : Kept q s) : Kept q (State.setDemands
    s d m) := by
  unfold State.setDemands
  repeat' (with_reducible first
    | assumption | (intro _) | (apply State.modDie_kept) | (apply State.setProc_kept) | (apply Kept.ite) | split
    | (dsimp only) | (apply Kept.update))

theorem State.setCalm_kept (s : State) (d : Nat) (m : FMap Nat) {q : List Instr} (hk : Kept q s) : Kept q (State.setCalm s d
    m) := by
  unfold State.setCalm
  repeat' (with_reducible first
    | assumption | (intro _) | (apply State.modDie_kept) | (apply State.setProc_kept) | (apply Kept.ite) | split
    | (dsimp only) | (apply Kept.update))

theorem State.setSensors_kept (s : State) (d : Nat) (m : FMap (Int × Int)) {q : List Instr} (hk : Kept q s) : Kept q
    (State.setSensors s d m) := by
  unfold State.setSensors
  repeat' (with_reducible first
    | assumption | (intro _) | (apply State.modDie_kept) | (apply State.setProc_kept) | (apply Kept.ite) | split
    | (dsimp only) | (apply Kept.update))

theorem State.setClock_kept (s : State) (d : Nat) (p : Nat) {q : List Instr} (hk : Kept q s) : Kept q (State.setClock s d p)
    := by
  unfold State.setClock
  repeat' (with_reducible first
    | assumption | (intro _) | (apply State.setFld_kept) | (apply State.modDie_kept) | (apply State.setProc_kept)
    | (apply Kept.ite) | split | (dsimp only) | (apply Kept.update))

theorem State.applyClock_kept (s : State) (d : Nat) {q : List Instr} (hk : Kept q s) : Kept q (State.applyClock s d) := by
  unfold State.applyClock
  repeat' (with_reducible first
    | assumption | (intro _) | (apply State.setFld_kept) | (apply State.setClock_kept) | (apply Kept.ite) | (apply Kept.foldl)
    | (apply Kept.foldl_fst) | split | (dsimp only))

theorem State.demand_kept (s : State) (d : Nat) (key : Nat) (period : Nat) {q : List Instr} (hk : Kept q s) : Kept q
    (State.demand s d key period) := by
  unfold State.demand
  repeat' (with_reducible first
    | assumption | (intro _) | (apply State.setDemands_kept) | (apply State.applyClock_kept) | (apply Kept.ite) | split
    | (dsimp only))

theorem State.undemand_kept (s : State) (d : Nat) (key : Nat) {q : List Instr} (hk : Kept q s) : Kept q (State.undemand s d
    key) := by
  unfold State.undemand
  repeat' (with_reducible first
    | assumption | (intro _) | (apply State.setDemands_kept) | (apply State.setCalm_kept) | (apply State.applyClock_kept)
    | (apply Kept.ite) | split | (dsimp only))

theorem State.noteCalm_kept (s : State) (d : Nat) (key : Nat) (clear : Bool) {q : List Instr} (hk : Kept q s) : Kept q
    (State.noteCalm s d key clear) := by
  unfold State.noteCalm
  repeat' (with_reducible first
    | assumption | (intro _) | (apply State.setCalm_kept) | (apply Kept.ite) | split | (dsimp only))

theorem State.stepDemand_kept (s : State) (d : Nat) (key : Nat) (m : Nat) (hi : Nat) (hi2 : Nat) (lo : Nat) (lo2 : Nat) {q :
    List Instr} (hk : Kept q s) : Kept q (State.stepDemand s d key m hi hi2 lo lo2) := by
  unfold State.stepDemand
  repeat' (with_reducible first
    | assumption | (intro _) | (apply State.demand_kept) | (apply State.noteCalm_kept) | (apply Kept.ite) | split
    | (dsimp only))

theorem State.senseDie_kept (s : State) (d : Nat) {q : List Instr} (hk : Kept q s) : Kept q (State.senseDie s d) := by
  unfold State.senseDie
  repeat' (with_reducible first
    | assumption | (intro _) | (apply State.setFld_kept) | (apply State.stepDemand_kept) | (apply State.demand_kept)
    | (apply State.noteCalm_kept) | (apply Kept.ite) | (apply Kept.foldl) | (apply Kept.foldl_fst) | split | (dsimp only))

theorem State.sensePkg_kept (s : State) {q : List Instr} (hk : Kept q s) : Kept q (State.sensePkg s) := by
  unfold State.sensePkg
  repeat' (with_reducible first
    | assumption | (intro _) | (apply State.demand_kept) | (apply State.noteCalm_kept) | (apply Kept.ite) | (apply Kept.foldl)
    | (apply Kept.foldl_fst) | split | (dsimp only))

theorem State.sense_kept (s : State) (r : Reading) {q : List Instr} (hk : Kept q s) : Kept q (State.sense s r) := by
  unfold State.sense
  repeat' (with_reducible first
    | assumption | (intro _) | (apply State.setSensors_kept) | (apply State.demand_kept) | (apply State.noteCalm_kept)
    | (apply Kept.ite) | split | (refine Kept.of_fst (by assumption) ?_) | (refine Kept.of_snd (by assumption) ?_)
    | (dsimp only) | (apply Kept.update))

theorem State.endDemand_kept (s : State) (d : Nat) (cause : Nat) {q : List Instr} (hk : Kept q s) : Kept q (State.endDemand s
    d cause) := by
  unfold State.endDemand
  repeat' (with_reducible first
    | assumption | (intro _) | (apply State.undemand_kept) | (apply State.demand_kept) | (apply Kept.ite) | (apply Kept.foldl)
    | (apply Kept.foldl_fst) | split | (dsimp only))

theorem State.clockGrain_kept (s : State) (d : Nat) {q : List Instr} (hk : Kept q s) : Kept q (State.clockGrain s d) := by
  unfold State.clockGrain
  repeat' (with_reducible first
    | assumption | (intro _) | (apply State.setClock_kept) | (apply State.bump_kept) | (apply Kept.ite) | split | (dsimp only))

theorem State.runTiles_kept (s : State) (d : Nat) (c : Nat) {q : List Instr} (hk : Kept q s) : Kept q (State.runTiles s d c)
    := by
  unfold State.runTiles
  repeat' (with_reducible first
    | assumption | (intro _) | (apply State.stream_kept) | (apply State.mmaSync_kept) | (apply Kept.ite) | (apply Kept.foldl)
    | (apply Kept.foldl_fst) | split | (dsimp only))

theorem State.clearCycle_kept (s : State) (d : Nat) (run : Bool) (w : Nat) {q : List Instr} (hk : Kept q s) : Kept q
    (State.clearCycle s d run w) := by
  unfold State.clearCycle
  repeat' (with_reducible first
    | assumption | (intro _) | (apply State.runTiles_kept) | (apply State.clearSlot_kept) | (apply State.modDie_kept)
    | (apply Kept.ite) | split | (refine Kept.of_fst (by assumption) ?_) | (refine Kept.of_snd (by assumption) ?_)
    | (dsimp only) | (apply Kept.update))

theorem State.cyclesGrain_kept (s : State) (d : Nat) {q : List Instr} (hk : Kept q s) : Kept q (State.cyclesGrain s d) := by
  unfold State.cyclesGrain
  repeat' (with_reducible first
    | assumption | (intro _) | (apply State.modDie_kept) | (apply State.clearCycle_kept) | (apply State.stepTo_kept)
    | (apply State.runTiles_kept) | (apply Kept.ite) | (apply Kept.foldl) | (apply Kept.foldl_fst) | split | (dsimp only)
    | (apply Kept.update))

theorem State.tick_kept (s : State) {q : List Instr} (hk : Kept q s) : Kept q (State.tick s) := by
  unfold State.tick
  repeat' (with_reducible first
    | assumption | (intro _) | (apply State.cyclesGrain_kept) | (apply State.clockGrain_kept)
    | (apply State.sendAllStores_kept) | (apply Kept.ite) | (apply Kept.foldl) | (apply Kept.foldl_fst) | split | (dsimp only)
    | (apply Kept.update))

theorem State.setTb_kept (s : State) (f : TbX → TbX) {q : List Instr} (hk : Kept q s) : Kept q (State.setTb s f) := by
  unfold State.setTb
  repeat' (with_reducible first
    | assumption | (intro _) | (apply Kept.ite) | split | (dsimp only) | (apply Kept.update))

theorem State.sendTb_kept (s : State) (port : Nat) (kind : Nat) (stamp : Nat) {q : List Instr} (hk : Kept q s) : Kept q
    (State.sendTb s port kind stamp) := by
  unfold State.sendTb
  repeat' (with_reducible first
    | assumption | (intro _) | (apply State.modPort_kept) | (apply State.portSend_kept) | (apply Kept.ite) | split
    | (dsimp only) | (apply Kept.update))

theorem State.syncAll_kept (s : State) {q : List Instr} (hk : Kept q s) : Kept q (State.syncAll s) := by
  unfold State.syncAll
  repeat' (with_reducible first
    | assumption | (intro _) | (apply State.sendTb_kept) | (apply Kept.ite) | (apply Kept.foldl) | (apply Kept.foldl_fst)
    | split | (dsimp only))

theorem State.follow_kept (s : State) {q : List Instr} (hk : Kept q s) : Kept q (State.follow s) := by
  unfold State.follow
  repeat' (with_reducible first
    | assumption | (intro _) | (apply State.setFld_kept) | (apply State.setTb_kept) | (apply State.tbEvent_kept)
    | (apply Kept.ite) | split | (refine Kept.of_fst (by assumption) ?_) | (refine Kept.of_snd (by assumption) ?_)
    | (dsimp only) | (apply Kept.update))

theorem State.tbInternal_kept (s : State) {q : List Instr} (hk : Kept q s) : Kept q (State.tbInternal s) := by
  unfold State.tbInternal
  repeat' (with_reducible first
    | assumption | (intro _) | (apply State.log_kept) | (apply Kept.ite) | split | (dsimp only))

theorem State.syncIn_kept (s : State) (p : Nat) (m : TbMsg) (rx : Nat) {q : List Instr} (hk : Kept q s) : Kept q (State.syncIn
    s p m rx) := by
  unfold State.syncIn
  repeat' (with_reducible first
    | assumption | (intro _) | (apply State.setTb_kept) | (apply State.tbInternal_kept) | (apply State.follow_kept)
    | (apply State.sendTb_kept) | (apply Kept.ite) | split | (dsimp only) | (apply Kept.update))

theorem State.tbLock_kept (s : State) {q : List Instr} (hk : Kept q s) : Kept q (State.tbLock s) := by
  unfold State.tbLock
  repeat' (with_reducible first
    | assumption | (intro _) | (apply State.setFld_kept) | (apply State.setTb_kept) | (apply State.tbEvent_kept)
    | (apply Kept.ite) | split | (dsimp only) | (apply Kept.update))

theorem State.averaged_kept (s : State) (avg : Int) {q : List Instr} (hk : Kept q s) : Kept q (State.averaged s avg) := by
  unfold State.averaged
  repeat' (with_reducible first
    | assumption | (intro _) | (apply State.setFld_kept) | (apply State.setTb_kept) | (apply State.tbLock_kept)
    | (apply State.tbInternal_kept) | (apply State.tbEvent_kept) | (apply Kept.ite) | split | (dsimp only)
    | (apply Kept.update))

theorem State.delayIn_kept (s : State) (p : Nat) (m : TbMsg) {q : List Instr} (hk : Kept q s) : Kept q (State.delayIn s p m)
    := by
  unfold State.delayIn
  repeat' (with_reducible first
    | assumption | (intro _) | (apply State.setTb_kept) | (apply State.averaged_kept) | (apply Kept.ite) | (apply Kept.foldl)
    | (apply Kept.foldl_fst) | split | (refine Kept.of_fst (by assumption) ?_) | (refine Kept.of_snd (by assumption) ?_)
    | (dsimp only) | (apply Kept.update))

theorem State.loseUpstream_kept (s : State) {q : List Instr} (hk : Kept q s) : Kept q (State.loseUpstream s) := by
  unfold State.loseUpstream
  repeat' (with_reducible first
    | assumption | (intro _) | (apply State.setTb_kept) | (apply State.follow_kept) | (apply State.setFld_kept)
    | (apply State.tbEvent_kept) | (apply Kept.ite) | split | (refine Kept.of_fst (by assumption) ?_)
    | (refine Kept.of_snd (by assumption) ?_) | (dsimp only) | (apply Kept.update))

theorem State.gmLock_kept (s : State) (pps : Bool) {q : List Instr} (hk : Kept q s) : Kept q (State.gmLock s pps) := by
  unfold State.gmLock
  repeat' (with_reducible first
    | assumption | (intro _) | (apply State.start_kept) | (apply State.setTb_kept) | (apply State.setFld_kept)
    | (apply State.tbLock_kept) | (apply Kept.ite) | split | (dsimp only) | (apply Kept.update))

theorem State.ppsIn_kept (s : State) {q : List Instr} (hk : Kept q s) : Kept q (State.ppsIn s) := by
  unfold State.ppsIn
  repeat' (with_reducible first
    | assumption | (intro _) | (apply State.gmLock_kept) | (apply State.setTb_kept) | (apply State.setFld_kept)
    | (apply Kept.ite) | split | (dsimp only) | (apply Kept.update))

theorem State.readNow_kept (s : State) {q : List Instr} (hk : Kept q s) : Kept q (State.readNow s).1 := by
  unfold State.readNow
  repeat' (with_reducible first
    | assumption | (intro _) | (apply State.setTb_kept) | (apply Kept.ite) | split | (dsimp only) | (apply Kept.update))

end Sys2Proof.Machine
end

