-- ==== Sys2Proof/Laws/KeptUnits.lean ====
section
/-! SUPPORT. Frame lemmas for requests, copy engines, solver engines, power and boot: each function keeps the queue of waiting commands and the canonical form of memory,
registers and tags (`Kept`). -/

namespace Sys2Proof.Machine

/-! ### Requests -/

theorem State.reqRefused_kept (s : State) (d : Nat) (t : Nat) (r : TileReq) {q : List Instr} (hk : Kept q s) : Kept q
    (State.reqRefused s d t r) := by
  unfold State.reqRefused
  repeat' (with_reducible first
    | assumption | (intro _) | (apply State.landPoison_kept) | (apply State.landSlot_kept) | (apply Kept.ite)
    | (apply Kept.foldl) | (apply Kept.foldl_fst) | split | (dsimp only))

theorem State.issueTileReq_kept (s : State) (d : Nat) (t : Nat) (x : ReqDesc) (slot : Nat) {q : List Instr} (hk : Kept q s) :
    Kept q (State.issueTileReq s d t x slot) := by
  unfold State.issueTileReq
  repeat' (with_reducible first
    | assumption | (intro _) | (apply State.pumpTile_kept) | (apply State.modTile_kept) | (apply State.tileFenceDone_kept)
    | (apply State.reqRefused_kept) | (apply State.readSource_kept) | (apply Kept.ite) | split | (dsimp only)
    | (apply Kept.update))

theorem State.tileReq_kept (s : State) (d t : Nat) (w : BitVec 128) (op : Nat) {q : List Instr} (hk : Kept q s) :
    Kept q (State.tileReq s d t w op) := by
  unfold State.tileReq
  split
  · exact hk
  · refine Kept.ite hk ?_
    extract_lets live src s1
    have h1 : Kept q s1 := State.touchRanges_kept _ _ _ _ hk
    clear_value live s1
    generalize live[511]? = l
    split
    · exact State.holdDie_kept _ _ _ hk
    · refine Kept.ite hk ?_
      split
      · exact State.scrAbort_kept _ _ _ _ _ _ (State.issued_kept _ _ _ _ h1)
      · exact State.issueTileReq_kept _ _ _ _ _ (State.issued_kept _ _ _ _ h1)

/-! ### Copy -/

theorem State.submitCopy_kept (s : State) (e : Nat) (who : Agent) (hi : Word) {q : List Instr} (hk : Kept q s) : Kept q
    (State.submitCopy s e who hi) := by
  unfold State.submitCopy
  repeat' (with_reducible first
    | assumption | (intro _) | (apply State.logRefused_kept) | (apply State.writeDenied_kept) | (apply State.cpeEvent_kept)
    | (apply State.log_kept) | (apply State.modCopy_kept) | (apply Kept.ite) | split | (dsimp only) | (apply Kept.update))

theorem State.copyWords_kept (s : State) (e : Nat) (q0 : Submit) {q : List Instr} (hk : Kept q s) : Kept q (State.copyWords s
    e q0).1 := by
  unfold State.copyWords
  repeat' (with_reducible first
    | assumption | (intro _) | (apply State.engineRead_kept) | (apply Kept.ite) | split
    | (refine Kept.of_fst (by assumption) ?_) | (refine Kept.of_snd (by assumption) ?_) | (dsimp only) | (apply Kept.update))

theorem State.copyTake_kept (s : State) (e : Nat) (q0 : Submit) {q : List Instr} (hk : Kept q s) : Kept q (State.copyTake s e
    q0) := by
  unfold State.copyTake
  repeat' (with_reducible first
    | assumption | (intro _) | (apply State.modCopy_kept) | (apply State.setReg64_kept) | (apply Kept.ite) | split
    | (dsimp only) | (apply Kept.update))

theorem State.copyLate_kept (s : State) (e : Nat) (launch : Nat) {q : List Instr} (hk : Kept q s) : Kept q (State.copyLate s e
    launch) := by
  unfold State.copyLate
  repeat' (with_reducible first
    | assumption | (intro _) | (apply State.launch_kept) | (apply State.logLate_kept) | (apply State.drift_kept)
    | (apply State.cpeEvent_kept) | (apply Kept.ite) | split | (dsimp only))

theorem State.copyFenceDone_kept (s : State) (e : Nat) {q : List Instr} (hk : Kept q s) : Kept q (State.copyFenceDone s e) :=
    by
  unfold State.copyFenceDone
  repeat' (with_reducible first
    | assumption | (intro _) | (apply State.setDesc_kept) | (apply State.modCopy_kept) | (apply Kept.ite) | split
    | (refine Kept.of_fst (by assumption) ?_) | (refine Kept.of_snd (by assumption) ?_) | (dsimp only) | (apply Kept.update))

theorem State.copyRun_kept (s : State) (e : Nat) (q0 : Submit) (x : ReqDesc) {q : List Instr} (hk : Kept q s) : Kept q
    (State.copyRun s e q0 x) := by
  unfold State.copyRun
  repeat' (with_reducible first
    | assumption | (intro _) | (apply State.modCopy_kept) | (apply State.runCopy_kept) | (apply State.copyTake_kept)
    | (apply State.copyFenceDone_kept) | (apply State.readSource_kept) | (apply Kept.ite) | split | (dsimp only)
    | (apply Kept.update))

theorem State.copyStart_kept (s : State) (e : Nat) (op : Nat) {q : List Instr} (hk : Kept q s) : Kept q (State.copyStart s e
    op) := by
  unfold State.copyStart
  repeat' (with_reducible first
    | assumption | (intro _) | (apply State.copyWords_kept) | (apply State.copyTake_kept) | (apply State.cpeEvent_kept)
    | (apply State.log_kept) | (apply State.launch_kept) | (apply State.copyLate_kept) | (apply State.modCopy_kept)
    | (apply State.copyRun_kept) | (apply Kept.ite) | split | (refine Kept.of_fst (by assumption) ?_)
    | (refine Kept.of_snd (by assumption) ?_) | (dsimp only) | (apply Kept.update))

theorem State.copyDone_kept (s : State) (e : Nat) {q : List Instr} (hk : Kept q s) : Kept q (State.copyDone s e) := by
  unfold State.copyDone
  repeat' (with_reducible first
    | assumption | (intro _) | (apply State.modCopy_kept) | (apply State.bump_kept) | (apply State.cpeEvent_kept)
    | (apply State.finish_kept) | (apply State.engineWrite_kept) | (apply Kept.ite) | split
    | (refine Kept.of_fst (by assumption) ?_) | (refine Kept.of_snd (by assumption) ?_) | (dsimp only) | (apply Kept.update))

theorem State.fenceDone_kept (s : State) (a : Agent) {q : List Instr} (hk : Kept q s) : Kept q (State.fenceDone s a) := by
  unfold State.fenceDone
  split
  · exact State.tileFenceDone_kept _ _ _ hk
  · exact State.copyFenceDone_kept _ _ hk
  · exact hk

/-! ### Expand -/

theorem State.beginCmd_kept (s : State) (h : CmdHdr) (opcode : Nat) (mute : Bool) {q : List Instr} (hk : Kept q s) : Kept q
    (State.beginCmd s h opcode mute) := by
  unfold State.beginCmd
  repeat' (with_reducible first
    | assumption | (intro _) | (apply State.launch_kept) | (apply State.logLate_kept) | (apply State.drift_kept)
    | (apply State.openCmd_kept) | (apply Kept.ite) | split | (dsimp only))

theorem State.diePart_kept (h : CmdHdr) (opcode : Nat) (f : State → Nat → State × Option (Nat × List Word64)) (s : State) (d :
    Nat) {q : List Instr} (hf : ∀ a0 a1, Kept q a0 → Kept q (f a0 a1).1) (hk : Kept q s) : Kept q (State.diePart h opcode f s d)
    := by
  unfold State.diePart
  repeat' (with_reducible first
    | assumption | (intro _) | (apply State.partDone_kept) | (apply State.logRefused_kept) | (apply hf) | (apply Kept.ite)
    | split | (refine Kept.of_fst (by assumption) ?_) | (refine Kept.of_snd (by assumption) ?_) | (dsimp only)
    | (apply Kept.update))

theorem State.onDies_kept (s : State) (h : CmdHdr) (opcode : Nat) (f : State → Nat → State × Option (Nat × List Word64)) {q :
    List Instr} (hf : ∀ a0 a1, Kept q a0 → Kept q (f a0 a1).1) (hk : Kept q s) : Kept q (State.onDies s h opcode f) := by
  unfold State.onDies
  repeat' (with_reducible first
    | assumption | (intro _) | (apply State.finish_kept) | (apply State.setCmd_kept) | (apply State.diePart_kept) | (apply hf)
    | (apply Kept.ite) | (apply Kept.foldl) | (apply Kept.foldl_fst) | split | (dsimp only) | (apply Kept.update))

theorem State.sendMembers_kept (s : State) (h : CmdHdr) (opcode : Nat) (ps : List Word64) (run : State → CmdHdr → List Word64
    → State) (units : List Nat) {q : List Instr} (hrun : ∀ a0 a1 a2, Kept q a0 → Kept q (run a0 a1 a2)) (hk : Kept q s) : Kept q
    (State.sendMembers s h opcode ps run units) := by
  unfold State.sendMembers
  repeat' (with_reducible first
    | assumption | (intro _) | (apply State.launch_kept) | (apply State.beginCmd_kept) | (apply State.memberDone_kept)
    | (apply State.sendMgmt_kept) | (apply hrun) | (apply Kept.ite) | (apply Kept.foldl) | (apply Kept.foldl_fst) | split
    | (dsimp only) | (apply Kept.update))

theorem State.forwardCmd_kept (s : State) (h : CmdHdr) (opcode : Nat) (mute : Bool) (ps : List Word64) (run : State → CmdHdr →
    List Word64 → State) {q : List Instr} (hrun : ∀ a0 a1 a2, Kept q a0 → Kept q (run a0 a1 a2)) (hk : Kept q s) : Kept q
    (State.forwardCmd s h opcode mute ps run) := by
  unfold State.forwardCmd
  repeat' (with_reducible first
    | assumption | (intro _) | (apply State.openCmd_kept) | (apply State.sendMembers_kept) | (apply hrun) | (apply Kept.ite)
    | split | (dsimp only))

theorem State.spreadCmd_kept (s : State) (h : CmdHdr) (opcode : Nat) (ps : List Word64) (run : State → CmdHdr → List Word64 →
    State) (places : List Nat) {q : List Instr} (hrun : ∀ a0 a1 a2, Kept q a0 → Kept q (run a0 a1 a2)) (hk : Kept q s) : Kept q
    (State.spreadCmd s h opcode ps run places) := by
  unfold State.spreadCmd
  repeat' (with_reducible first
    | assumption | (intro _) | (apply State.setCmd_kept) | (apply State.sendMembers_kept) | (apply State.launch_kept)
    | (apply hrun) | (apply Kept.ite) | split | (dsimp only) | (apply Kept.update))

theorem State.start_kept (s : State) (h : CmdHdr) (opcode : Nat) (mute : Bool) (ps : List Word64) (run : State → CmdHdr → List
    Word64 → State) {q : List Instr} (hrun : ∀ a0 a1 a2, Kept q a0 → Kept q (run a0 a1 a2)) (hk : Kept q s) : Kept q (State.start
    s h opcode mute ps run) := by
  unfold State.start
  repeat' (with_reducible first
    | assumption | (intro _) | (apply State.forwardCmd_kept) | (apply State.beginCmd_kept) | (apply hrun) | (apply Kept.ite)
    | split | (dsimp only))

theorem State.command_kept (s : State) (h : CmdHdr) (opcode : Nat) (ps : List Word64) (run : State → CmdHdr → List Word64 →
    State) {q : List Instr} (hrun : ∀ a0 a1 a2, Kept q a0 → Kept q (run a0 a1 a2)) (hk : Kept q s) : Kept q (State.command s h
    opcode ps run) := by
  unfold State.command
  repeat' (with_reducible first
    | assumption | (intro _) | (apply State.start_kept) | (apply hrun) | (apply Kept.ite) | split | (dsimp only))

/-! ### Solver -/

theorem State.submitSolver_kept (s : State) (e : Nat) (who : Agent) (hi : Word) {q : List Instr} (hk : Kept q s) : Kept q
    (State.submitSolver s e who hi) := by
  unfold State.submitSolver
  repeat' (with_reducible first
    | assumption | (intro _) | (apply State.logRefused_kept) | (apply State.writeDenied_kept) | (apply State.slvEvent_kept)
    | (apply State.log_kept) | (apply State.modSolver_kept) | (apply Kept.ite) | split | (dsimp only) | (apply Kept.update))

theorem State.slvAsk_kept (s : State) (e : Nat) (r : Req) (ps : List (Nat × Nat × Nat)) {q : List Instr} (hk : Kept q s) :
    Kept q (State.slvAsk s e r ps) := by
  unfold State.slvAsk
  repeat' (with_reducible first
    | assumption | (intro _) | (apply State.modSolver_kept) | (apply State.runSolver_kept) | (apply Kept.ite) | split
    | (dsimp only) | (apply Kept.update))

theorem State.slvHome_kept (s : State) (e : Nat) (q0 : Submit) (a : Nat) (n : Nat) {q : List Instr} (hk : Kept q s) : Kept q
    (State.slvHome s e q0 a n).1 := by
  unfold State.slvHome
  repeat' (with_reducible first
    | assumption | (intro _) | (apply State.draw_kept) | (apply State.slvAsk_kept) | (apply State.engineRead_kept)
    | (apply Kept.ite) | split | (dsimp only) | (apply Kept.update))

theorem State.slvPiece_kept (s : State) (e : Nat) (q0 : Submit) (p : Nat × Nat) {q : List Instr} (hk : Kept q s) : Kept q
    (State.slvPiece s e q0 p).1 := by
  unfold State.slvPiece
  repeat' (with_reducible first
    | assumption | (intro _) | (apply State.slvHome_kept) | (apply State.setProc_kept) | (apply Kept.ite) | split
    | (refine Kept.of_fst (by assumption) ?_) | (refine Kept.of_snd (by assumption) ?_) | (dsimp only) | (apply Kept.update))

theorem State.slvRead_kept (s : State) (e : Nat) (q0 : Submit) (a : Nat) (n : Nat) {q : List Instr} (hk : Kept q s) : Kept q
    (State.slvRead s e q0 a n).1 := by
  unfold State.slvRead
  repeat' (with_reducible first
    | assumption | (intro _) | (apply State.slvPiece_kept) | (apply State.draw_kept) | (apply Kept.ite) | (apply Kept.foldl)
    | (apply Kept.foldl_fst) | split | (dsimp only) | (apply Kept.update))

theorem State.slvWrite_kept (s : State) (e : Nat) (q0 : Submit) (a : Nat) (bs : List Byte) {q : List Instr} (hk : Kept q s) :
    Kept q (State.slvWrite s e q0 a bs).1 := by
  unfold State.slvWrite
  repeat' (with_reducible first
    | assumption | (intro _) | (apply State.slvAsk_kept) | (apply State.engineWrite_kept) | (apply State.updateLine_kept)
    | (apply Kept.ite) | (apply Kept.foldl) | (apply Kept.foldl_fst) | split | (dsimp only) | (apply Kept.update))

theorem State.batchMap_kept (s : State) (e : Nat) (q0 : Submit) (b : Batch) {q : List Instr} (hk : Kept q s) : Kept q
    (State.batchMap s e q0 b).1 := by
  unfold State.batchMap
  repeat' (with_reducible first
    | assumption | (intro _) | (apply State.slvRead_kept) | (apply Kept.ite) | split | (dsimp only))

theorem State.slvRecord_kept (s : State) (e : Nat) (q0 : Submit) (b : Batch) (bytes : List Byte) {q : List Instr} (hk : Kept q
    s) : Kept q (State.slvRecord s e q0 b bytes) := by
  unfold State.slvRecord
  repeat' (with_reducible first
    | assumption | (intro _) | (apply State.slvWrite_kept) | (apply State.bump_kept) | (apply State.slvEvent_kept)
    | (apply State.modCore_kept) | (apply Kept.ite) | split | (dsimp only) | (apply Kept.update))

theorem State.endBatch_kept (s : State) (e : Nat) (q0 : Submit) (b : Batch) (status : Nat) (counts : List Nat) (start : Nat)
    {q : List Instr} (hk : Kept q s) : Kept q (State.endBatch s e q0 b status counts start) := by
  unfold State.endBatch
  repeat' (with_reducible first
    | assumption | (intro _) | (apply State.slvRecord_kept) | (apply State.start_kept) | (apply State.modSolver_kept)
    | (apply State.bump_kept) | (apply State.slvEvent_kept) | (apply State.log_kept) | (apply Kept.ite) | split | (dsimp only)
    | (apply Kept.update))

theorem State.startBatch_kept (s : State) (e : Nat) {q : List Instr} (hk : Kept q s) : Kept q (State.startBatch s e) := by
  unfold State.startBatch
  repeat' (with_reducible first
    | assumption | (intro _) | (apply State.slvRead_kept) | (apply State.modSolver_kept) | (apply State.setReg64_kept)
    | (apply State.slvEvent_kept) | (apply State.log_kept) | (apply State.launch_kept) | (apply State.logLate_kept)
    | (apply State.drift_kept) | (apply State.batchMap_kept) | (apply State.endBatch_kept) | (apply Kept.ite) | split
    | (refine Kept.of_fst (by assumption) ?_) | (refine Kept.of_snd (by assumption) ?_) | (dsimp only) | (apply Kept.update))

theorem State.slvReadIf_kept (s : State) (c : Bool) (e : Nat) (q0 : Submit) (a : Nat) (n : Nat) {q : List Instr} (hk : Kept q
    s) : Kept q (State.slvReadIf s c e q0 a n).1 := by
  unfold State.slvReadIf
  repeat' (with_reducible first
    | assumption | (intro _) | (apply State.slvRead_kept) | (apply Kept.ite) | split | (dsimp only))

theorem State.slvWriteIf_kept (s : State) (c : Bool) (e : Nat) (q0 : Submit) (a : Nat) (bs : List Byte) {q : List Instr} (hk :
    Kept q s) : Kept q (State.slvWriteIf s c e q0 a bs).1 := by
  unfold State.slvWriteIf
  repeat' (with_reducible first
    | assumption | (intro _) | (apply State.slvWrite_kept) | (apply Kept.ite) | split | (dsimp only))

theorem State.slvInputs_kept (s : State) (e : Nat) (q0 : Submit) (b : Batch) (m : Option (List Byte)) (agrees : Bool) (i :
    Nat) {q : List Instr} (hk : Kept q s) : Kept q (State.slvInputs s e q0 b m agrees i).1 := by
  unfold State.slvInputs
  repeat' (with_reducible first
    | assumption | (intro _) | (apply State.slvReadIf_kept) | (apply State.slvRead_kept) | (apply Kept.ite) | split
    | (refine Kept.of_fst (by assumption) ?_) | (refine Kept.of_snd (by assumption) ?_) | (dsimp only) | (apply Kept.update))

theorem State.slvOutputs_kept (s : State) (e : Nat) (q0 : Submit) (b : Batch) (i : Nat) (r : SlvIn) (x : SCtx × List Byte) (st
    : SStat) {q : List Instr} (hk : Kept q s) : Kept q (State.slvOutputs s e q0 b i r x st).1 := by
  unfold State.slvOutputs
  repeat' (with_reducible first
    | assumption | (intro _) | (apply State.slvWriteIf_kept) | (apply State.slvWrite_kept) | (apply State.bump_kept)
    | (apply State.modSolver_kept) | (apply Kept.ite) | split | (refine Kept.of_fst (by assumption) ?_)
    | (refine Kept.of_snd (by assumption) ?_) | (dsimp only) | (apply Kept.update))

theorem State.slvMatrix_kept (s : State) (e : Nat) (q0 : Submit) (b : Batch) (m : Option (List Byte)) (agrees : Bool) (i :
    Nat) {q : List Instr} (hk : Kept q s) : Kept q (State.slvMatrix s e q0 b m agrees i).1 := by
  unfold State.slvMatrix
  repeat' (with_reducible first
    | assumption | (intro _) | (apply State.slvInputs_kept) | (apply State.slvOutputs_kept) | (apply Kept.ite) | split
    | (refine Kept.of_fst (by assumption) ?_) | (refine Kept.of_snd (by assumption) ?_) | (dsimp only) | (apply Kept.update))

theorem State.slvStat_kept (s : State) (e : Nat) (st : Nat × Nat) (denied : Bool) {q : List Instr} (hk : Kept q s) : Kept q
    (State.slvStat s e st denied).1 := by
  unfold State.slvStat
  repeat' (with_reducible first
    | assumption | (intro _) | (apply State.modSolver_kept) | (apply Kept.ite) | split | (dsimp only) | (apply Kept.update))

theorem State.slvSkip_kept (s : State) (e : Nat) (q0 : Submit) (b : Batch) (i : Nat) (code : Nat) (denied : Bool) {q : List
    Instr} (hk : Kept q s) : Kept q (State.slvSkip s e q0 b i code denied).1 := by
  unfold State.slvSkip
  repeat' (with_reducible first
    | assumption | (intro _) | (apply State.slvWrite_kept) | (apply State.slvStat_kept) | (apply Kept.ite) | split
    | (dsimp only))

theorem State.slvMatrices_kept (e : Nat) (u : Submit) (b : Batch) (m : Option (List Byte)) (agrees : Bool) (x : State × Bool)
    (i : Nat) {q : List Instr} (hk : Kept q x.1) : Kept q (State.slvMatrices e u b m agrees x i).1 := by
  obtain ⟨s, w⟩ := x
  unfold State.slvMatrices
  refine Kept.ite_fst (State.slvSkip_kept _ _ _ _ _ _ _ hk) (Kept.ite_fst (State.slvSkip_kept _ _ _ _ _ _ _ hk) ?_)
  split
  · next h => exact State.slvStat_kept _ _ _ _ (Kept.of_fst h (State.slvMatrix_kept _ _ _ _ _ _ _ hk))
  · next h => exact State.slvSkip_kept _ _ _ _ _ _ _ (Kept.of_fst h (State.slvMatrix_kept _ _ _ _ _ _ _ hk))

theorem State.restat_kept (s : State) (e : Nat) (q0 : Submit) (b : Batch) (f : Nat × Nat → Nat × Nat) {q : List Instr} (hk :
    Kept q s) : Kept q (State.restat s e q0 b f) := by
  unfold State.restat
  repeat' (with_reducible first
    | assumption | (intro _) | (apply State.modSolver_kept) | (apply State.slvWrite_kept) | (apply Kept.ite)
    | (apply Kept.foldl) | (apply Kept.foldl_fst) | split | (dsimp only) | (apply Kept.update))

theorem State.lendCore_kept (s : State) (c : Nat) {q : List Instr} (hk : Kept q s) : Kept q (State.lendCore s c) := by
  unfold State.lendCore
  repeat' (with_reducible first
    | assumption | (intro _) | (apply State.modCore_kept) | (apply State.setPl_kept) | (apply State.setCoreState_kept)
    | (apply Kept.ite) | split | (dsimp only) | (apply Kept.update))

theorem State.returnCore_kept (s : State) (c : Nat) {q : List Instr} (hk : Kept q s) : Kept q (State.returnCore s c) := by
  unfold State.returnCore
  repeat' (with_reducible first
    | assumption | (intro _) | (apply State.modCore_kept) | (apply State.setPl_kept) | (apply State.setCoreState_kept)
    | (apply Kept.ite) | split | (refine Kept.of_fst (by assumption) ?_) | (refine Kept.of_snd (by assumption) ?_)
    | (dsimp only) | (apply Kept.update))

theorem State.slvRedo_kept (s : State) (e : Nat) (q0 : Submit) (b : Batch) (denied : Bool) {q : List Instr} (hk : Kept q s) :
    Kept q (State.slvRedo s e q0 b denied) := by
  unfold State.slvRedo
  repeat' (with_reducible first
    | assumption | (intro _) | (apply State.restat_kept) | (apply State.log_kept) | (apply State.modSolver_kept)
    | (apply State.lendCore_kept) | (apply Kept.ite) | split | (dsimp only) | (apply Kept.update))

theorem State.slvAll_kept (s : State) (e : Nat) (u : Submit) (b : Batch) (m : Option (List Byte)) (known : Bool)
    {q : List Instr} (hk : Kept q s) : Kept q (State.slvAll s e u b m known).1 := by
  unfold State.slvAll
  split
  next h1 =>
  split
  next h2 =>
  have k1 := Kept.of_fst h1 (State.slvReadIf_kept _ _ _ _ _ _ hk)
  have k2 := Kept.of_fst h2 (Kept.foldl_fst (fun z i hz => State.slvMatrices_kept _ _ _ _ _ z i hz) k1)
  split
  next h3 => exact State.modSolver_kept _ _ _ (Kept.of_fst h3 (State.slvWriteIf_kept _ _ _ _ _ _ k2))

theorem State.engineDone_kept (s : State) (e : Nat) {q : List Instr} (hk : Kept q s) : Kept q (State.engineDone s e) := by
  unfold State.engineDone
  split
  · exact hk
  · refine Kept.ite hk ?_
    split
    next h1 =>
    split
    next h2 =>
    have k1 := Kept.of_fst h1 (State.batchMap_kept _ _ _ _ hk)
    have k2 := Kept.of_fst h2 (State.slvAll_kept _ _ _ _ _ _ k1)
    exact State.slvRedo_kept _ _ _ _ _ (State.modSolver_kept _ _ _ k2)

theorem State.redoMatrix_kept (s : State) (e : Nat) (q0 : Submit) (b : Batch) (m : Option (List Byte)) (i : Nat) {q : List
    Instr} (hk : Kept q s) : Kept q (State.redoMatrix s e q0 b m i).1 := by
  unfold State.redoMatrix
  repeat' (with_reducible first
    | assumption | (intro _) | (apply State.slvRead_kept) | (apply Kept.ite) | split | (dsimp only))

theorem State.redoOne_kept (e : Nat) (q0 : Submit) (b : Batch) (m : Option (List Byte)) (s : State) (i : Nat) {q : List Instr}
    (hk : Kept q s) : Kept q (State.redoOne e q0 b m s i) := by
  unfold State.redoOne
  repeat' (with_reducible first
    | assumption | (intro _) | (apply State.redoMatrix_kept) | (apply State.slvWrite_kept) | (apply State.modSolver_kept)
    | (apply Kept.ite) | split | (refine Kept.of_fst (by assumption) ?_) | (refine Kept.of_snd (by assumption) ?_)
    | (dsimp only) | (apply Kept.update))

theorem State.redoDone_kept (s : State) (e : Nat) {q : List Instr} (hk : Kept q s) : Kept q (State.redoDone s e) := by
  unfold State.redoDone
  repeat' (with_reducible first
    | assumption | (intro _) | (apply State.batchMap_kept) | (apply State.redoOne_kept) | (apply State.modSolver_kept)
    | (apply State.returnCore_kept) | (apply Kept.ite) | (apply Kept.foldl) | (apply Kept.foldl_fst) | split
    | (refine Kept.of_fst (by assumption) ?_) | (refine Kept.of_snd (by assumption) ?_) | (dsimp only) | (apply Kept.update))

theorem State.batchDeadline_kept (s : State) (e : Nat) (started : Nat) {q : List Instr} (hk : Kept q s) : Kept q
    (State.batchDeadline s e started) := by
  unfold State.batchDeadline
  repeat' (with_reducible first
    | assumption | (intro _) | (apply State.modSolver_kept) | (apply Kept.ite) | split
    | (refine Kept.of_fst (by assumption) ?_) | (refine Kept.of_snd (by assumption) ?_) | (dsimp only) | (apply Kept.update))

theorem State.completeBatch_kept (s : State) (e : Nat) {q : List Instr} (hk : Kept q s) : Kept q (State.completeBatch s e) :=
    by
  unfold State.completeBatch
  repeat' (with_reducible first
    | assumption | (intro _) | (apply State.start_kept) | (apply State.endBatch_kept) | (apply Kept.ite) | (apply Kept.foldl)
    | (apply Kept.foldl_fst) | split | (refine Kept.of_fst (by assumption) ?_) | (refine Kept.of_snd (by assumption) ?_)
    | (dsimp only) | (apply Kept.update))

/-! ### Power -/

theorem State.denyAll_kept (s : State) (rs : List Req) {q : List Instr} (hk : Kept q s) : Kept q (State.denyAll s rs) := by
  unfold State.denyAll
  repeat' (with_reducible first
    | assumption | (intro _) | (apply State.landReq_kept) | (apply State.goesOn_kept) | (apply Kept.ite) | (apply Kept.foldl)
    | (apply Kept.foldl_fst) | split | (dsimp only))

theorem State.denyParts_kept (s : State) (d : Nat) {q : List Instr} (hk : Kept q s) : Kept q (State.denyParts s d) := by
  unfold State.denyParts
  repeat' (with_reducible first
    | assumption | (intro _) | (apply State.partDone_kept) | (apply Kept.ite) | (apply Kept.foldl) | (apply Kept.foldl_fst)
    | split | (refine Kept.of_fst (by assumption) ?_) | (refine Kept.of_snd (by assumption) ?_) | (dsimp only)
    | (apply Kept.update))

theorem State.denyCopies_kept (s : State) (e : Nat) {q : List Instr} (hk : Kept q s) : Kept q (State.denyCopies s e) := by
  unfold State.denyCopies
  repeat' (with_reducible first
    | assumption | (intro _) | (apply State.finish_kept) | (apply Kept.ite) | (apply Kept.foldl) | (apply Kept.foldl_fst)
    | split | (refine Kept.of_fst (by assumption) ?_) | (refine Kept.of_snd (by assumption) ?_) | (dsimp only)
    | (apply Kept.update))

theorem State.clearC_kept (s : State) (d : Nat) {q : List Instr} (hk : Kept q s) : Kept q (State.clearC s d) := by
  unfold State.clearC
  repeat' (with_reducible first
    | assumption | (intro _) | (apply State.denyParts_kept) | (apply State.denyCopies_kept) | (apply State.resetRegs_kept)
    | (apply State.setDie_kept) | (apply State.setStack_kept) | (apply State.landReq_kept) | (apply State.goesOn_kept)
    | (apply State.denyAll_kept) | (apply State.applyClock_kept) | (apply Kept.ite) | (apply Kept.foldl)
    | (apply Kept.foldl_fst) | split | (dsimp only) | (apply Kept.update))

theorem State.clearS_kept (s : State) (d : Nat) {q : List Instr} (hk : Kept q s) : Kept q (State.clearS s d) := by
  unfold State.clearS
  repeat' (with_reducible first
    | assumption | (intro _) | (apply State.modDie_kept) | (apply Kept.ite) | split | (dsimp only) | (apply Kept.update)
    | (apply writeBytes_wf) | (apply clearBytes_wf) | (apply writePicked_wf) | (apply canonMap_mapSet)
    | (apply canonMap_mapKeep) | (exact canonMap_nil))

theorem State.clearM_kept (s : State) (k : Nat) {q : List Instr} (hk : Kept q s) : Kept q (State.clearM s k) := by
  unfold State.clearM
  repeat' (with_reducible first
    | assumption | (intro _) | (apply State.modStack_kept) | (apply Kept.ite) | split | (dsimp only) | (apply Kept.update)
    | (apply writeBytes_wf) | (apply clearBytes_wf) | (apply writePicked_wf) | (apply canonMap_mapSet)
    | (apply canonMap_mapKeep) | (exact canonMap_nil))

theorem State.clearCluster_kept (s : State) (c0 : Nat) {q : List Instr} (hk : Kept q s) : Kept q (State.clearCluster s c0) :=
    by
  unfold State.clearCluster
  repeat' (with_reducible first
    | assumption | (intro _) | (apply State.resetRegs_kept) | (apply Kept.ite) | split | (dsimp only) | (apply Kept.update))

theorem State.clearK00_kept (s : State) (p : Nat) {q : List Instr} (hk : Kept q s) : Kept q (State.clearK00 s p) := by
  unfold State.clearK00
  repeat' (with_reducible first
    | assumption | (intro _) | (apply State.denyCopies_kept) | (apply State.resetRegs_kept) | (apply State.setProc_kept)
    | (apply State.applyClock_kept) | (apply Kept.ite) | (apply Kept.foldl) | (apply Kept.foldl_fst) | split | (dsimp only)
    | (apply Kept.update))

theorem State.clearG_kept (s : State) (g : Nat) {q : List Instr} (hk : Kept q s) : Kept q (State.clearG s g) := by
  unfold State.clearG
  repeat' (with_reducible first
    | assumption | (intro _) | (apply State.resetRegs_kept) | (apply Kept.ite) | split | (dsimp only) | (apply Kept.update))

theorem State.clearCXL_kept (s : State) (off : Bool) {q : List Instr} (hk : Kept q s) : Kept q (State.clearCXL s off) := by
  unfold State.clearCXL
  repeat' (with_reducible first
    | assumption | (intro _) | (apply State.setFld_kept) | (apply Kept.ite) | (apply Kept.foldl) | (apply Kept.foldl_fst)
    | split | (dsimp only))

theorem State.quiesce_kept (s : State) (n : Nat) {q : List Instr} (hk : Kept q s) : Kept q (State.quiesce s n) := by
  unfold State.quiesce
  repeat' (with_reducible first
    | assumption | (intro _) | (apply State.leaveUp_kept) | (apply State.setPortState_kept) | (apply State.clearCXL_kept)
    | (apply Kept.ite) | (apply Kept.foldl) | (apply Kept.foldl_fst) | split | (dsimp only))

theorem State.startChange_kept (s : State) (n : Nat) (st : Nat) (cmd : Option CmdHdr) {q : List Instr} (hk : Kept q s) : Kept
    q (State.startChange s n st cmd) := by
  unfold State.startChange
  repeat' (with_reducible first
    | assumption | (intro _) | (apply State.beginChange_kept) | (apply State.quiesce_kept) | (apply State.setFld_kept)
    | (apply Kept.ite) | split | (dsimp only))

theorem State.enterDomain_kept (s : State) (n : Nat) (old : Nat) (st : Nat) {q : List Instr} (hk : Kept q s) : Kept q
    (State.enterDomain s n old st) := by
  unfold State.enterDomain
  repeat' (with_reducible first
    | assumption | (intro _) | (apply State.clearC_kept) | (apply State.modTile_kept) | (apply State.draw_kept)
    | (apply State.clearS_kept) | (apply State.clearM_kept) | (apply State.clearCluster_kept) | (apply State.clearK00_kept)
    | (apply State.setProc_kept) | (apply State.clearG_kept) | (apply State.portToDown_kept) | (apply State.clearCXL_kept)
    | (apply Kept.ite) | (apply Kept.foldl) | (apply Kept.foldl_fst) | split | (dsimp only) | (apply Kept.update))

theorem State.setDomain_kept (s : State) (n : Nat) (st : Nat) {q : List Instr} (hk : Kept q s) : Kept q (State.setDomain s n
    st) := by
  unfold State.setDomain
  repeat' (with_reducible first
    | assumption | (intro _) | (apply State.setFld_kept) | (apply Kept.ite) | split | (dsimp only))

theorem State.hostAwake_kept (s : State) {q : List Instr} (hk : Kept q s) : Kept q (State.hostAwake s) := by
  unfold State.hostAwake
  repeat' (with_reducible first
    | assumption | (intro _) | (apply State.issueReqs_kept) | (apply Kept.ite) | split | (dsimp only) | (apply Kept.update))

theorem State.changeDone_kept (s : State) (n : Nat) {q : List Instr} (hk : Kept q s) : Kept q (State.changeDone s n) := by
  unfold State.changeDone
  repeat' (with_reducible first
    | assumption | (intro _) | (apply State.setChanging_kept) | (apply State.enterDomain_kept) | (apply State.setDomain_kept)
    | (apply State.pwrInfo_kept) | (apply State.hostAwake_kept) | (apply State.pwrEvent_kept) | (apply State.finish_kept)
    | (apply State.startChange_kept) | (apply Kept.ite) | split | (refine Kept.of_fst (by assumption) ?_)
    | (refine Kept.of_snd (by assumption) ?_) | (dsimp only) | (apply Kept.update))

theorem bodyDomainState_kept (s : State) (h : CmdHdr) (ps : List Word64) {q : List Instr} (hk : Kept q s) : Kept q
    (bodyDomainState s h ps) := by
  unfold bodyDomainState
  repeat' (with_reducible first
    | assumption | (intro _) | (apply State.finish_kept) | (apply State.pwrEvent_kept) | (apply State.startChange_kept)
    | (apply Kept.ite) | split | (dsimp only))

theorem State.wake_kept (s : State) (w : WakeSource) {q : List Instr} (hk : Kept q s) : Kept q (State.wake s w) := by
  cases w <;> unfold State.wake <;>
  repeat' (with_reducible first
    | assumption | (apply State.wakeHost_kept) | (apply State.noteWake_kept) | (apply State.wakeDomain_kept) | (apply Kept.ite) | (dsimp only))

theorem State.setCap_kept (s : State) (cap : Nat) {q : List Instr} (hk : Kept q s) : Kept q (State.setCap s cap) := by
  unfold State.setCap
  repeat' (with_reducible first
    | assumption | (intro _) | (apply State.setFld_kept) | (apply Kept.ite) | split | (dsimp only))

theorem bodyCapSet_kept (s : State) (h : CmdHdr) (ps : List Word64) {q : List Instr} (hk : Kept q s) : Kept q (bodyCapSet s h
    ps) := by
  unfold bodyCapSet
  repeat' (with_reducible first
    | assumption | (intro _) | (apply State.finish_kept) | (apply State.setCap_kept) | (apply Kept.ite) | split | (dsimp only))

theorem State.govern_kept (s : State) (watts : Nat) {q : List Instr} (hk : Kept q s) : Kept q (State.govern s watts) := by
  unfold State.govern
  repeat' (with_reducible first
    | assumption | (intro _) | (apply State.setFld_kept) | (apply State.applyClock_kept) | (apply Kept.ite)
    | (apply Kept.foldl) | (apply Kept.foldl_fst) | split | (dsimp only) | (apply Kept.update))

theorem bodyPowerRead_kept (s : State) (h : CmdHdr) (u2 : List Word64) {q : List Instr} (hk : Kept q s) : Kept q
    (bodyPowerRead s h u2) := by
  unfold bodyPowerRead
  repeat' (with_reducible first
    | assumption | (intro _) | (apply State.finish_kept) | (apply Kept.ite) | split | (dsimp only))

theorem State.dropDomains_kept (s : State) (keepM : Bool) {q : List Instr} (hk : Kept q s) : Kept q (State.dropDomains s
    keepM) := by
  unfold State.dropDomains
  repeat' (with_reducible first
    | assumption | (intro _) | (apply State.resetRegs_kept) | (apply State.setDomain_kept) | (apply Kept.ite)
    | (apply Kept.foldl) | (apply Kept.foldl_fst) | split | (dsimp only) | (apply Kept.update) | (apply writeBytes_wf)
    | (apply clearBytes_wf) | (apply writePicked_wf) | (apply canonMap_mapSet) | (apply canonMap_mapKeep)
    | (exact canonMap_nil))

theorem State.writeSave_kept (s : State) (cause : Nat) {q : List Instr} (hk : Kept q s) : Kept q (State.writeSave s cause) :=
    by
  unfold State.writeSave
  repeat' (with_reducible first
    | assumption | (intro _) | (apply Kept.ite) | split | (refine Kept.of_fst (by assumption) ?_)
    | (refine Kept.of_snd (by assumption) ?_) | (dsimp only) | (apply Kept.update))

theorem State.startSlump_kept (s : State) (cause : Nat) {q : List Instr} (hk : Kept q s) : Kept q (State.startSlump s cause)
    := by
  unfold State.startSlump
  repeat' (with_reducible first
    | assumption | (intro _) | (apply State.log_kept) | (apply State.writeSave_kept) | (apply State.dropDomains_kept)
    | (apply Kept.ite) | split | (dsimp only) | (apply Kept.update))

theorem State.saveDone_kept (s : State) {q : List Instr} (hk : Kept q s) : Kept q (State.saveDone s) := by
  unfold State.saveDone
  repeat' (with_reducible first
    | assumption | (intro _) | (apply State.pwrEvent_kept) | (apply Kept.ite) | split
    | (refine Kept.of_fst (by assumption) ?_) | (refine Kept.of_snd (by assumption) ?_) | (dsimp only) | (apply Kept.update))

/-! ### Boot -/

theorem State.enrol_kept (s : State) {q : List Instr} (hk : Kept q s) : Kept q (State.enrol s) := by
  unfold State.enrol
  repeat' (with_reducible first
    | assumption | (intro _) | (apply State.draw_kept) | (apply State.setFld_kept) | (apply Kept.ite) | split | (dsimp only)
    | (apply Kept.update))

theorem State.pufBoot_kept (s : State) (puf : PufOutcome) {q : List Instr} (hk : Kept q s) : Kept q (State.pufBoot s puf) :=
    by
  unfold State.pufBoot
  repeat' (with_reducible first
    | assumption | (intro _) | (apply State.setFld_kept) | (apply State.enrol_kept) | (apply State.log_kept)
    | (apply Kept.ite) | split | (refine Kept.of_fst (by assumption) ?_) | (refine Kept.of_snd (by assumption) ?_)
    | (dsimp only) | (apply Kept.update))

theorem State.coldState_kept (s : State) (straps : Straps) {q : List Instr} (hk : Kept q s) :
    Kept q (State.coldState s straps) := by
  obtain ⟨h1, h2⟩ := hk
  simp only [State.canon, Bool.and_eq_true] at h2
  refine ⟨h1, ?_⟩
  simp only [State.canon, State.coldState, Bool.and_eq_true]
  exact ⟨⟨clearBytes_wf h2.1.1, by decide⟩, by decide⟩

theorem State.coldReset_kept (s : State) (straps : Straps) (puf : PufOutcome) {q : List Instr} (hk : Kept q s) : Kept q
    (State.coldReset s straps puf) := by
  unfold State.coldReset
  repeat' (with_reducible first
    | assumption | (intro _) | (apply State.coldState_kept) | (apply State.setFld_kept) | (apply State.pufBoot_kept)
    | (apply State.setDomain_kept) | (apply State.modChan_kept) | (apply Kept.ite) | split | (dsimp only)
    | (apply Kept.update))

theorem State.fwGo_kept (s : State) {q : List Instr} (hk : Kept q s) : Kept q (State.fwGo s) := by
  unfold State.fwGo
  repeat' (with_reducible first
    | assumption | (intro _) | (apply State.setFld_kept) | (apply Kept.ite) | split | (dsimp only))

theorem State.takeSave_kept (s : State) {q : List Instr} (hk : Kept q s) : Kept q (State.takeSave s) := by
  unfold State.takeSave
  repeat' (with_reducible first
    | assumption | (intro _) | (apply State.setReg_kept) | (apply State.setReg64_kept) | (apply State.pwrEvent_kept)
    | (apply Kept.ite) | split | (refine Kept.of_fst (by assumption) ?_) | (refine Kept.of_snd (by assumption) ?_)
    | (dsimp only) | (apply Kept.update))

theorem State.bootRaise_kept (s : State) (n : Nat) {q : List Instr} (hk : Kept q s) : Kept q (State.bootRaise s n) := by
  unfold State.bootRaise
  repeat' (with_reducible first
    | assumption | (intro _) | (apply State.setDomain_kept) | (apply State.enterDomain_kept) | (apply Kept.ite) | split
    | (dsimp only))

theorem State.enumerateFar_kept (s : State) {q : List Instr} (hk : Kept q s) : Kept q (State.enumerateFar s) := by
  unfold State.enumerateFar
  repeat' (with_reducible first
    | assumption | (intro _) | (apply State.setFld_kept) | (apply State.setReg_kept) | (apply Kept.ite) | (apply Kept.foldl)
    | (apply Kept.foldl_fst) | split | (dsimp only))

theorem State.startFirmware_kept (s : State) {q : List Instr} (hk : Kept q s) : Kept q (State.startFirmware s) := by
  unfold State.startFirmware
  repeat' (with_reducible first
    | assumption | (intro _) | (apply State.setFld_kept) | (apply State.log_kept) | (apply State.takeSave_kept)
    | (apply State.bootRaise_kept) | (apply State.enumerateFar_kept) | (apply State.modChan_kept) | (apply Kept.ite)
    | (apply Kept.foldl) | (apply Kept.foldl_fst) | split | (dsimp only) | (apply Kept.update))

theorem State.verifyDone_kept (s : State) {q : List Instr} (hk : Kept q s) : Kept q (State.verifyDone s) := by
  unfold State.verifyDone
  repeat' (with_reducible first
    | assumption | (intro _) | (apply State.setFld_kept) | (apply State.startFirmware_kept) | (apply Kept.ite) | split
    | (dsimp only) | (apply Kept.update))

theorem State.closeChans_kept (s : State) (ns : List Nat) {q : List Instr} (hk : Kept q s) : Kept q (State.closeChans s ns) :=
    by
  unfold State.closeChans
  repeat' (with_reducible first
    | assumption | (intro _) | (apply State.flushChannel_kept) | (apply Kept.ite) | (apply Kept.foldl)
    | (apply Kept.foldl_fst) | split | (dsimp only))

theorem State.warmReset_kept (s : State) {q : List Instr} (hk : Kept q s) : Kept q (State.warmReset s) := by
  unfold State.warmReset
  repeat' (with_reducible first
    | assumption | (intro _) | (apply State.closeChans_kept) | (apply State.dropDomains_kept) | (apply State.setReg_kept)
    | (apply State.setDomain_kept) | (apply State.setFld_kept) | (apply State.tbEvent_kept) | (apply State.startFirmware_kept)
    | (apply Kept.ite) | (apply Kept.foldl) | (apply Kept.foldl_fst) | split | (dsimp only) | (apply Kept.update))

theorem State.hostReset_kept (s : State) {q : List Instr} (hk : Kept q s) : Kept q (State.hostReset s) := by
  unfold State.hostReset
  repeat' (with_reducible first
    | assumption | (intro _) | (apply State.closeChans_kept) | (apply State.resetRegs_kept) | (apply Kept.ite) | split
    | (dsimp only) | (apply Kept.update))

theorem State.dieReset_kept (s : State) (d : Nat) {q : List Instr} (hk : Kept q s) : Kept q (State.dieReset s d) := by
  unfold State.dieReset
  repeat' (with_reducible first
    | assumption | (intro _) | (apply State.abortDie_kept) | (apply State.closeChans_kept) | (apply State.clearC_kept)
    | (apply State.clearCluster_kept) | (apply State.clearK00_kept) | (apply Kept.ite) | (apply Kept.foldl)
    | (apply Kept.foldl_fst) | split | (dsimp only) | (apply Kept.update))

theorem bodyReset_kept (s : State) (h : CmdHdr) (ps : List Word64) {q : List Instr} (hk : Kept q s) : Kept q (bodyReset s h
    ps) := by
  unfold bodyReset
  repeat' (with_reducible first
    | assumption | (intro _) | (apply State.finish_kept) | (apply State.launch_kept) | (apply State.finishAt_kept)
    | (apply Kept.ite) | split | (dsimp only) | (apply Kept.update))

end Sys2Proof.Machine
end

