-- ==== Sys2Proof/Laws/KeptFabric.lean ====
section
/-! SUPPORT. Frame lemmas for the router, vector programs, collectives, rights, moulds and register accesses: each function keeps the queue of waiting commands and the canonical form of memory,
registers and tags (`Kept`). -/

namespace Sys2Proof.Machine

/-! ### Router -/

theorem State.route_kept (s : State) (p : Packet) {q : List Instr} (hk : Kept q s) : Kept q (State.route s p).1 := by
  unfold State.route
  repeat' (with_reducible first
    | assumption | (intro _) | (apply State.bump_kept) | (apply Kept.ite) | split | (refine Kept.of_fst (by assumption) ?_)
    | (refine Kept.of_snd (by assumption) ?_) | (dsimp only) | (apply Kept.update))

theorem State.outPort_kept (s : State) (port : Nat) (p : Packet) {q : List Instr} (hk : Kept q s) : Kept q (State.outPort s
    port p) := by
  unfold State.outPort
  repeat' (with_reducible first
    | assumption | (intro _) | (apply State.modPort_kept) | (apply State.bump_kept) | (apply State.drift_kept)
    | (apply State.portSend_kept) | (apply Kept.ite) | split | (refine Kept.of_fst (by assumption) ?_)
    | (refine Kept.of_snd (by assumption) ?_) | (dsimp only) | (apply Kept.update))

theorem State.dropLog_kept (s : State) (status : Nat) (p : Packet) {q : List Instr} (hk : Kept q s) : Kept q (State.dropLog s
    status p) := by
  unfold State.dropLog
  repeat' (with_reducible first
    | assumption | (intro _) | (apply State.log_kept) | (apply Kept.ite) | split | (dsimp only))

theorem State.malformed_kept (s : State) (port : Nat) (p : Packet) {q : List Instr} (hk : Kept q s) : Kept q (State.malformed
    s port p) := by
  unfold State.malformed
  repeat' (with_reducible first
    | assumption | (intro _) | (apply State.bump_kept) | (apply State.dropLog_kept) | (apply State.modPort_kept)
    | (apply State.quarantine_kept) | (apply Kept.ite) | split | (dsimp only) | (apply Kept.update))

theorem State.answerFrame_kept (s : State) (p : Packet) (status : Nat) {q : List Instr} (hk : Kept q s) : Kept q
    (State.answerFrame s p status) := by
  unfold State.answerFrame
  repeat' (with_reducible first
    | assumption | (intro _) | (apply State.memberDone_kept) | (apply State.sendMgmt_kept) | (apply Kept.ite) | split
    | (dsimp only))

theorem State.answerSource_kept (s : State) (p : Packet) (status : Nat) {q : List Instr} (hk : Kept q s) : Kept q
    (State.answerSource s p status) := by
  unfold State.answerSource
  repeat' (with_reducible first
    | assumption | (intro _) | (apply State.answerFrame_kept) | (apply State.landReq_kept) | (apply State.goesOn_kept)
    | (apply Kept.ite) | (apply Kept.foldl) | (apply Kept.foldl_fst) | split | (refine Kept.of_fst (by assumption) ?_)
    | (refine Kept.of_snd (by assumption) ?_) | (dsimp only) | (apply Kept.update))

theorem State.deliver_kept (s : State) (p : Packet) {q : List Instr} (hk : Kept q s) : Kept q (State.deliver s p) := by
  unfold State.deliver
  repeat' (with_reducible first
    | assumption | (intro _) | (apply State.bump_kept) | (apply State.answerSource_kept) | (apply Kept.ite) | split
    | (refine Kept.of_fst (by assumption) ?_) | (refine Kept.of_snd (by assumption) ?_) | (dsimp only) | (apply Kept.update))

theorem State.sendPacket_kept (s : State) (p : Packet) {q : List Instr} (hk : Kept q s) : Kept q (State.sendPacket s p) := by
  unfold State.sendPacket
  repeat' (with_reducible first
    | assumption | (intro _) | (apply State.route_kept) | (apply State.bump_kept) | (apply State.answerSource_kept)
    | (apply State.outPort_kept) | (apply Kept.ite) | split | (refine Kept.of_fst (by assumption) ?_)
    | (refine Kept.of_snd (by assumption) ?_) | (dsimp only) | (apply Kept.update))

theorem State.forward_kept (s : State) (inp : Option Nat) (p : Packet) (overrun : Bool) {q : List Instr} (hk : Kept q s) :
    Kept q (State.forward s inp p overrun) := by
  unfold State.forward
  repeat' (with_reducible first
    | assumption | (intro _) | (apply State.modPort_kept) | (apply State.malformed_kept) | (apply State.deliver_kept)
    | (apply State.sendPacket_kept) | (apply State.inject_kept) | (apply Kept.ite) | split
    | (refine Kept.of_fst (by assumption) ?_) | (refine Kept.of_snd (by assumption) ?_) | (dsimp only) | (apply Kept.update))

theorem State.sampleCong_kept (s : State) (node : Nat) (group : Nat) (system : Nat) (peers : List Nat) {q : List Instr} (hk :
    Kept q s) : Kept q (State.sampleCong s node group system peers) := by
  unfold State.sampleCong
  repeat' (with_reducible first
    | assumption | (intro _) | (apply State.setFld_kept) | (apply Kept.ite) | (apply Kept.foldl) | (apply Kept.foldl_fst)
    | split | (dsimp only) | (apply Kept.update))

theorem State.setWindow_kept (s : State) (src : Nat) (w : Window) {q : List Instr} (hk : Kept q s) : Kept q (State.setWindow s
    src w) := by
  unfold State.setWindow
  repeat' (with_reducible first
    | assumption | (intro _) | (apply Kept.ite) | split | (dsimp only) | (apply Kept.update))

theorem State.frameLog_kept (s : State) (p : Packet) {q : List Instr} (hk : Kept q s) : Kept q (State.frameLog s p) := by
  unfold State.frameLog
  repeat' (with_reducible first
    | assumption | (intro _) | (apply State.log_kept) | (apply Kept.ite) | split | (dsimp only))

theorem State.takeFrame_kept (s : State) (kind : Nat) (p : Packet) (f : State → State) {q : List Instr} (hf : ∀ a0, Kept q a0
    → Kept q (f a0)) (hk : Kept q s) : Kept q (State.takeFrame s kind p f) := by
  unfold State.takeFrame
  repeat' (with_reducible first
    | assumption | (intro _) | (apply State.frameLog_kept) | (apply State.setWindow_kept) | (apply State.bump_kept)
    | (apply hf) | (apply Kept.ite) | split | (refine Kept.of_fst (by assumption) ?_)
    | (refine Kept.of_snd (by assumption) ?_) | (dsimp only) | (apply Kept.update))

theorem State.noticeIn_kept (s : State) (places : List Nat) {q : List Instr} (hk : Kept q s) : Kept q (State.noticeIn s
    places) := by
  unfold State.noticeIn
  repeat' (with_reducible first
    | assumption | (intro _) | (apply State.raiseEpoch_kept) | (apply State.loseDest_kept) | (apply Kept.ite)
    | (apply Kept.foldl) | (apply Kept.foldl_fst) | split | (dsimp only) | (apply Kept.update))

theorem State.resendDue_kept (s : State) (dst : Nat) (seq : Nat) {q : List Instr} (hk : Kept q s) : Kept q (State.resendDue s
    dst seq) := by
  unfold State.resendDue
  repeat' (with_reducible first
    | assumption | (intro _) | (apply State.resend_kept) | (apply Kept.ite) | split | (dsimp only))

/-! ### Vector -/

theorem State.vecStart_kept (s : State) (d : Nat) (t : Nat) (r : VecRun) {q : List Instr} (hk : Kept q s) : Kept q
    (State.vecStart s d t r) := by
  unfold State.vecStart
  repeat' (with_reducible first
    | assumption | (intro _) | (apply State.modTile_kept) | (apply State.setReg_kept) | (apply Kept.ite) | split
    | (dsimp only) | (apply Kept.update))

theorem State.vecEmpty_kept (s : State) (d : Nat) (t : Nat) (p : VProg) (r : VecRun) (i : VInstr) {q : List Instr} (hk : Kept
    q s) : Kept q (State.vecEmpty s d t p r i) := by
  unfold State.vecEmpty
  repeat' (with_reducible first
    | assumption | (intro _) | (apply State.setTagAt_kept) | (apply Kept.ite) | (apply Kept.foldl) | (apply Kept.foldl_fst)
    | split | (dsimp only))

theorem State.vecPut_kept (d t : Nat) (r : VecRun) (i : VInstr) (w ofs : Nat) {q : List Instr} :
    ∀ (n j : Nat) (bs : List Byte) (s : State), Kept q s → Kept q (State.vecPut s d t r i w ofs n j bs)
  | 0, _, _, _, h => h
  | _ + 1, _, [], _, h => h
  | n + 1, j, b :: bs, s, h => by
    unfold State.vecPut
    exact State.vecPut_kept d t r i w ofs n _ _ _ (State.tilePut_kept _ _ _ _ _ _ _ h)

theorem State.vecStore_kept (s : State) (d t : Nat) (p : VProg) (r : VecRun) (i : VInstr) (w ofs : Nat) (bs : List Byte)
    {q : List Instr} (hk : Kept q s) : Kept q (State.vecStore s d t p r i w ofs bs) := by
  unfold State.vecStore
  exact Kept.foldl (fun s a h => State.tileTag_kept _ _ _ _ _ _ _ h) (State.vecPut_kept _ _ _ _ _ _ _ _ _ _ hk)

theorem State.putWords_kept (s : State) (d : Nat) (t : Nat) (r : VecRun) (bs : List Byte) {q : List Instr} (hk : Kept q s) :
    Kept q (State.putWords s d t r bs) := by
  unfold State.putWords
  repeat' (with_reducible first
    | assumption | (intro _) | (apply State.placeWords_kept) | (apply Kept.ite) | split | (dsimp only))

theorem State.putRegion_kept (s : State) (d : Nat) (t : Nat) (p : VProg) (r : VecRun) (i : VInstr) (w : Nat) (bs : List Byte)
    {q : List Instr} (hk : Kept q s) : Kept q (State.putRegion s d t p r i w bs) := by
  unfold State.putRegion
  repeat' (with_reducible first
    | assumption | (intro _) | (apply State.modTile_kept) | (apply Kept.ite) | split | (dsimp only))

theorem State.writeDst_kept (s : State) (d : Nat) (t : Nat) (p : VProg) (r : VecRun) (i : VInstr) (f : Fmt) (cs : List Nat) {q
    : List Instr} (hk : Kept q s) : Kept q (State.writeDst s d t p r i f cs) := by
  unfold State.writeDst
  repeat' (with_reducible first
    | assumption | (intro _) | (apply State.putRegion_kept) | (apply State.mmaCatchUp_kept) | (apply State.putWords_kept)
    | (apply State.stream_kept) | (apply State.vecStore_kept) | (apply Kept.ite) | split | (dsimp only))

theorem State.writeScalar_kept (s : State) (d : Nat) (t : Nat) (p : VProg) (r : VecRun) (v : Nat) (w : Nat) (val : Nat) {q :
    List Instr} (hk : Kept q s) : Kept q (State.writeScalar s d t p r v w val) := by
  unfold State.writeScalar
  repeat' (with_reducible first
    | assumption | (intro _) | (apply State.modTile_kept) | (apply Kept.ite) | split | (dsimp only))

theorem State.vecRaise_kept (s : State) (d : Nat) (t : Nat) (p : VProg) (r : VecRun) (fs : List (Nat × Flags)) {q : List
    Instr} (hk : Kept q s) : Kept q (State.vecRaise s d t p r fs) := by
  unfold State.vecRaise
  repeat' (with_reducible first
    | assumption | (intro _) | (apply State.modTile_kept) | (apply State.raise_kept) | (apply Kept.ite) | (apply Kept.foldl)
    | (apply Kept.foldl_fst) | split | (dsimp only) | (apply Kept.update))

theorem State.vecCvt_kept (s : State) (d : Nat) (t : Nat) (p : VProg) (r : VecRun) (i : VInstr) (xs : List (Nat × Flags)) {q :
    List Instr} (hk : Kept q s) : Kept q (State.vecCvt s d t p r i xs) := by
  unfold State.vecCvt
  repeat' (with_reducible first
    | assumption | (intro _) | (apply State.writeDst_kept) | (apply State.vecRaise_kept) | (apply State.modTile_kept)
    | (apply Kept.ite) | split | (refine Kept.of_fst (by assumption) ?_) | (refine Kept.of_snd (by assumption) ?_)
    | (dsimp only) | (apply Kept.update))

theorem State.vecOp_kept (s : State) (d : Nat) (t : Nat) (p : VProg) (r : VecRun) (i : VInstr) (loc : List (List Byte)) {q :
    List Instr} (hk : Kept q s) : Kept q (State.vecOp s d t p r i loc) := by
  unfold State.vecOp
  repeat' (with_reducible first
    | assumption | (intro _) | (apply State.mmaCatchUp_kept) | (apply State.vecRaise_kept) | (apply State.writeScalar_kept)
    | (apply State.vecCvt_kept) | (apply State.writeDst_kept) | (apply State.modTile_kept) | (apply State.mmaSync_kept)
    | (apply State.flagsDue_kept) | (apply State.readTileFlags_kept) | (apply State.stream_kept)
    | (apply State.putRegion_kept) | (apply State.putWords_kept) | (apply State.vecStore_kept) | (apply Kept.ite)
    | (apply Kept.foldl) | (apply Kept.foldl_fst) | split | (refine Kept.of_fst (by assumption) ?_)
    | (refine Kept.of_snd (by assumption) ?_) | (dsimp only) | (apply Kept.update))

theorem State.vecFinish_kept (s : State) (d : Nat) (t : Nat) {q : List Instr} (hk : Kept q s) : Kept q (State.vecFinish s d t)
    := by
  unfold State.vecFinish
  repeat' (with_reducible first
    | assumption | (intro _) | (apply State.mmaSync_kept) | (apply State.flagsDue_kept) | (apply State.modTile_kept)
    | (apply State.setFld_kept) | (apply Kept.ite) | (apply Kept.foldl) | (apply Kept.foldl_fst) | split
    | (refine Kept.of_fst (by assumption) ?_) | (refine Kept.of_snd (by assumption) ?_) | (dsimp only) | (apply Kept.update))

theorem State.vecInstr_kept (s : State) (d : Nat) (t : Nat) (w : BitVec 64) (vop : Nat) {q : List Instr} (hk : Kept q s) :
    Kept q (State.vecInstr s d t w vop) := by
  unfold State.vecInstr
  repeat' (with_reducible first
    | assumption | (intro _) | (apply State.stream_kept) | (apply State.touchRanges_kept) | (apply State.scrAbort_kept)
    | (apply State.vecEmpty_kept) | (apply State.vecOp_kept) | (apply State.modTile_kept) | (apply Kept.ite) | split
    | (refine Kept.of_fst (by assumption) ?_) | (refine Kept.of_snd (by assumption) ?_) | (dsimp only) | (apply Kept.update))

/-! ### Collectives -/

theorem State.setTeam_kept (s : State) (id : Nat) (t : TeamX) {q : List Instr} (hk : Kept q s) : Kept q (State.setTeam s id t)
    := by
  unfold State.setTeam
  repeat' (with_reducible first
    | assumption | (intro _) | (apply Kept.ite) | split | (dsimp only) | (apply Kept.update))

theorem State.modTeam_kept (s : State) (id : Nat) (f : TeamX → TeamX) {q : List Instr} (hk : Kept q s) : Kept q (State.modTeam
    s id f) := by
  unfold State.modTeam
  repeat' (with_reducible first
    | assumption | (intro _) | (apply State.setTeam_kept) | (apply Kept.ite) | split | (refine Kept.of_fst (by assumption) ?_)
    | (refine Kept.of_snd (by assumption) ?_) | (dsimp only) | (apply Kept.update))

theorem State.colEvent_kept (s : State) (f : Field) {q : List Instr} (hk : Kept q s) : Kept q (State.colEvent s f) := by
  unfold State.colEvent
  repeat' (with_reducible first
    | assumption | (intro _) | (apply State.event_kept) | (apply Kept.ite) | split | (dsimp only))

theorem State.colSend_kept (s : State) (m : ColMsg) {q : List Instr} (hk : Kept q s) : Kept q (State.colSend s m) := by
  unfold State.colSend
  repeat' (with_reducible first
    | assumption | (intro _) | (apply Kept.ite) | split | (dsimp only) | (apply Kept.update))

theorem State.installTeam_kept (s : State) (id : Nat) (ms : List Word) (timeout : Nat) (job : Nat) {q : List Instr} (hk : Kept
    q s) : Kept q (State.installTeam s id ms timeout job) := by
  unfold State.installTeam
  repeat' (with_reducible first
    | assumption | (intro _) | (apply State.setTeam_kept) | (apply Kept.ite) | (apply Kept.foldl) | (apply Kept.foldl_fst)
    | split | (dsimp only))

theorem State.teamMembers_kept (s : State) (h : CmdHdr) (ps : List Word64) {q : List Instr} (hk : Kept q s) : Kept q
    (State.teamMembers s h ps).1 := by
  unfold State.teamMembers
  repeat' (with_reducible first
    | assumption | (intro _) | (apply State.readFor_kept) | (apply Kept.ite) | split | (dsimp only))

theorem State.createHere_kept (s : State) (h : CmdHdr) (ps : List Word64) {q : List Instr} (hk : Kept q s) : Kept q
    (State.createHere s h ps) := by
  unfold State.createHere
  repeat' (with_reducible first
    | assumption | (intro _) | (apply State.teamMembers_kept) | (apply State.installTeam_kept) | (apply State.finish_kept)
    | (apply Kept.ite) | split | (dsimp only))

theorem bodyTeamCreate_kept (s : State) (h : CmdHdr) (ps : List Word64) {q : List Instr} (hk : Kept q s) : Kept q
    (bodyTeamCreate s h ps) := by
  unfold bodyTeamCreate
  repeat' (with_reducible first
    | assumption | (intro _) | (apply State.teamMembers_kept) | (apply State.spreadCmd_kept) | (apply State.createHere_kept)
    | (apply Kept.ite) | split | (dsimp only))

theorem State.teamHere_kept (opcode : Nat) (f : State → Nat → TeamX → State) (s : State) (h : CmdHdr) (ps : List Word64) {q :
    List Instr} (hf : ∀ a0 a1 a2, Kept q a0 → Kept q (f a0 a1 a2)) (hk : Kept q s) : Kept q (State.teamHere opcode f s h ps) := by
  unfold State.teamHere
  repeat' (with_reducible first
    | assumption | (intro _) | (apply State.finish_kept) | (apply hf) | (apply Kept.ite) | split
    | (refine Kept.of_fst (by assumption) ?_) | (refine Kept.of_snd (by assumption) ?_) | (dsimp only) | (apply Kept.update))

theorem State.teamAll_kept (s : State) (opcode : Nat) (f : State → Nat → TeamX → State) (h : CmdHdr) (ps : List Word64) {q :
    List Instr} (hf : ∀ a0 a1 a2, Kept q a0 → Kept q (f a0 a1 a2)) (hk : Kept q s) : Kept q (State.teamAll s opcode f h ps) := by
  unfold State.teamAll
  repeat' (with_reducible first
    | assumption | (intro _) | (apply State.teamHere_kept) | (apply State.spreadCmd_kept) | (apply hf) | (apply Kept.ite)
    | split | (refine Kept.of_fst (by assumption) ?_) | (refine Kept.of_snd (by assumption) ?_) | (dsimp only)
    | (apply Kept.update))

theorem bodyTeamDestroy_kept (s : State) (h : CmdHdr) (ps : List Word64) {q : List Instr} (hk : Kept q s) : Kept q
    (bodyTeamDestroy s h ps) := by
  unfold bodyTeamDestroy
  repeat' (with_reducible first
    | assumption | (intro _) | (apply State.teamAll_kept) | (apply Kept.ite) | split | (dsimp only) | (apply Kept.update))

theorem bodyTeamReset_kept (s : State) (h : CmdHdr) (ps : List Word64) {q : List Instr} (hk : Kept q s) : Kept q
    (bodyTeamReset s h ps) := by
  unfold bodyTeamReset
  repeat' (with_reducible first
    | assumption | (intro _) | (apply State.teamAll_kept) | (apply State.setTeam_kept) | (apply Kept.ite) | split
    | (dsimp only) | (apply Kept.update))

theorem bodyTeamInfo_kept (s : State) (h : CmdHdr) (ps : List Word64) {q : List Instr} (hk : Kept q s) : Kept q (bodyTeamInfo
    s h ps) := by
  unfold bodyTeamInfo
  repeat' (with_reducible first
    | assumption | (intro _) | (apply State.finish_kept) | (apply Kept.ite) | split | (refine Kept.of_fst (by assumption) ?_)
    | (refine Kept.of_snd (by assumption) ?_) | (dsimp only) | (apply Kept.update))

theorem State.colRead_kept (s : State) (die : Nat) (ga : Nat) (n : Nat) {q : List Instr} (hk : Kept q s) : Kept q
    (State.colRead s die ga n).1 := by
  unfold State.colRead
  repeat' (with_reducible first
    | assumption | (intro _) | (apply State.readWith_kept) | (apply Kept.ite) | split | (dsimp only))

theorem State.colWrite_kept (s : State) (die : Nat) (ga : Nat) (data : List Byte) (fill : Bool) {q : List Instr} (hk : Kept q
    s) : Kept q (State.colWrite s die ga data fill) := by
  unfold State.colWrite
  repeat' (with_reducible first
    | assumption | (intro _) | (apply State.direct_kept) | (apply Kept.ite) | split | (dsimp only) | (apply Kept.update))

theorem State.ctlResult_kept (s : State) (job : Nat) (r : CtlResult) {q : List Instr} (hk : Kept q s) : Kept q
    (State.ctlResult s job r) := by
  unfold State.ctlResult
  repeat' (with_reducible first
    | assumption | (intro _) | (apply State.modOpen_kept) | (apply Kept.ite) | split | (dsimp only) | (apply Kept.update))

theorem State.callRead_kept (s : State) (c : CallX) (ofs : Nat) (n : Nat) {q : List Instr} (hk : Kept q s) : Kept q
    (State.callRead s c ofs n).1 := by
  unfold State.callRead
  repeat' (with_reducible first
    | assumption | (intro _) | (apply State.colRead_kept) | (apply Kept.ite) | split | (refine Kept.of_fst (by assumption) ?_)
    | (refine Kept.of_snd (by assumption) ?_) | (dsimp only) | (apply Kept.update))

theorem State.callBack_kept (s : State) (c : CallX) (ofs : Nat) (n : Nat) {q : List Instr} (hk : Kept q s) : Kept q
    (State.callBack s c ofs n).1 := by
  unfold State.callBack
  repeat' (with_reducible first
    | assumption | (intro _) | (apply State.colRead_kept) | (apply Kept.ite) | split | (refine Kept.of_fst (by assumption) ?_)
    | (refine Kept.of_snd (by assumption) ?_) | (dsimp only) | (apply Kept.update))

theorem State.callWrite_kept (s : State) (c : CallX) (ofs : Nat) (data : List Byte) {q : List Instr} (hk : Kept q s) : Kept q
    (State.callWrite s c ofs data) := by
  unfold State.callWrite
  repeat' (with_reducible first
    | assumption | (intro _) | (apply State.draw_kept) | (apply State.colWrite_kept) | (apply Kept.ite) | split
    | (refine Kept.of_fst (by assumption) ?_) | (refine Kept.of_snd (by assumption) ?_) | (dsimp only) | (apply Kept.update))

theorem State.putRecord_kept (s : State) (die : Nat) (ws : List Word) (bytes : List Byte) {q : List Instr} (hk : Kept q s) :
    Kept q (State.putRecord s die ws bytes) := by
  unfold State.putRecord
  repeat' (with_reducible first
    | assumption | (intro _) | (apply State.colWrite_kept) | (apply Kept.ite) | split | (dsimp only))

theorem State.noteLost_kept (s : State) (status : Nat) {q : List Instr} (hk : Kept q s) : Kept q (State.noteLost s status) :=
    by
  unfold State.noteLost
  repeat' (with_reducible first
    | assumption | (intro _) | (apply State.bump_kept) | (apply State.colEvent_kept) | (apply Kept.ite) | split | (dsimp only))

theorem State.closeCall_kept (s : State) (c : CallX) (m : ReleaseMsg) {q : List Instr} (hk : Kept q s) : Kept q
    (State.closeCall s c m) := by
  unfold State.closeCall
  repeat' (with_reducible first
    | assumption | (intro _) | (apply State.voteDone_kept) | (apply State.modDie_kept) | (apply State.closeAt_kept)
    | (apply Kept.ite) | split | (dsimp only) | (apply Kept.update))

theorem State.completeCall_kept (s : State) (c : CallX) (m : ReleaseMsg) {q : List Instr} (hk : Kept q s) : Kept q
    (State.completeCall s c m) := by
  unfold State.completeCall
  repeat' (with_reducible first
    | assumption | (intro _) | (apply State.noteLost_kept) | (apply State.closeCall_kept) | (apply State.ctlResult_kept)
    | (apply State.colWrite_kept) | (apply State.putRecord_kept) | (apply Kept.ite) | split
    | (refine Kept.of_fst (by assumption) ?_) | (refine Kept.of_snd (by assumption) ?_) | (dsimp only) | (apply Kept.update))

theorem State.refuseCall_kept (s : State) (die : Nat) (ws : List Word) (vote : Bool) (own : Option (Nat × List Byte)) (status
    : Nat) {q : List Instr} (hk : Kept q s) : Kept q (State.refuseCall s die ws vote own status) := by
  unfold State.refuseCall
  repeat' (with_reducible first
    | assumption | (intro _) | (apply State.colEvent_kept) | (apply State.noteLost_kept) | (apply State.ctlResult_kept)
    | (apply State.voteDone_kept) | (apply State.putRecord_kept) | (apply Kept.ite) | split | (dsimp only))

theorem State.setRound_kept (s : State) (r : RoundX) {q : List Instr} (hk : Kept q s) : Kept q (State.setRound s r) := by
  unfold State.setRound
  repeat' (with_reducible first
    | assumption | (intro _) | (apply Kept.ite) | split | (dsimp only) | (apply Kept.update))

theorem State.dropRound_kept (s : State) (team : Nat) (seq : Nat) {q : List Instr} (hk : Kept q s) : Kept q (State.dropRound s
    team seq) := by
  unfold State.dropRound
  repeat' (with_reducible first
    | assumption | (intro _) | (apply Kept.ite) | split | (dsimp only) | (apply Kept.update))

theorem State.countArrival_kept (s : State) (r : RoundX) (level : Nat) (chain : Bool) (arrived : List Nat) {q : List Instr}
    (hk : Kept q s) : Kept q (State.countArrival s r level chain arrived).1 := by
  unfold State.countArrival
  repeat' (with_reducible first
    | assumption | (intro _) | (apply State.bump_kept) | (apply State.drift_kept) | (apply Kept.ite) | split | (dsimp only)
    | (apply Kept.update))

theorem State.levelStep_kept (s : State) (t : TeamX) (ws : List Word) (r : RoundX) (level : Nat) (force : Bool) {q : List
    Instr} (hk : Kept q s) : Kept q (State.levelStep s t ws r level force).1 := by
  unfold State.levelStep
  repeat' (with_reducible first
    | assumption | (intro _) | (apply State.countArrival_kept) | (apply Kept.ite) | split | (dsimp only) | (apply Kept.update))

theorem State.sendRelease_kept (s : State) (t : TeamX) (m : ReleaseMsg) {q : List Instr} (hk : Kept q s) : Kept q
    (State.sendRelease s t m) := by
  unfold State.sendRelease
  repeat' (with_reducible first
    | assumption | (intro _) | (apply State.colSend_kept) | (apply State.release_kept) | (apply Kept.ite) | (apply Kept.foldl)
    | (apply Kept.foldl_fst) | split | (dsimp only))

theorem State.undefineDst_kept (s : State) (r : RoundX) (m : ReleaseMsg) (c : CallX) {q : List Instr} (hk : Kept q s) : Kept q
    (State.undefineDst s r m c) := by
  unfold State.undefineDst
  repeat' (with_reducible first
    | assumption | (intro _) | (apply State.draw_kept) | (apply State.callWrite_kept) | (apply Kept.ite) | (apply Kept.foldl)
    | (apply Kept.foldl_fst) | split | (dsimp only))

theorem State.finalRelease_kept (s : State) (m : ReleaseMsg) {q : List Instr} (hk : Kept q s) : Kept q (State.finalRelease s
    m) := by
  unfold State.finalRelease
  repeat' (with_reducible first
    | assumption | (intro _) | (apply State.dropRound_kept) | (apply State.bump_kept) | (apply State.colEvent_kept)
    | (apply State.modTeam_kept) | (apply State.logLate_kept) | (apply State.drift_kept) | (apply State.undefineDst_kept)
    | (apply State.completeCall_kept) | (apply Kept.ite) | (apply Kept.foldl) | (apply Kept.foldl_fst) | split | (dsimp only)
    | (apply Kept.update))

theorem State.rootRelease_kept (s : State) (t : TeamX) (id : Nat) (seq : Nat) (status : Nat) (result : Nat) (flags : Nat)
    (ranks : List Nat) (srcLost : Bool) (count : Nat) (ids : List Word) {q : List Instr} (hk : Kept q s) : Kept q
    (State.rootRelease s t id seq status result flags ranks srcLost count ids) := by
  unfold State.rootRelease
  repeat' (with_reducible first
    | assumption | (intro _) | (apply State.log_kept) | (apply State.sendRelease_kept) | (apply State.finalRelease_kept)
    | (apply Kept.ite) | split | (dsimp only))

theorem sendChunks_kept (own : Nat) (id : Nat) (seq : Nat) (child : Nat) (s : State) (r : RoundX) {q : List Instr} (hk : Kept
    q s) : Kept q (sendChunks own id seq child s r).1 := by
  unfold sendChunks
  repeat' (with_reducible first
    | assumption | (intro _) | (apply State.colSend_kept) | (apply Kept.ite) | (apply Kept.foldl) | (apply Kept.foldl_fst)
    | split | (dsimp only) | (apply Kept.update))

theorem State.sendDown_kept (s : State) (t : TeamX) (r : RoundX) {q : List Instr} (hk : Kept q s) : Kept q (State.sendDown s t
    r) := by
  unfold State.sendDown
  repeat' (with_reducible first
    | assumption | (intro _) | (apply sendChunks_kept) | (apply State.setRound_kept) | (apply Kept.ite) | (apply Kept.foldl)
    | (apply Kept.foldl_fst) | split | (dsimp only))

theorem State.chunkDown_kept (s : State) (t : TeamX) (id : Nat) (seq : Nat) (k : Nat) (data : List Byte) {q : List Instr} (hk
    : Kept q s) : Kept q (State.chunkDown s t id seq k data) := by
  unfold State.chunkDown
  repeat' (with_reducible first
    | assumption | (intro _) | (apply State.sendDown_kept) | (apply State.callWrite_kept) | (apply State.colSend_kept)
    | (apply Kept.ite) | (apply Kept.foldl) | (apply Kept.foldl_fst) | split | (refine Kept.of_fst (by assumption) ?_)
    | (refine Kept.of_snd (by assumption) ?_) | (dsimp only) | (apply Kept.update))

theorem State.chunkLevel_kept (s : State) (t : TeamX) (ws : List Word) (r : RoundX) (k : Nat) (level : Nat) {q : List Instr}
    (hk : Kept q s) : Kept q (State.chunkLevel s t ws r k level).1 := by
  unfold State.chunkLevel
  repeat' (with_reducible first
    | assumption | (intro _) | (apply State.countArrival_kept) | (apply Kept.ite) | split
    | (refine Kept.of_fst (by assumption) ?_) | (refine Kept.of_snd (by assumption) ?_) | (dsimp only) | (apply Kept.update))

theorem State.doneCheck_kept (s : State) (t : TeamX) (ws : List Word) (id : Nat) (seq : Nat) {q : List Instr} (hk : Kept q s)
    : Kept q (State.doneCheck s t ws id seq) := by
  unfold State.doneCheck
  repeat' (with_reducible first
    | assumption | (intro _) | (apply State.setRound_kept) | (apply State.colSend_kept) | (apply State.rootRelease_kept)
    | (apply Kept.ite) | split | (refine Kept.of_fst (by assumption) ?_) | (refine Kept.of_snd (by assumption) ?_)
    | (dsimp only) | (apply Kept.update))

theorem State.chunkUp_kept (s : State) (t : TeamX) (ws : List Word) (id : Nat) (seq : Nat) (k : Nat) {q : List Instr} (hk :
    Kept q s) : Kept q (State.chunkUp s t ws id seq k) := by
  unfold State.chunkUp
  repeat' (with_reducible first
    | assumption | (intro _) | (apply State.chunkLevel_kept) | (apply State.setRound_kept) | (apply State.colSend_kept)
    | (apply State.chunkDown_kept) | (apply State.callWrite_kept) | (apply Kept.ite) | (apply Kept.foldl)
    | (apply Kept.foldl_fst) | split | (refine Kept.of_fst (by assumption) ?_) | (refine Kept.of_snd (by assumption) ?_)
    | (dsimp only) | (apply Kept.update))

theorem State.localPartial_kept (s : State) (t : TeamX) (ws : List Word) (id : Nat) (seq : Nat) (k : Nat) {q : List Instr} (hk
    : Kept q s) : Kept q (State.localPartial s t ws id seq k).1 := by
  unfold State.localPartial
  repeat' (with_reducible first
    | assumption | (intro _) | (apply State.callRead_kept) | (apply Kept.ite) | (apply Kept.foldl) | (apply Kept.foldl_fst)
    | split | (dsimp only))

theorem State.startData_kept (s : State) (t : TeamX) (ws : List Word) (id : Nat) (seq : Nat) {q : List Instr} (hk : Kept q s)
    : Kept q (State.startData s t ws id seq) := by
  unfold State.startData
  repeat' (with_reducible first
    | assumption | (intro _) | (apply State.setRound_kept) | (apply State.callRead_kept) | (apply State.chunkDown_kept)
    | (apply State.colSend_kept) | (apply State.localPartial_kept) | (apply State.countArrival_kept)
    | (apply State.chunkUp_kept) | (apply State.doneCheck_kept) | (apply Kept.ite) | (apply Kept.foldl)
    | (apply Kept.foldl_fst) | split | (refine Kept.of_fst (by assumption) ?_) | (refine Kept.of_snd (by assumption) ?_)
    | (dsimp only) | (apply Kept.update))

theorem State.release_kept (s : State) (m : ReleaseMsg) {q : List Instr} (hk : Kept q s) : Kept q (State.release s m) := by
  unfold State.release
  repeat' (with_reducible first
    | assumption | (intro _) | (apply State.sendRelease_kept) | (apply State.startData_kept) | (apply State.finalRelease_kept)
    | (apply Kept.ite) | split | (refine Kept.of_fst (by assumption) ?_) | (refine Kept.of_snd (by assumption) ?_)
    | (dsimp only) | (apply Kept.update))

theorem State.rootHolds_kept (s : State) (t : TeamX) (ws : List Word) (id : Nat) (seq : Nat) (m : UpMessage) {q : List Instr}
    (hk : Kept q s) : Kept q (State.rootHolds s t ws id seq m) := by
  unfold State.rootHolds
  repeat' (with_reducible first
    | assumption | (intro _) | (apply State.rootRelease_kept) | (apply State.sendRelease_kept) | (apply State.startData_kept)
    | (apply Kept.ite) | split | (refine Kept.of_fst (by assumption) ?_) | (refine Kept.of_snd (by assumption) ?_)
    | (dsimp only))

theorem State.advanceRound_kept (s : State) (id : Nat) (seq : Nat) (force : Bool) {q : List Instr} (hk : Kept q s) : Kept q
    (State.advanceRound s id seq force) := by
  unfold State.advanceRound
  repeat' (with_reducible first
    | assumption | (intro _) | (apply State.levelStep_kept) | (apply State.setRound_kept) | (apply State.colSend_kept)
    | (apply State.rootHolds_kept) | (apply Kept.ite) | (apply Kept.foldl) | (apply Kept.foldl_fst) | split
    | (refine Kept.of_fst (by assumption) ?_) | (refine Kept.of_snd (by assumption) ?_) | (dsimp only) | (apply Kept.update))

theorem State.enterCall_kept (s : State) (die : Nat) (ws : List Word) (vote : Bool) (rec : Option Nat) (own : Option (Nat ×
    List Byte)) {q : List Instr} (hk : Kept q s) : Kept q (State.enterCall s die ws vote rec own) := by
  unfold State.enterCall
  repeat' (with_reducible first
    | assumption | (intro _) | (apply State.refuseCall_kept) | (apply State.setTeam_kept) | (apply State.colWrite_kept)
    | (apply State.modDie_kept) | (apply State.bump_kept) | (apply State.setRound_kept) | (apply State.advanceRound_kept)
    | (apply Kept.ite) | split | (refine Kept.of_fst (by assumption) ?_) | (refine Kept.of_snd (by assumption) ?_)
    | (dsimp only) | (apply Kept.update))

theorem State.takeEntry_kept (s : State) (die : Nat) (rec : Nat) (op : Option Nat) {q : List Instr} (hk : Kept q s) : Kept q
    (State.takeEntry s die rec op) := by
  unfold State.takeEntry
  repeat' (with_reducible first
    | assumption | (intro _) | (apply State.colRead_kept) | (apply State.colEvent_kept) | (apply State.logRefused_kept)
    | (apply State.enterCall_kept) | (apply Kept.ite) | split | (refine Kept.of_fst (by assumption) ?_)
    | (refine Kept.of_snd (by assumption) ?_) | (dsimp only) | (apply Kept.update))

theorem State.castVote_kept (s : State) (d : Nat) (team : Nat) (ovf : Bool) (unable : Bool) {q : List Instr} (hk : Kept q s) :
    Kept q (State.castVote s d team ovf unable) := by
  unfold State.castVote
  repeat' (with_reducible first
    | assumption | (intro _) | (apply State.enterCall_kept) | (apply Kept.ite) | split
    | (refine Kept.of_fst (by assumption) ?_) | (refine Kept.of_snd (by assumption) ?_) | (dsimp only) | (apply Kept.update))

theorem State.hear_kept (s : State) (id : Nat) (place : Nat) {q : List Instr} (hk : Kept q s) : Kept q (State.hear s id place)
    := by
  unfold State.hear
  repeat' (with_reducible first
    | assumption | (intro _) | (apply State.modTeam_kept) | (apply Kept.ite) | split | (dsimp only) | (apply Kept.update))

theorem State.adopt_kept (s : State) (id : Nat) (child : Nat) {q : List Instr} (hk : Kept q s) : Kept q (State.adopt s id
    child) := by
  unfold State.adopt
  repeat' (with_reducible first
    | assumption | (intro _) | (apply State.modTeam_kept) | (apply Kept.ite) | split | (dsimp only) | (apply Kept.update))

theorem State.upReceive_kept (s : State) (m : UpMessage) {q : List Instr} (hk : Kept q s) : Kept q (State.upReceive s m) := by
  unfold State.upReceive
  repeat' (with_reducible first
    | assumption | (intro _) | (apply State.adopt_kept) | (apply State.hear_kept) | (apply State.setRound_kept)
    | (apply State.advanceRound_kept) | (apply Kept.ite) | split | (refine Kept.of_fst (by assumption) ?_)
    | (refine Kept.of_snd (by assumption) ?_) | (dsimp only) | (apply Kept.update))

theorem State.chunkReceive_kept (s : State) (m : ChunkMsg) {q : List Instr} (hk : Kept q s) : Kept q (State.chunkReceive s m)
    := by
  unfold State.chunkReceive
  repeat' (with_reducible first
    | assumption | (intro _) | (apply State.hear_kept) | (apply State.setRound_kept) | (apply State.chunkUp_kept)
    | (apply State.doneCheck_kept) | (apply State.callWrite_kept) | (apply State.chunkDown_kept) | (apply Kept.ite) | split
    | (refine Kept.of_fst (by assumption) ?_) | (refine Kept.of_snd (by assumption) ?_) | (dsimp only) | (apply Kept.update))

theorem State.resumeRound_kept (s : State) (id : Nat) (parent : Nat) (r : RoundX) {q : List Instr} (hk : Kept q s) : Kept q
    (State.resumeRound s id parent r) := by
  unfold State.resumeRound
  repeat' (with_reducible first
    | assumption | (intro _) | (apply State.colSend_kept) | (apply State.resume_kept) | (apply State.setRound_kept)
    | (apply State.doneCheck_kept) | (apply Kept.ite) | (apply Kept.foldl) | (apply Kept.foldl_fst) | split
    | (refine Kept.of_fst (by assumption) ?_) | (refine Kept.of_snd (by assumption) ?_) | (dsimp only) | (apply Kept.update))

theorem State.takeRoot_kept (s : State) (id : Nat) (r : RoundX) {q : List Instr} (hk : Kept q s) : Kept q (State.takeRoot s id
    r) := by
  unfold State.takeRoot
  repeat' (with_reducible first
    | assumption | (intro _) | (apply State.setRound_kept) | (apply State.doneCheck_kept) | (apply State.advanceRound_kept)
    | (apply Kept.ite) | split | (refine Kept.of_fst (by assumption) ?_) | (refine Kept.of_snd (by assumption) ?_)
    | (dsimp only) | (apply Kept.update))

theorem State.parentLost_kept (s : State) (id : Nat) {q : List Instr} (hk : Kept q s) : Kept q (State.parentLost s id) := by
  unfold State.parentLost
  repeat' (with_reducible first
    | assumption | (intro _) | (apply State.setTeam_kept) | (apply State.bump_kept) | (apply State.colEvent_kept)
    | (apply State.resumeRound_kept) | (apply State.takeRoot_kept) | (apply Kept.ite) | (apply Kept.foldl)
    | (apply Kept.foldl_fst) | split | (refine Kept.of_fst (by assumption) ?_) | (refine Kept.of_snd (by assumption) ?_)
    | (dsimp only) | (apply Kept.update))

theorem State.roundWithout_kept (s : State) (id : Nat) (child : Nat) (r : RoundX) {q : List Instr} (hk : Kept q s) : Kept q
    (State.roundWithout s id child r) := by
  unfold State.roundWithout
  repeat' (with_reducible first
    | assumption | (intro _) | (apply State.advanceRound_kept) | (apply State.setRound_kept) | (apply State.chunkUp_kept)
    | (apply State.doneCheck_kept) | (apply Kept.ite) | (apply Kept.foldl) | (apply Kept.foldl_fst) | split
    | (refine Kept.of_fst (by assumption) ?_) | (refine Kept.of_snd (by assumption) ?_) | (dsimp only) | (apply Kept.update))

theorem State.inputLost_kept (s : State) (id : Nat) (child : Nat) {q : List Instr} (hk : Kept q s) : Kept q (State.inputLost s
    id child) := by
  unfold State.inputLost
  repeat' (with_reducible first
    | assumption | (intro _) | (apply State.setTeam_kept) | (apply State.roundWithout_kept) | (apply Kept.ite)
    | (apply Kept.foldl) | (apply Kept.foldl_fst) | split | (refine Kept.of_fst (by assumption) ?_)
    | (refine Kept.of_snd (by assumption) ?_) | (dsimp only) | (apply Kept.update))

theorem State.fetchChunk_kept (s : State) (t : TeamX) (id : Nat) (seq : Nat) (k : Nat) {q : List Instr} (hk : Kept q s) : Kept
    q (State.fetchChunk s t id seq k) := by
  unfold State.fetchChunk
  repeat' (with_reducible first
    | assumption | (intro _) | (apply State.callRead_kept) | (apply State.chunkDown_kept) | (apply State.colSend_kept)
    | (apply State.callBack_kept) | (apply Kept.ite) | split | (refine Kept.of_fst (by assumption) ?_)
    | (refine Kept.of_snd (by assumption) ?_) | (dsimp only) | (apply Kept.update))

theorem State.resume_kept (s : State) (id : Nat) (seq : Nat) (child : Nat) (chunk : Nat) {q : List Instr} (hk : Kept q s) :
    Kept q (State.resume s id seq child chunk) := by
  unfold State.resume
  repeat' (with_reducible first
    | assumption | (intro _) | (apply State.adopt_kept) | (apply State.hear_kept) | (apply State.fetchChunk_kept)
    | (apply State.sendDown_kept) | (apply Kept.ite) | (apply Kept.foldl) | (apply Kept.foldl_fst) | split
    | (refine Kept.of_fst (by assumption) ?_) | (refine Kept.of_snd (by assumption) ?_) | (dsimp only) | (apply Kept.update))

theorem State.serveChunk_kept (s : State) (id : Nat) (seq : Nat) (asker : Nat) (k : Nat) {q : List Instr} (hk : Kept q s) :
    Kept q (State.serveChunk s id seq asker k) := by
  unfold State.serveChunk
  repeat' (with_reducible first
    | assumption | (intro _) | (apply State.callRead_kept) | (apply State.colSend_kept) | (apply Kept.ite) | split
    | (refine Kept.of_fst (by assumption) ?_) | (refine Kept.of_snd (by assumption) ?_) | (dsimp only) | (apply Kept.update))

theorem State.callTimeout_kept (s : State) (id : Nat) (seq : Nat) (die : Nat) {q : List Instr} (hk : Kept q s) : Kept q
    (State.callTimeout s id seq die) := by
  unfold State.callTimeout
  repeat' (with_reducible first
    | assumption | (intro _) | (apply State.advanceRound_kept) | (apply Kept.ite) | split
    | (refine Kept.of_fst (by assumption) ?_) | (refine Kept.of_snd (by assumption) ?_) | (dsimp only) | (apply Kept.update))

/-! ### Security -/

theorem bodyIdentityRead_kept (s : State) (h : CmdHdr) (u2 : List Word64) {q : List Instr} (hk : Kept q s) : Kept q
    (bodyIdentityRead s h u2) := by
  unfold bodyIdentityRead
  repeat' (with_reducible first
    | assumption | (intro _) | (apply State.finish_kept) | (apply Kept.ite) | split | (dsimp only))

theorem bodySessionChallenge_kept (s : State) (h : CmdHdr) (u2 : List Word64) {q : List Instr} (hk : Kept q s) : Kept q
    (bodySessionChallenge s h u2) := by
  unfold bodySessionChallenge
  repeat' (with_reducible first
    | assumption | (intro _) | (apply State.draw_kept) | (apply State.modChan_kept) | (apply State.finish_kept)
    | (apply Kept.ite) | split | (dsimp only) | (apply Kept.update))

theorem bodySessionOpen_kept (s : State) (h : CmdHdr) (ps : List Word64) {q : List Instr} (hk : Kept q s) : Kept q
    (bodySessionOpen s h ps) := by
  unfold bodySessionOpen
  repeat' (with_reducible first
    | assumption | (intro _) | (apply State.modChan_kept) | (apply State.closeSession_kept) | (apply State.finish_kept)
    | (apply Kept.ite) | split | (dsimp only) | (apply Kept.update))

theorem bodySessionClose_kept (s : State) (h : CmdHdr) (u2 : List Word64) {q : List Instr} (hk : Kept q s) : Kept q
    (bodySessionClose s h u2) := by
  unfold bodySessionClose
  repeat' (with_reducible first
    | assumption | (intro _) | (apply State.closeSession_kept) | (apply State.finish_kept) | (apply Kept.ite) | split
    | (dsimp only))

theorem bodySessionInfo_kept (s : State) (h : CmdHdr) (u2 : List Word64) {q : List Instr} (hk : Kept q s) : Kept q
    (bodySessionInfo s h u2) := by
  unfold bodySessionInfo
  repeat' (with_reducible first
    | assumption | (intro _) | (apply State.finish_kept) | (apply Kept.ite) | split | (refine Kept.of_fst (by assumption) ?_)
    | (refine Kept.of_snd (by assumption) ?_) | (dsimp only) | (apply Kept.update))

theorem State.closeSlot_kept (s : State) (slot : Nat) {q : List Instr} (hk : Kept q s) : Kept q (State.closeSlot s slot) := by
  unfold State.closeSlot
  repeat' (with_reducible first
    | assumption | (intro _) | (apply State.closeSession_kept) | (apply Kept.ite) | (apply Kept.foldl)
    | (apply Kept.foldl_fst) | split | (refine Kept.of_fst (by assumption) ?_) | (refine Kept.of_snd (by assumption) ?_)
    | (dsimp only) | (apply Kept.update))

theorem bodyKeyWrite_kept (s : State) (h : CmdHdr) (ps : List Word64) {q : List Instr} (hk : Kept q s) : Kept q (bodyKeyWrite
    s h ps) := by
  unfold bodyKeyWrite
  repeat' (with_reducible first
    | assumption | (intro _) | (apply State.finish_kept) | (apply State.draw_kept) | (apply State.closeSlot_kept)
    | (apply Kept.ite) | split | (dsimp only) | (apply Kept.update))

theorem bodyKeyRevoke_kept (s : State) (h : CmdHdr) (ps : List Word64) {q : List Instr} (hk : Kept q s) : Kept q
    (bodyKeyRevoke s h ps) := by
  unfold bodyKeyRevoke
  repeat' (with_reducible first
    | assumption | (intro _) | (apply State.closeSlot_kept) | (apply State.finish_kept) | (apply Kept.ite) | split
    | (dsimp only) | (apply Kept.update))

theorem bodyRightsSet_kept (s : State) (h : CmdHdr) (ps : List Word64) {q : List Instr} (hk : Kept q s) : Kept q
    (bodyRightsSet s h ps) := by
  unfold bodyRightsSet
  repeat' (with_reducible first
    | assumption | (intro _) | (apply State.finish_kept) | (apply Kept.ite) | split | (dsimp only) | (apply Kept.update))

theorem bodyPartitionSet_kept (s : State) (h : CmdHdr) (ps : List Word64) {q : List Instr} (hk : Kept q s) : Kept q
    (bodyPartitionSet s h ps) := by
  unfold bodyPartitionSet
  repeat' (with_reducible first
    | assumption | (intro _) | (apply State.finish_kept) | (apply Kept.ite) | split | (dsimp only) | (apply Kept.update))

theorem bodyOwnershipSet_kept (s : State) (h : CmdHdr) (ps : List Word64) {q : List Instr} (hk : Kept q s) : Kept q
    (bodyOwnershipSet s h ps) := by
  unfold bodyOwnershipSet
  repeat' (with_reducible first
    | assumption | (intro _) | (apply State.finish_kept) | (apply Kept.ite) | split | (dsimp only) | (apply Kept.update))

theorem bodyAttest_kept (s : State) (h : CmdHdr) (ps : List Word64) {q : List Instr} (hk : Kept q s) : Kept q (bodyAttest s h
    ps) := by
  unfold bodyAttest
  repeat' (with_reducible first
    | assumption | (intro _) | (apply State.finish_kept) | (apply Kept.ite) | split | (dsimp only))

/-! ### Mould -/

theorem State.slotReady_kept (s : State) (d : Nat) (sl : Nat) (x : SlotX) (cycles : Nat) {q : List Instr} (hk : Kept q s) :
    Kept q (State.slotReady s d sl x cycles) := by
  unfold State.slotReady
  repeat' (with_reducible first
    | assumption | (intro _) | (apply State.modSlot_kept) | (apply State.setSlotState_kept) | (apply State.setReg_kept)
    | (apply State.setReg64_kept) | (apply Kept.ite) | split | (dsimp only) | (apply Kept.update))

theorem State.slotFailed_kept (s : State) (d : Nat) (sl : Nat) (reason : Nat) {q : List Instr} (hk : Kept q s) : Kept q
    (State.slotFailed s d sl reason) := by
  unfold State.slotFailed
  repeat' (with_reducible first
    | assumption | (intro _) | (apply State.modSlot_kept) | (apply State.setReg_kept) | (apply Kept.ite) | split
    | (dsimp only))

theorem State.loadMould_kept (h : CmdHdr) (ps : List Word64) (s : State) (d : Nat) {q : List Instr} (hk : Kept q s) : Kept q
    (State.loadMould h ps s d).1 := by
  unfold State.loadMould
  repeat' (with_reducible first
    | assumption | (intro _) | (apply State.readFor_kept) | (apply State.slotFailed_kept) | (apply State.slotReady_kept)
    | (apply State.modSlot_kept) | (apply State.setSlotState_kept) | (apply Kept.ite) | split
    | (refine Kept.of_fst (by assumption) ?_) | (refine Kept.of_snd (by assumption) ?_) | (dsimp only) | (apply Kept.update))

theorem bodyMouldLoad_kept (s : State) (h : CmdHdr) (ps : List Word64) {q : List Instr} (hk : Kept q s) : Kept q
    (bodyMouldLoad s h ps) := by
  unfold bodyMouldLoad
  repeat' (with_reducible first
    | assumption | (intro _) | (apply State.onDies_kept) | (apply State.loadMould_kept) | (apply Kept.ite) | split
    | (dsimp only))

theorem State.streamDone_kept (s : State) (d : Nat) (sl : Nat) {q : List Instr} (hk : Kept q s) : Kept q (State.streamDone s d
    sl) := by
  unfold State.streamDone
  repeat' (with_reducible first
    | assumption | (intro _) | (apply State.slotFailed_kept) | (apply State.partDone_kept) | (apply State.readFor_kept)
    | (apply State.modSlot_kept) | (apply State.setSlotState_kept) | (apply Kept.ite) | split
    | (refine Kept.of_fst (by assumption) ?_) | (refine Kept.of_snd (by assumption) ?_) | (dsimp only) | (apply Kept.update))

theorem State.checkDone_kept (s : State) (d : Nat) (sl : Nat) {q : List Instr} (hk : Kept q s) : Kept q (State.checkDone s d
    sl) := by
  unfold State.checkDone
  repeat' (with_reducible first
    | assumption | (intro _) | (apply State.slotReady_kept) | (apply State.partDone_kept) | (apply State.slotFailed_kept)
    | (apply Kept.ite) | split | (refine Kept.of_fst (by assumption) ?_) | (refine Kept.of_snd (by assumption) ?_)
    | (dsimp only) | (apply Kept.update))

theorem State.writeRwsAll_kept (s : State) (d : Nat) (ws : List (Nat × Nat × Nat)) {q : List Instr} (hk : Kept q s) : Kept q
    (State.writeRwsAll s d ws) := by
  unfold State.writeRwsAll
  repeat' (with_reducible first
    | assumption | (intro _) | (apply State.setReg_kept) | (apply noteHolders_kept) | (apply tasksChanged_kept)
    | (apply Kept.ite) | (apply Kept.foldl) | (apply Kept.foldl_fst) | split | (dsimp only) | (apply Kept.update))

theorem State.writeRws_kept (s : State) (d : Nat) (a : Nat) (mask : Nat) (v : Nat) {q : List Instr} (hk : Kept q s) : Kept q
    (State.writeRws s d a mask v) := by
  unfold State.writeRws
  repeat' (with_reducible first
    | assumption | (intro _) | (apply State.writeRwsAll_kept) | (apply Kept.ite) | split | (dsimp only))

theorem State.switchMould_kept (ps : List Word64) (s : State) (d : Nat) {q : List Instr} (hk : Kept q s) : Kept q
    (State.switchMould ps s d).1 := by
  unfold State.switchMould
  repeat' (with_reducible first
    | assumption | (intro _) | (apply State.writeRws_kept) | (apply Kept.ite) | split | (dsimp only))

theorem bodyMouldSwitch_kept (s : State) (h : CmdHdr) (ps : List Word64) {q : List Instr} (hk : Kept q s) : Kept q
    (bodyMouldSwitch s h ps) := by
  unfold bodyMouldSwitch
  repeat' (with_reducible first
    | assumption | (intro _) | (apply State.onDies_kept) | (apply State.switchMould_kept) | (apply Kept.ite) | split
    | (dsimp only))

theorem State.evictMould_kept (ps : List Word64) (s : State) (d : Nat) {q : List Instr} (hk : Kept q s) : Kept q
    (State.evictMould ps s d).1 := by
  unfold State.evictMould
  repeat' (with_reducible first
    | assumption | (intro _) | (apply State.modSlot_kept) | (apply State.setSlotState_kept) | (apply Kept.ite) | split
    | (dsimp only))

theorem bodyMouldEvict_kept (s : State) (h : CmdHdr) (ps : List Word64) {q : List Instr} (hk : Kept q s) : Kept q
    (bodyMouldEvict s h ps) := by
  unfold bodyMouldEvict
  repeat' (with_reducible first
    | assumption | (intro _) | (apply State.onDies_kept) | (apply State.evictMould_kept) | (apply Kept.ite) | split
    | (dsimp only))

/-! ### RegAccess -/

theorem State.regRead_kept (s : State) (who : Agent) (a : Nat) {q : List Instr} (hk : Kept q s) : Kept q (State.regRead s who
    a).1 := by
  unfold State.regRead
  repeat' (with_reducible first
    | assumption | (intro _) | (apply State.readReply_kept) | (apply State.readNow_kept) | (apply Kept.ite) | split
    | (refine Kept.of_fst (by assumption) ?_) | (refine Kept.of_snd (by assumption) ?_) | (dsimp only) | (apply Kept.update))

theorem State.codedWrite_kept (s : State) (a : Nat) (r : RegDesc) (runs : Bool) (v : Word) {q : List Instr} (hk : Kept q s) :
    Kept q (State.codedWrite s a r runs v).1 := by
  unfold State.codedWrite
  repeat' (with_reducible first
    | assumption | (intro _) | (apply State.setReg_kept) | (apply Kept.ite) | split | (dsimp only) | (apply Kept.update))

theorem State.driftClear_kept (s : State) (b : Nat) {q : List Instr} (hk : Kept q s) : Kept q (State.driftClear s b) := by
  unfold State.driftClear
  repeat' (with_reducible first
    | assumption | (intro _) | (apply State.setReg_kept) | (apply Kept.ite) | (apply Kept.foldl) | (apply Kept.foldl_fst)
    | split | (dsimp only))

theorem State.writeDsqCtrl_kept (s : State) (d : Nat) (v : Nat) {q : List Instr} (hk : Kept q s) : Kept q (State.writeDsqCtrl
    s d v) := by
  unfold State.writeDsqCtrl
  repeat' (with_reducible first
    | assumption | (intro _) | (apply State.abortDie_kept) | (apply State.stopDie_kept) | (apply State.armDie_kept)
    | (apply Kept.ite) | split | (dsimp only))

theorem State.putDsq_kept (s : State) (d : Nat) (o : Nat) (r : RegDesc) (v : Word) {q : List Instr} (hk : Kept q s) : Kept q
    (State.putDsq s d o r v).1 := by
  unfold State.putDsq
  repeat' (with_reducible first
    | assumption | (intro _) | (apply State.writeDsqCtrl_kept) | (apply State.writeTnmSlot_kept)
    | (apply State.driftClear_kept) | (apply State.codedWrite_kept) | (apply State.abandonImages_kept)
    | (apply noteHolders_kept) | (apply tasksChanged_kept) | (apply Kept.ite) | split | (dsimp only))

theorem State.writeDsq_kept (s : State) (d : Nat) (o : Nat) (r : RegDesc) (v : Word) {q : List Instr} (hk : Kept q s) : Kept q
    (State.writeDsq s d o r v).1 := by
  unfold State.writeDsq
  repeat' (with_reducible first
    | assumption | (intro _) | (apply State.putDsq_kept) | (apply State.dieBusy_kept) | (apply State.startClears_kept)
    | (apply Kept.ite) | split | (refine Kept.of_fst (by assumption) ?_) | (refine Kept.of_snd (by assumption) ?_)
    | (dsimp only) | (apply Kept.update))

theorem State.writeScr_kept (s : State) (d : Nat) (o : Nat) (r : RegDesc) (v : Word) {q : List Instr} (hk : Kept q s) : Kept q
    (State.writeScr s d o r v).1 := by
  unfold State.writeScr
  repeat' (with_reducible first
    | assumption | (intro _) | (apply State.writeScrClear_kept) | (apply State.codedWrite_kept) | (apply noteHolders_kept)
    | (apply Kept.ite) | split | (dsimp only))

theorem State.writeIpi_kept (s : State) (c : Nat) (v : Nat) {q : List Instr} (hk : Kept q s) : Kept q (State.writeIpi s c v)
    := by
  unfold State.writeIpi
  repeat' (with_reducible first
    | assumption | (intro _) | (apply State.modCore_kept) | (apply Kept.ite) | split | (dsimp only) | (apply Kept.update))

theorem State.writeCpc_kept (s : State) (who : Agent) (c : Nat) (o : Nat) (r : RegDesc) (v : Word) {q : List Instr} (hk : Kept
    q s) : Kept q (State.writeCpc s who c o r v).1 := by
  unfold State.writeCpc
  repeat' (with_reducible first
    | assumption | (intro _) | (apply State.releaseCore_kept) | (apply State.takeNmi_kept) | (apply State.writeGrainCmp_kept)
    | (apply State.writeIrqMask_kept) | (apply State.writeIpi_kept) | (apply State.codedWrite_kept) | (apply Kept.ite) | split
    | (dsimp only))

theorem State.writeCpe_kept (s : State) (who : Agent) (e : Nat) (o : Nat) (r : RegDesc) (v : Word) {q : List Instr} (hk : Kept
    q s) : Kept q (State.writeCpe s who e o r v).1 := by
  unfold State.writeCpe
  repeat' (with_reducible first
    | assumption | (intro _) | (apply State.writeDenied_kept) | (apply State.modCopy_kept) | (apply State.submitCopy_kept)
    | (apply State.codedWrite_kept) | (apply Kept.ite) | split | (dsimp only) | (apply Kept.update))

theorem State.writeSlv_kept (s : State) (who : Agent) (e : Nat) (o : Nat) (r : RegDesc) (v : Word) {q : List Instr} (hk : Kept
    q s) : Kept q (State.writeSlv s who e o r v).1 := by
  unfold State.writeSlv
  repeat' (with_reducible first
    | assumption | (intro _) | (apply State.writeDenied_kept) | (apply State.modSolver_kept) | (apply State.submitSolver_kept)
    | (apply State.codedWrite_kept) | (apply Kept.ite) | split | (dsimp only) | (apply Kept.update))

theorem State.writePrt_kept (s : State) (role : Nat) (p : Nat) (o : Nat) (r : RegDesc) (v : Word) {q : List Instr} (hk : Kept
    q s) : Kept q (State.writePrt s role p o r v).1 := by
  unfold State.writePrt
  repeat' (with_reducible first
    | assumption | (intro _) | (apply State.portEnabled_kept) | (apply State.portReleased_kept)
    | (apply State.portRetrain_kept) | (apply State.codedWrite_kept) | (apply State.modPort_kept) | (apply Kept.ite) | split
    | (dsimp only) | (apply Kept.update))

theorem State.writeFtDev_kept (s : State) (dev : Nat) (r : RegDesc) (v : Word) {q : List Instr} (hk : Kept q s) : Kept q
    (State.writeFtDev s dev r v).1 := by
  unfold State.writeFtDev
  repeat' (with_reducible first
    | assumption | (intro _) | (apply State.codedWrite_kept) | (apply Kept.ite) | split | (dsimp only) | (apply Kept.update))

theorem State.writeCh_kept (s : State) (who : Agent) (n : Nat) (o : Nat) (r : RegDesc) (v : Word) {q : List Instr} (hk : Kept
    q s) : Kept q (State.writeCh s who n o r v).1 := by
  unfold State.writeCh
  repeat' (with_reducible first
    | assumption | (intro _) | (apply State.modChan_kept) | (apply State.pushWord_kept) | (apply State.resync_kept)
    | (apply State.touchSession_kept) | (apply State.codedWrite_kept) | (apply Kept.ite) | split | (dsimp only)
    | (apply Kept.update))

theorem State.writeFabric_kept (s : State) (who : Agent) (b : Blk) (o : Nat) (a : Nat) (r : RegDesc) (v : Word) {q : List
    Instr} (hk : Kept q s) : Kept q (State.writeFabric s who b o a r v).1 := by
  unfold State.writeFabric
  repeat' (with_reducible first
    | assumption | (intro _) | (apply State.takeEntry_kept) | (apply State.driftClear_kept) | (apply State.setCap_kept)
    | (apply State.fwGo_kept) | (apply State.codedWrite_kept) | (apply State.follow_kept) | (apply Kept.ite) | split
    | (dsimp only) | (apply Kept.update))

theorem State.storeWrite_kept (s : State) (o : Nat) (data : List Byte) {q : List Instr} (hk : Kept q s) : Kept q
    (State.storeWrite s o data).1 := by
  unfold State.storeWrite
  repeat' (with_reducible first
    | assumption | (intro _) | (apply State.bump_kept) | (apply Kept.ite) | split | (dsimp only) | (apply Kept.update)
    | (apply writeBytes_wf) | (apply clearBytes_wf) | (apply writePicked_wf) | (apply canonMap_mapSet)
    | (apply canonMap_mapKeep) | (exact canonMap_nil))

theorem State.writeWord_kept (s : State) (who : Agent) (role : Nat) (a : Nat) (v : Word) {q : List Instr} (hk : Kept q s) :
    Kept q (State.writeWord s who role a v).1 := by
  unfold State.writeWord
  repeat' (with_reducible first
    | assumption | (intro _) | (apply State.storeWrite_kept) | (apply State.writeDsq_kept) | (apply State.writeScr_kept)
    | (apply State.codedWrite_kept) | (apply State.writeCpe_kept) | (apply State.driftClear_kept)
    | (apply State.writeCpc_kept) | (apply State.writeSlv_kept) | (apply State.writePrt_kept) | (apply State.writeFtDev_kept)
    | (apply State.writeCh_kept) | (apply State.writeFabric_kept) | (apply Kept.ite) | split
    | (refine Kept.of_fst (by assumption) ?_) | (refine Kept.of_snd (by assumption) ?_) | (dsimp only) | (apply Kept.update))

theorem State.newRoutes_kept (s : State) {q : List Instr} (hk : Kept q s) : Kept q (State.newRoutes s) := by
  unfold State.newRoutes
  repeat' (with_reducible first
    | assumption | (intro _) | (apply State.raiseEpoch_kept) | (apply Kept.ite) | split | (dsimp only) | (apply Kept.update))

theorem State.logOff_kept (s : State) (place : Nat) (job : Nat) (offs : List Nat) {q : List Instr} (hk : Kept q s) : Kept q
    (State.logOff s place job offs) := by
  unfold State.logOff
  repeat' (with_reducible first
    | assumption | (intro _) | (apply State.logRefused_kept) | (apply Kept.ite) | split
    | (refine Kept.of_fst (by assumption) ?_) | (refine Kept.of_snd (by assumption) ?_) | (dsimp only) | (apply Kept.update))

theorem State.logRejected_kept (s : State) (who : Agent) (a : Nat) {q : List Instr} (hk : Kept q s) : Kept q
    (State.logRejected s who a) := by
  unfold State.logRejected
  repeat' (with_reducible first
    | assumption | (intro _) | (apply State.logRefused_kept) | (apply Kept.ite) | split
    | (refine Kept.of_fst (by assumption) ?_) | (refine Kept.of_snd (by assumption) ?_) | (dsimp only) | (apply Kept.update))

theorem State.writeWords_kept (s : State) (who : Agent) (role : Nat) (a : Nat) (vs : List Word) {q : List Instr} (hk : Kept q
    s) : Kept q (State.writeWords s who role a vs).1 := by
  unfold State.writeWords
  repeat' (with_reducible first
    | assumption | (intro _) | (apply State.writeWord_kept) | (apply State.logRejected_kept) | (apply Kept.ite)
    | (apply Kept.foldl) | (apply Kept.foldl_fst) | split | (dsimp only))

theorem State.registerWrite_kept (s : State) (who : Agent) (role : Nat) (a : Nat) (wide : Bool) (v : Word64) {q : List Instr}
    (hk : Kept q s) : Kept q (State.registerWrite s who role a wide v).1 := by
  unfold State.registerWrite
  repeat' (with_reducible first
    | assumption | (intro _) | (apply State.hostUR_kept) | (apply State.logOff_kept) | (apply State.asSender_kept)
    | (apply State.writeWords_kept) | (apply State.newRoutes_kept) | (apply Kept.ite) | split
    | (refine Kept.of_fst (by assumption) ?_) | (refine Kept.of_snd (by assumption) ?_) | (dsimp only) | (apply Kept.update))

theorem State.controlRead_kept (s : State) (who : Agent) (a : Nat) (n : Nat) {q : List Instr} (hk : Kept q s) : Kept q
    (State.controlRead s who a n).1 := by
  unfold State.controlRead
  repeat' (with_reducible first
    | assumption | (intro _) | (apply State.regRead_kept) | (apply Kept.ite) | split | (refine Kept.of_fst (by assumption) ?_)
    | (refine Kept.of_snd (by assumption) ?_) | (dsimp only) | (apply Kept.update))

theorem State.asIssued_kept (s : State) (r : Req) (f : State → State) {q : List Instr} (hf : ∀ a0, Kept q a0 → Kept q (f a0))
    (hk : Kept q s) : Kept q (State.asIssued s r f) := by
  unfold State.asIssued
  repeat' (with_reducible first
    | assumption | (intro _) | (apply State.setFld_kept) | (apply hf) | (apply Kept.ite) | split
    | (refine Kept.of_fst (by assumption) ?_) | (refine Kept.of_snd (by assumption) ?_) | (dsimp only) | (apply Kept.update))

theorem State.controlAt_kept (s : State) (r : Req) (a : Nat) {q : List Instr} (hk : Kept q s) : Kept q (State.controlAt s r
    a).1 := by
  unfold State.controlAt
  repeat' (with_reducible first
    | assumption | (intro _) | (apply State.unmapped_kept) | (apply State.logOff_kept) | (apply State.controlRead_kept)
    | (apply State.asIssued_kept) | (apply State.registerWrite_kept) | (apply Kept.ite) | split
    | (refine Kept.of_fst (by assumption) ?_) | (refine Kept.of_snd (by assumption) ?_) | (dsimp only) | (apply Kept.update))

theorem State.controlAccess_kept (s : State) (r : Req) {q : List Instr} (hk : Kept q s) : Kept q (State.controlAccess s r).1
    := by
  unfold State.controlAccess
  repeat' (with_reducible first
    | assumption | (intro _) | (apply State.controlAt_kept) | (apply Kept.ite) | split | (dsimp only))

end Sys2Proof.Machine
end

