-- ==== Sys2Proof/Laws/KeptCommands.lean ====
section
/-! SUPPORT. Frame lemmas for the command bodies, strata, restore, launch, long vectors and ports: each function keeps the queue of waiting commands and the canonical form of memory,
registers and tags (`Kept`). -/

namespace Sys2Proof.Machine

/-! ### Commands -/

theorem State.sendRequest_kept (s : State) {q : List Instr} (hk : Kept q s) : Kept q (State.sendRequest s) := by
  unfold State.sendRequest
  repeat' (with_reducible first
    | assumption | (intro _) | (apply State.controlAccess_kept) | (apply State.landReq_kept) | (apply State.goesOn_kept)
    | (apply State.takeSeq_kept) | (apply State.inject_kept) | (apply Kept.ite) | split
    | (refine Kept.of_fst (by assumption) ?_) | (refine Kept.of_snd (by assumption) ?_) | (dsimp only) | (apply Kept.update))

theorem bodyNopCommand_kept (s : State) (h : CmdHdr) (u2 : List Word64) {q : List Instr} (hk : Kept q s) : Kept q
    (bodyNopCommand s h u2) := by
  unfold bodyNopCommand
  repeat' (with_reducible first
    | assumption | (intro _) | (apply State.finish_kept) | (apply Kept.ite) | split | (dsimp only))

theorem State.armUnit_kept (ps : List Word64) (s : State) (d : Nat) {q : List Instr} (hk : Kept q s) : Kept q (State.armUnit
    ps s d).1 := by
  unfold State.armUnit
  repeat' (with_reducible first
    | assumption | (intro _) | (apply State.dieBusy_kept) | (apply State.setReg64_kept) | (apply State.armDie_kept)
    | (apply Kept.ite) | split | (dsimp only))

theorem bodyUnitArm_kept (s : State) (h : CmdHdr) (ps : List Word64) {q : List Instr} (hk : Kept q s) : Kept q (bodyUnitArm s
    h ps) := by
  unfold bodyUnitArm
  repeat' (with_reducible first
    | assumption | (intro _) | (apply State.onDies_kept) | (apply State.armUnit_kept) | (apply Kept.ite) | split
    | (dsimp only))

theorem bodyUnitStop_kept (s : State) (h : CmdHdr) (u2 : List Word64) {q : List Instr} (hk : Kept q s) : Kept q (bodyUnitStop
    s h u2) := by
  unfold bodyUnitStop
  repeat' (with_reducible first
    | assumption | (intro _) | (apply State.onDies_kept) | (apply State.stopDie_kept) | (apply Kept.ite) | split
    | (dsimp only))

theorem bodyUnitAbort_kept (s : State) (h : CmdHdr) (u2 : List Word64) {q : List Instr} (hk : Kept q s) : Kept q
    (bodyUnitAbort s h u2) := by
  unfold bodyUnitAbort
  repeat' (with_reducible first
    | assumption | (intro _) | (apply State.onDies_kept) | (apply State.abortDie_kept) | (apply Kept.ite) | split
    | (dsimp only))

theorem bodyRegRead_kept (s : State) (h : CmdHdr) (ps : List Word64) {q : List Instr} (hk : Kept q s) : Kept q (bodyRegRead s
    h ps) := by
  unfold bodyRegRead
  repeat' (with_reducible first
    | assumption | (intro _) | (apply State.logOff_kept) | (apply State.finish_kept) | (apply State.regRead_kept)
    | (apply Kept.ite) | (apply Kept.foldl) | (apply Kept.foldl_fst) | split | (dsimp only))

theorem State.regWrites_kept (s : State) (role : Nat) (as : List Nat) (vs : List Word) {q : List Instr} (hk : Kept q s) : Kept
    q (State.regWrites s role as vs).1 := by
  unfold State.regWrites
  repeat' (with_reducible first
    | assumption | (intro _) | (apply State.chanDenied_kept) | (apply State.writeWords_kept) | (apply State.newRoutes_kept)
    | (apply Kept.ite) | (apply Kept.foldl) | (apply Kept.foldl_fst) | split | (refine Kept.of_fst (by assumption) ?_)
    | (refine Kept.of_snd (by assumption) ?_) | (dsimp only) | (apply Kept.update))

theorem bodyRegWrite_kept (s : State) (h : CmdHdr) (ps : List Word64) {q : List Instr} (hk : Kept q s) : Kept q (bodyRegWrite
    s h ps) := by
  unfold bodyRegWrite
  repeat' (with_reducible first
    | assumption | (intro _) | (apply State.logOff_kept) | (apply State.finish_kept) | (apply State.regWrites_kept)
    | (apply Kept.ite) | split | (dsimp only))

theorem State.putTask_kept (s : State) (d : Nat) (ps : List Word64) {q : List Instr} (hk : Kept q s) : Kept q (State.putTask s
    d ps) := by
  unfold State.putTask
  repeat' (with_reducible first
    | assumption | (intro _) | (apply State.writeRwsAll_kept) | (apply Kept.ite) | split | (dsimp only))

theorem State.setTask_kept (h : CmdHdr) (ps : List Word64) (s : State) (d : Nat) {q : List Instr} (hk : Kept q s) : Kept q
    (State.setTask h ps s d).1 := by
  unfold State.setTask
  repeat' (with_reducible first
    | assumption | (intro _) | (apply State.putTask_kept) | (apply State.dieBusy_kept) | (apply State.startClears_kept)
    | (apply Kept.ite) | split | (refine Kept.of_fst (by assumption) ?_) | (refine Kept.of_snd (by assumption) ?_)
    | (dsimp only) | (apply Kept.update))

theorem State.putHeld_kept (s : State) (d : Nat) (o : Nat) (v : Word) {q : List Instr} (hk : Kept q s) : Kept q (State.putHeld
    s d o v) := by
  unfold State.putHeld
  repeat' (with_reducible first
    | assumption | (intro _) | (apply State.putDsq_kept) | (apply Kept.ite) | split | (refine Kept.of_fst (by assumption) ?_)
    | (refine Kept.of_snd (by assumption) ?_) | (dsimp only) | (apply Kept.update))

theorem State.finishClear_kept (s : State) (d : Nat) {q : List Instr} (hk : Kept q s) : Kept q (State.finishClear s d) := by
  unfold State.finishClear
  repeat' (with_reducible first
    | assumption | (intro _) | (apply State.modDie_kept) | (apply noteHolders_kept) | (apply State.putTask_kept)
    | (apply State.partDone_kept) | (apply State.putHeld_kept) | (apply Kept.ite) | split
    | (refine Kept.of_fst (by assumption) ?_) | (refine Kept.of_snd (by assumption) ?_) | (dsimp only) | (apply Kept.update))

theorem bodyTaskSet_kept (s : State) (h : CmdHdr) (ps : List Word64) {q : List Instr} (hk : Kept q s) : Kept q (bodyTaskSet s
    h ps) := by
  unfold bodyTaskSet
  repeat' (with_reducible first
    | assumption | (intro _) | (apply State.onDies_kept) | (apply State.setTask_kept) | (apply Kept.ite) | split
    | (dsimp only))

theorem State.setModes_kept (ps : List Word64) (s : State) (d : Nat) {q : List Instr} (hk : Kept q s) : Kept q (State.setModes
    ps s d).1 := by
  unfold State.setModes
  repeat' (with_reducible first
    | assumption | (intro _) | (apply State.writeRws_kept) | (apply Kept.ite) | (apply Kept.foldl) | (apply Kept.foldl_fst)
    | split | (dsimp only))

theorem bodyModeSet_kept (s : State) (h : CmdHdr) (ps : List Word64) {q : List Instr} (hk : Kept q s) : Kept q (bodyModeSet s
    h ps) := by
  unfold bodyModeSet
  repeat' (with_reducible first
    | assumption | (intro _) | (apply State.onDies_kept) | (apply State.setModes_kept) | (apply Kept.ite) | split
    | (dsimp only))

theorem State.clearUnit_kept (ps : List Word64) (s : State) (d : Nat) {q : List Instr} (hk : Kept q s) : Kept q
    (State.clearUnit ps s d).1 := by
  unfold State.clearUnit
  repeat' (with_reducible first
    | assumption | (intro _) | (apply State.writeScrClear_kept) | (apply Kept.ite) | split | (dsimp only))

theorem bodyScrClear_kept (s : State) (h : CmdHdr) (ps : List Word64) {q : List Instr} (hk : Kept q s) : Kept q (bodyScrClear
    s h ps) := by
  unfold bodyScrClear
  repeat' (with_reducible first
    | assumption | (intro _) | (apply State.onDies_kept) | (apply State.clearUnit_kept) | (apply Kept.ite) | split
    | (dsimp only))

theorem State.cmdAccesses_kept (s : State) (h : CmdHdr) (opcode : Nat) (rs : List Req) {q : List Instr} (hk : Kept q s) : Kept
    q (State.cmdAccesses s h opcode rs) := by
  unfold State.cmdAccesses
  repeat' (with_reducible first
    | assumption | (intro _) | (apply State.finish_kept) | (apply State.setCmd_kept) | (apply State.issueReqs_kept)
    | (apply Kept.ite) | split | (dsimp only) | (apply Kept.update))

theorem bodyMemRead_kept (s : State) (h : CmdHdr) (ps : List Word64) {q : List Instr} (hk : Kept q s) : Kept q (bodyMemRead s
    h ps) := by
  unfold bodyMemRead
  repeat' (with_reducible first
    | assumption | (intro _) | (apply State.finish_kept) | (apply State.cmdAccesses_kept) | (apply Kept.ite) | split
    | (dsimp only))

theorem bodyMemWrite_kept (s : State) (h : CmdHdr) (ps : List Word64) {q : List Instr} (hk : Kept q s) : Kept q (bodyMemWrite
    s h ps) := by
  unfold bodyMemWrite
  repeat' (with_reducible first
    | assumption | (intro _) | (apply State.cmdAccesses_kept) | (apply Kept.ite) | split | (dsimp only))

theorem bodyMemFill_kept (s : State) (h : CmdHdr) (ps : List Word64) {q : List Instr} (hk : Kept q s) : Kept q (bodyMemFill s
    h ps) := by
  unfold bodyMemFill
  repeat' (with_reducible first
    | assumption | (intro _) | (apply State.finish_kept) | (apply State.cmdAccesses_kept) | (apply Kept.ite) | split
    | (dsimp only))

theorem bodyCopyCommand_kept (s : State) (h : CmdHdr) (ps : List Word64) {q : List Instr} (hk : Kept q s) : Kept q
    (bodyCopyCommand s h ps) := by
  unfold bodyCopyCommand
  repeat' (with_reducible first
    | assumption | (intro _) | (apply State.finish_kept) | (apply State.modCopy_kept) | (apply Kept.ite) | split
    | (dsimp only) | (apply Kept.update))

theorem bodyMrtWrite_kept (s : State) (h : CmdHdr) (ps : List Word64) {q : List Instr} (hk : Kept q s) : Kept q (bodyMrtWrite
    s h ps) := by
  unfold bodyMrtWrite
  repeat' (with_reducible first
    | assumption | (intro _) | (apply State.finish_kept) | (apply State.setReg_kept) | (apply Kept.ite) | (apply Kept.foldl)
    | (apply Kept.foldl_fst) | split | (dsimp only))

theorem bodyTbConfig_kept (s : State) (h : CmdHdr) (ps : List Word64) {q : List Instr} (hk : Kept q s) : Kept q (bodyTbConfig
    s h ps) := by
  unfold bodyTbConfig
  repeat' (with_reducible first
    | assumption | (intro _) | (apply State.logRejected_kept) | (apply State.finish_kept) | (apply State.setFld_kept)
    | (apply State.setReg64_kept) | (apply Kept.ite) | split | (dsimp only))

theorem bodyTbRelease_kept (s : State) (h : CmdHdr) (u2 : List Word64) {q : List Instr} (hk : Kept q s) : Kept q
    (bodyTbRelease s h u2) := by
  unfold bodyTbRelease
  repeat' (with_reducible first
    | assumption | (intro _) | (apply State.finish_kept) | (apply State.gmLock_kept) | (apply Kept.ite) | split | (dsimp only))

theorem bodyTbRead_kept (s : State) (h : CmdHdr) (u2 : List Word64) {q : List Instr} (hk : Kept q s) : Kept q (bodyTbRead s h
    u2) := by
  unfold bodyTbRead
  repeat' (with_reducible first
    | assumption | (intro _) | (apply State.finish_kept) | (apply Kept.ite) | split | (dsimp only))

theorem bodyEvtSubscribe_kept (s : State) (h : CmdHdr) (ps : List Word64) {q : List Instr} (hk : Kept q s) : Kept q
    (bodyEvtSubscribe s h ps) := by
  unfold bodyEvtSubscribe
  repeat' (with_reducible first
    | assumption | (intro _) | (apply State.finish_kept) | (apply State.modChan_kept) | (apply Kept.ite) | split
    | (dsimp only) | (apply Kept.update))

/-! ### Telemetry -/

theorem State.counterPart_kept (set : Nat) (atCut : Bool) (h : CmdHdr) (s : State) (d : Nat) {q : List Instr} (hk : Kept q s)
    : Kept q (State.counterPart set atCut h s d).1 := by
  unfold State.counterPart
  repeat' (with_reducible first
    | assumption | (intro _) | (apply State.modDie_kept) | (apply Kept.ite) | split | (dsimp only) | (apply Kept.update))

theorem bodyCountersRead_kept (s : State) (h : CmdHdr) (ps : List Word64) {q : List Instr} (hk : Kept q s) : Kept q
    (bodyCountersRead s h ps) := by
  unfold bodyCountersRead
  repeat' (with_reducible first
    | assumption | (intro _) | (apply State.finish_kept) | (apply State.setCmd_kept) | (apply State.diePart_kept)
    | (apply State.counterPart_kept) | (apply Kept.ite) | (apply Kept.foldl) | (apply Kept.foldl_fst) | split | (dsimp only)
    | (apply Kept.update))

theorem State.cutCounters_kept (s : State) (d : Nat) {q : List Instr} (hk : Kept q s) : Kept q (State.cutCounters s d) := by
  unfold State.cutCounters
  repeat' (with_reducible first
    | assumption | (intro _) | (apply State.partDone_kept) | (apply State.modDie_kept) | (apply Kept.ite) | (apply Kept.foldl)
    | (apply Kept.foldl_fst) | split | (dsimp only) | (apply Kept.update))

theorem bodyJournalRead_kept (s : State) (h : CmdHdr) (ps : List Word64) {q : List Instr} (hk : Kept q s) : Kept q
    (bodyJournalRead s h ps) := by
  unfold bodyJournalRead
  repeat' (with_reducible first
    | assumption | (intro _) | (apply State.finish_kept) | (apply Kept.ite) | split | (dsimp only))

theorem bodyJournalClear_kept (s : State) (h : CmdHdr) (u2 : List Word64) {q : List Instr} (hk : Kept q s) : Kept q
    (bodyJournalClear s h u2) := by
  unfold bodyJournalClear
  repeat' (with_reducible first
    | assumption | (intro _) | (apply State.ring_kept) | (apply State.finish_kept) | (apply Kept.ite) | split | (dsimp only)
    | (apply Kept.update))

theorem State.journalPersist_kept (s : State) {q : List Instr} (hk : Kept q s) : Kept q (State.journalPersist s) := by
  unfold State.journalPersist
  repeat' (with_reducible first
    | assumption | (intro _) | (apply Kept.ite) | split | (refine Kept.of_fst (by assumption) ?_)
    | (refine Kept.of_snd (by assumption) ?_) | (dsimp only) | (apply Kept.update))

/-! ### Strata -/

theorem State.writeCaps_kept (s : State) (d : Nat) (m : List (Nat × Nat)) (c : List (Nat × Nat)) {q : List Instr} (hk : Kept q
    s) : Kept q (State.writeCaps s d m c) := by
  unfold State.writeCaps
  repeat' (with_reducible first
    | assumption | (intro _) | (apply State.setFld_kept) | (apply Kept.ite) | (apply Kept.foldl) | (apply Kept.foldl_fst)
    | split | (dsimp only))

theorem bodyStratumConfig_kept (s : State) (h : CmdHdr) (ps : List Word64) {q : List Instr} (hk : Kept q s) : Kept q
    (bodyStratumConfig s h ps) := by
  unfold bodyStratumConfig
  repeat' (with_reducible first
    | assumption | (intro _) | (apply State.readFor_kept) | (apply State.finish_kept) | (apply State.modStrata_kept)
    | (apply Kept.ite) | split | (refine Kept.of_fst (by assumption) ?_) | (refine Kept.of_snd (by assumption) ?_)
    | (dsimp only) | (apply Kept.update))

theorem bodyStratumTensor_kept (s : State) (h : CmdHdr) (ps : List Word64) {q : List Instr} (hk : Kept q s) : Kept q
    (bodyStratumTensor s h ps) := by
  unfold bodyStratumTensor
  repeat' (with_reducible first
    | assumption | (intro _) | (apply State.finish_kept) | (apply State.writeCaps_kept) | (apply State.modStrata_kept)
    | (apply Kept.ite) | (apply Kept.foldl) | (apply Kept.foldl_fst) | split | (dsimp only) | (apply Kept.update))

theorem bodyStratumList_kept (s : State) (h : CmdHdr) (ps : List Word64) {q : List Instr} (hk : Kept q s) : Kept q
    (bodyStratumList s h ps) := by
  unfold bodyStratumList
  repeat' (with_reducible first
    | assumption | (intro _) | (apply State.finish_kept) | (apply Kept.ite) | split | (dsimp only))

theorem State.mgmtPut_kept (s : State) (job : Nat) (place : Nat) (off : Nat) (data : List Byte) {q : List Instr} (hk : Kept q
    s) : Kept q (State.mgmtPut s job place off data) := by
  unfold State.mgmtPut
  repeat' (with_reducible first
    | assumption | (intro _) | (apply State.sendMgmt_kept) | (apply Kept.ite) | split | (dsimp only))

theorem State.writeDue_kept (s : State) (d : Nat) (step : Nat) (bedrock : Bool) {q : List Instr} (hk : Kept q s) : Kept q
    (State.writeDue s d step bedrock) := by
  unfold State.writeDue
  repeat' (with_reducible first
    | assumption | (intro _) | (apply State.writeRws_kept) | (apply Kept.ite) | split | (dsimp only))

theorem State.dropStratum_kept (s : State) (job : Nat) {q : List Instr} (hk : Kept q s) : Kept q (State.dropStratum s job) :=
    by
  unfold State.dropStratum
  repeat' (with_reducible first
    | assumption | (intro _) | (apply State.modStrata_kept) | (apply Kept.ite) | split
    | (refine Kept.of_fst (by assumption) ?_) | (refine Kept.of_snd (by assumption) ?_) | (dsimp only) | (apply Kept.update))

theorem State.abandonHere_kept (s : State) (job : Nat) {q : List Instr} (hk : Kept q s) : Kept q (State.abandonHere s job) :=
    by
  unfold State.abandonHere
  repeat' (with_reducible first
    | assumption | (intro _) | (apply State.abandonImages_kept) | (apply State.dropStratum_kept) | (apply Kept.ite)
    | (apply Kept.foldl) | (apply Kept.foldl_fst) | split | (refine Kept.of_fst (by assumption) ?_)
    | (refine Kept.of_snd (by assumption) ?_) | (dsimp only) | (apply Kept.update))

theorem State.abandonStratum_kept (s : State) (job : Nat) (st : Nat) {q : List Instr} (hk : Kept q s) : Kept q
    (State.abandonStratum s job st) := by
  unfold State.abandonStratum
  repeat' (with_reducible first
    | assumption | (intro _) | (apply State.mgmtPut_kept) | (apply State.abandonHere_kept) | (apply State.finish_kept)
    | (apply Kept.ite) | (apply Kept.foldl) | (apply Kept.foldl_fst) | split | (refine Kept.of_fst (by assumption) ?_)
    | (refine Kept.of_snd (by assumption) ?_) | (dsimp only) | (apply Kept.update))

theorem bodyStratumAbandon_kept (s : State) (h : CmdHdr) (u2 : List Word64) {q : List Instr} (hk : Kept q s) : Kept q
    (bodyStratumAbandon s h u2) := by
  unfold bodyStratumAbandon
  repeat' (with_reducible first
    | assumption | (intro _) | (apply State.abandonStratum_kept) | (apply State.abandonHere_kept) | (apply State.finish_kept)
    | (apply Kept.ite) | split | (dsimp only))

theorem State.openStratum_kept (s : State) (job : Nat) (step : Nat) (bedrock : Bool) (cmd : Option CmdHdr) {q : List Instr}
    (hk : Kept q s) : Kept q (State.openStratum s job step bedrock cmd) := by
  unfold State.openStratum
  repeat' (with_reducible first
    | assumption | (intro _) | (apply State.modStrata_kept) | (apply Kept.ite) | split | (dsimp only) | (apply Kept.update))

theorem State.armBusy_kept (s : State) (job : Nat) {q : List Instr} (hk : Kept q s) : Kept q (State.armBusy s job) := by
  unfold State.armBusy
  repeat' (with_reducible first
    | assumption | (intro _) | (apply State.log_kept) | (apply Kept.ite) | split | (dsimp only))

theorem State.armStratum_kept (s : State) (job : Nat) (step : Nat) (asked : Bool) (cmd : Option CmdHdr) {q : List Instr} (hk :
    Kept q s) : Kept q (State.armStratum s job step asked cmd) := by
  unfold State.armStratum
  repeat' (with_reducible first
    | assumption | (intro _) | (apply State.armBusy_kept) | (apply State.finish_kept) | (apply State.openStratum_kept)
    | (apply State.mgmtPut_kept) | (apply State.abandonStratum_kept) | (apply State.writeDue_kept) | (apply Kept.ite)
    | (apply Kept.foldl) | (apply Kept.foldl_fst) | split | (refine Kept.of_fst (by assumption) ?_)
    | (refine Kept.of_snd (by assumption) ?_) | (dsimp only) | (apply Kept.update))

theorem bodyStratumArm_kept (s : State) (h : CmdHdr) (ps : List Word64) {q : List Instr} (hk : Kept q s) : Kept q
    (bodyStratumArm s h ps) := by
  unfold bodyStratumArm
  repeat' (with_reducible first
    | assumption | (intro _) | (apply State.finish_kept) | (apply State.armStratum_kept) | (apply Kept.ite) | split
    | (dsimp only))

theorem State.memberDue_kept (s : State) (job : Nat) (d : Nat) (step : Nat) {q : List Instr} (hk : Kept q s) : Kept q
    (State.memberDue s job d step).1 := by
  unfold State.memberDue
  repeat' (with_reducible first
    | assumption | (intro _) | (apply State.openStratum_kept) | (apply State.writeRws_kept) | (apply Kept.ite) | split
    | (dsimp only))

theorem State.strTimer_kept (s : State) (job : Nat) {q : List Instr} (hk : Kept q s) : Kept q (State.strTimer s job) := by
  unfold State.strTimer
  repeat' (with_reducible first
    | assumption | (intro _) | (apply State.modStrata_kept) | (apply State.armStratum_kept) | (apply Kept.ite) | split
    | (refine Kept.of_fst (by assumption) ?_) | (refine Kept.of_snd (by assumption) ?_) | (dsimp only) | (apply Kept.update))

theorem State.noteClose_kept (s : State) (d : Nat) (job : Nat) (step : Nat) (refused : Bool) {q : List Instr} (hk : Kept q s)
    : Kept q (State.noteClose s d job step refused) := by
  unfold State.noteClose
  repeat' (with_reducible first
    | assumption | (intro _) | (apply State.modOpen_kept) | (apply State.abandonStratum_kept) | (apply Kept.ite) | split
    | (refine Kept.of_fst (by assumption) ?_) | (refine Kept.of_snd (by assumption) ?_) | (dsimp only) | (apply Kept.update))

theorem State.autoArm_kept (s : State) (d : Nat) (job : Nat) {q : List Instr} (hk : Kept q s) : Kept q (State.autoArm s d job)
    := by
  unfold State.autoArm
  repeat' (with_reducible first
    | assumption | (intro _) | (apply State.armStratum_kept) | (apply State.modStrata_kept) | (apply Kept.ite) | split
    | (dsimp only) | (apply Kept.update))

theorem State.stepCut_kept (s : State) (d : Nat) {q : List Instr} (hk : Kept q s) : Kept q (State.stepCut s d) := by
  unfold State.stepCut
  repeat' (with_reducible first
    | assumption | (intro _) | (apply State.cutCommit_kept) | (apply State.cutCounters_kept) | (apply State.cutFinish_kept)
    | (apply State.noteClose_kept) | (apply State.autoArm_kept) | (apply Kept.ite) | (apply Kept.foldl)
    | (apply Kept.foldl_fst) | split | (dsimp only))

theorem State.keepExtents_kept (s : State) (job : Nat) (n : Nat) (o : StrOpen) (a : Nat) {q : List Instr} (hk : Kept q s) :
    Kept q (State.keepExtents s job n o a) := by
  unfold State.keepExtents
  repeat' (with_reducible first
    | assumption | (intro _) | (apply State.modStrata_kept) | (apply Kept.ite) | split | (dsimp only) | (apply Kept.update))

theorem State.withExtents_kept (s : State) (job n : Nat) (o : StrOpen) (refuse : State → State) (take : State → Nat → State)
    (a : Option Nat) {q : List Instr} (hr : ∀ s, Kept q s → Kept q (refuse s)) (ht : ∀ s a, Kept q s → Kept q (take s a))
    (hk : Kept q s) : Kept q (State.withExtents s job n o refuse take a) := by
  cases a with
  | none => exact hr _ hk
  | some a => exact ht _ _ (State.keepExtents_kept _ _ _ _ _ hk)

theorem State.strWrite_kept (s : State) (job : Nat) (ga : Nat) (data : List Byte) (bad : List Bool) (shard : Bool) (flag :
    Bool) {q : List Instr} (hk : Kept q s) : Kept q (State.strWrite s job ga data bad shard flag) := by
  unfold State.strWrite
  repeat' (with_reducible first
    | assumption | (intro _) | (apply State.modOpen_kept) | (apply State.issueReqs_kept) | (apply Kept.ite) | split
    | (dsimp only) | (apply Kept.update))

theorem State.formShards_kept (s : State) (job : Nat) (o : StrOpen) {q : List Instr} (hk : Kept q s) : Kept q
    (State.formShards s job o) := by
  unfold State.formShards
  repeat' (with_reducible first
    | assumption | (intro _) | (apply State.modOpen_kept) | (apply Kept.ite) | split | (dsimp only) | (apply Kept.update))

theorem State.digestRead_kept (s : State) (unit : Nat) (scratch : Bool) (cut : Bool) (g : Nat) {q : List Instr} (hk : Kept q
    s) : Kept q (State.digestRead s unit scratch cut g).1 := by
  unfold State.digestRead
  repeat' (with_reducible first
    | assumption | (intro _) | (apply State.cutReadScr_kept) | (apply State.cutReadMem_kept) | (apply State.meetGranule_kept)
    | (apply Kept.ite) | split | (refine Kept.of_fst (by assumption) ?_) | (refine Kept.of_snd (by assumption) ?_)
    | (dsimp only) | (apply Kept.update))

theorem State.digestReads_kept (s : State) (q0 : DigestJob) (scratch : Bool) {q : List Instr} (hk : Kept q s) : Kept q
    (State.digestReads s q0 scratch).1 := by
  unfold State.digestReads
  repeat' (with_reducible first
    | assumption | (intro _) | (apply State.digestRead_kept) | (apply Kept.ite) | (apply Kept.foldl) | (apply Kept.foldl_fst)
    | split | (dsimp only))

theorem State.leafDone_kept (s : State) (job : Nat) (o : StrOpen) (writes : Bool) (leaf : Leaf) (bytes : List Byte) (bad :
    List Bool) {q : List Instr} (hk : Kept q s) : Kept q (State.leafDone s job o writes leaf bytes bad) := by
  unfold State.leafDone
  repeat' (with_reducible first
    | assumption | (intro _) | (apply State.modOpen_kept) | (apply State.withExtents_kept) | (apply State.strWrite_kept)
    | (apply Kept.ite) | split | (dsimp only) | (apply Kept.update))

theorem digestLeaf_kept (u : DigestJob) (o : StrOpen) (e : List Word) (ofs : Nat) (y : State × FMap (List Byte × List Bool))
    {q : List Instr} (hk : Kept q y.1) : Kept q (digestLeaf u o e ofs y) := by
  unfold digestLeaf
  exact State.leafDone_kept _ _ _ _ _ _ _ hk

theorem State.digestHome_kept (s : State) (u : DigestJob) (o : StrOpen) (e : List Word) (x : Option (Nat × Bool × Nat))
    {q : List Instr} (hk : Kept q s) : Kept q (State.digestHome s u o e x) := by
  cases x with
  | none => exact hk
  | some x => exact digestLeaf_kept _ _ _ _ _ (State.digestReads_kept _ _ _ hk)

theorem State.digestPiece_kept (s : State) (u : DigestJob) (x : Option StrOpen) (e : Option (List Word))
    {q : List Instr} (hk : Kept q s) : Kept q (State.digestPiece s u x e) := by
  cases x <;> cases e
  all_goals first
    | exact hk
    | exact State.digestHome_kept _ _ _ _ _ hk

theorem State.digestDone_kept (s : State) (q0 : DigestJob) {q : List Instr} (hk : Kept q s) : Kept q (State.digestDone s q0)
    := by
  unfold State.digestDone
  repeat' (with_reducible first
    | assumption | (intro _) | (apply State.digestPiece_kept) | (apply Kept.ite) | split | (dsimp only))

theorem State.ctlCall_kept (s : State) (job : Nat) (op : Nat) (dt : Nat) (red : Nat) (team : Nat) (r : Nat) (tag : Nat) (count
    : Nat) (operand : Nat) (buf : List Byte) {q : List Instr} (hk : Kept q s) : Kept q (State.ctlCall s job op dt red team r tag
    count operand buf) := by
  unfold State.ctlCall
  repeat' (with_reducible first
    | assumption | (intro _) | (apply State.ctlResult_kept) | (apply State.enterCall_kept) | (apply Kept.ite) | split
    | (refine Kept.of_fst (by assumption) ?_) | (refine Kept.of_snd (by assumption) ?_) | (dsimp only) | (apply Kept.update))

theorem State.compareReplicas_kept (s : State) (job : Nat) (o : StrOpen) {q : List Instr} (hk : Kept q s) : Kept q
    (State.compareReplicas s job o) := by
  unfold State.compareReplicas
  repeat' (with_reducible first
    | assumption | (intro _) | (apply State.modOpen_kept) | (apply State.ctlCall_kept) | (apply Kept.ite) | (apply Kept.foldl)
    | (apply Kept.foldl_fst) | split | (dsimp only) | (apply Kept.update))

theorem State.writeLeaves_kept (s : State) (job : Nat) (o : StrOpen) {q : List Instr} (hk : Kept q s) : Kept q
    (State.writeLeaves s job o) := by
  unfold State.writeLeaves
  repeat' (with_reducible first
    | assumption | (intro _) | (apply State.withExtents_kept) | (apply State.modOpen_kept) | (apply State.strWrite_kept)
    | (apply Kept.ite) | split | (dsimp only) | (apply Kept.update))

theorem State.enterVote_kept (s : State) (job : Nat) (o : StrOpen) {q : List Instr} (hk : Kept q s) : Kept q (State.enterVote
    s job o) := by
  unfold State.enterVote
  repeat' (with_reducible first
    | assumption | (intro _) | (apply State.modOpen_kept) | (apply State.strWrite_kept) | (apply State.ctlCall_kept)
    | (apply Kept.ite) | split | (refine Kept.of_fst (by assumption) ?_) | (refine Kept.of_snd (by assumption) ?_)
    | (dsimp only) | (apply Kept.update))

theorem State.compared_kept (s : State) (job : Nat) (o : StrOpen) {q : List Instr} (hk : Kept q s) : Kept q (State.compared s
    job o) := by
  unfold State.compared
  repeat' (with_reducible first
    | assumption | (intro _) | (apply State.abandonStratum_kept) | (apply State.modOpen_kept) | (apply State.writeLeaves_kept)
    | (apply Kept.ite) | (apply Kept.foldl) | (apply Kept.foldl_fst) | split | (dsimp only) | (apply Kept.update))

theorem State.strProgress_kept (job : Nat) {q : List Instr} :
    ∀ (n : Nat) (s : State), Kept q s → Kept q (State.strProgress s job n)
  | 0, _, h => h
  | n + 1, s, h => by
    unfold State.strProgress
    repeat' (with_reducible first
      | assumption | (apply State.strProgress_kept) | (apply State.formShards_kept) | (apply State.compareReplicas_kept)
      | (apply State.compared_kept) | (apply State.enterVote_kept) | (apply Kept.ite) | split | (dsimp only))

theorem State.digestJobDone_kept (s : State) (unit : Nat) {q : List Instr} (hk : Kept q s) : Kept q (State.digestJobDone s
    unit) := by
  unfold State.digestJobDone
  repeat' (with_reducible first
    | assumption | (intro _) | (apply State.digestDone_kept) | (apply State.strProgress_kept) | (apply Kept.ite) | split
    | (refine Kept.of_fst (by assumption) ?_) | (refine Kept.of_snd (by assumption) ?_) | (dsimp only) | (apply Kept.update))

theorem State.noteFailure_kept (s : State) (job : Nat) {q : List Instr} (hk : Kept q s) : Kept q (State.noteFailure s job) :=
    by
  unfold State.noteFailure
  repeat' (with_reducible first
    | assumption | (intro _) | (apply State.modStrata_kept) | (apply Kept.ite) | split | (dsimp only) | (apply Kept.update))

theorem State.commitHere_kept (s : State) (job : Nat) (addr : Nat) {q : List Instr} (hk : Kept q s) : Kept q (State.commitHere
    s job addr) := by
  unfold State.commitHere
  repeat' (with_reducible first
    | assumption | (intro _) | (apply State.modStrata_kept) | (apply Kept.ite) | split
    | (refine Kept.of_fst (by assumption) ?_) | (refine Kept.of_snd (by assumption) ?_) | (dsimp only) | (apply Kept.update))

theorem bodyStratumCommitted_kept (s : State) (h : CmdHdr) (ps : List Word64) {q : List Instr} (hk : Kept q s) : Kept q
    (bodyStratumCommitted s h ps) := by
  unfold bodyStratumCommitted
  repeat' (with_reducible first
    | assumption | (intro _) | (apply State.finish_kept) | (apply State.commitHere_kept) | (apply Kept.ite) | split
    | (dsimp only))

theorem State.sendCommitted_kept (s : State) (job : Nat) (addr : Nat) (place : Nat) {q : List Instr} (hk : Kept q s) : Kept q
    (State.sendCommitted s job addr place) := by
  unfold State.sendCommitted
  repeat' (with_reducible first
    | assumption | (intro _) | (apply State.launch_kept) | (apply State.sendMgmt_kept) | (apply Kept.ite) | split
    | (dsimp only))

theorem State.releaseSlots_kept (s : State) (job : Nat) (column : Nat) {q : List Instr} (hk : Kept q s) : Kept q
    (State.releaseSlots s job column) := by
  unfold State.releaseSlots
  repeat' (with_reducible first
    | assumption | (intro _) | (apply State.modStrata_kept) | (apply State.strWrite_kept) | (apply Kept.ite)
    | (apply Kept.foldl) | (apply Kept.foldl_fst) | split | (dsimp only) | (apply Kept.update))

theorem State.commitDone_kept (s : State) (job : Nat) (o : StrOpen) {q : List Instr} (hk : Kept q s) : Kept q
    (State.commitDone s job o) := by
  unfold State.commitDone
  repeat' (with_reducible first
    | assumption | (intro _) | (apply State.sendCommitted_kept) | (apply State.commitHere_kept)
    | (apply State.releaseSlots_kept) | (apply State.modStrata_kept) | (apply State.finish_kept) | (apply Kept.ite)
    | (apply Kept.foldl) | (apply Kept.foldl_fst) | split | (refine Kept.of_fst (by assumption) ?_)
    | (refine Kept.of_snd (by assumption) ?_) | (dsimp only) | (apply Kept.update))

theorem State.voteEnded_kept (s : State) (job : Nat) (o : StrOpen) {q : List Instr} (hk : Kept q s) : Kept q (State.voteEnded
    s job o) := by
  unfold State.voteEnded
  repeat' (with_reducible first
    | assumption | (intro _) | (apply State.noteFailure_kept) | (apply State.abandonStratum_kept) | (apply State.log_kept)
    | (apply State.modOpen_kept) | (apply State.strWrite_kept) | (apply Kept.ite) | (apply Kept.foldl)
    | (apply Kept.foldl_fst) | split | (refine Kept.of_fst (by assumption) ?_) | (refine Kept.of_snd (by assumption) ?_)
    | (dsimp only) | (apply Kept.update))

theorem State.writeRecord_kept (s : State) (job : Nat) (o : StrOpen) {q : List Instr} (hk : Kept q s) : Kept q
    (State.writeRecord s job o) := by
  unfold State.writeRecord
  repeat' (with_reducible first
    | assumption | (intro _) | (apply State.readWith_kept) | (apply State.modStrata_kept) | (apply State.modOpen_kept)
    | (apply State.strWrite_kept) | (apply State.abandonStratum_kept) | (apply Kept.ite) | split
    | (refine Kept.of_fst (by assumption) ?_) | (refine Kept.of_snd (by assumption) ?_) | (dsimp only) | (apply Kept.update))

theorem State.strCommit_kept (job : Nat) {q : List Instr} :
    ∀ (n : Nat) (s : State), Kept q s → Kept q (State.strCommit s job n)
  | 0, _, h => h
  | n + 1, s, h => by
    unfold State.strCommit
    repeat' (with_reducible first
      | assumption | (apply State.strCommit_kept) | (apply State.voteEnded_kept) | (apply State.writeRecord_kept)
      | (apply State.commitDone_kept) | (apply Kept.ite) | split | (dsimp only))

/-! ### Restore -/

theorem State.restoreRead_kept (s : State) (h : CmdHdr) (ga : Nat) (n : Nat) {q : List Instr} (hk : Kept q s) : Kept q
    (State.restoreRead s h ga n).1 := by
  unfold State.restoreRead
  repeat' (with_reducible first
    | assumption | (intro _) | (apply State.readFor_kept) | (apply Kept.ite) | split | (refine Kept.of_fst (by assumption) ?_)
    | (refine Kept.of_snd (by assumption) ?_) | (dsimp only) | (apply Kept.update))

theorem State.verifyShard_kept (h : CmdHdr) (r : CommitRec) (place : Nat) (x : State × Gathered) (leaf : List Byte)
    {q : List Instr} (hk : Kept q x.1) : Kept q (State.verifyShard h r place x leaf).1 := by
  unfold State.verifyShard
  split
  exact Kept.of_fst (by assumption) (State.restoreRead_kept _ _ _ _ hk)

theorem State.verifyPackage_kept (h : CmdHdr) (r : CommitRec) (x : State × Gathered) (e : List Byte) {q : List Instr}
    (hk : Kept q x.1) : Kept q (State.verifyPackage h r x e).1 := by
  unfold State.verifyPackage
  extract_lets n
  split
  next h1 =>
  have k := Kept.of_fst h1 (State.restoreRead_kept _ _ _ _ hk)
  exact Kept.ite_fst (Kept.foldl_fst (fun z a hz => State.verifyShard_kept _ _ _ z a hz) k) k

theorem State.verifyStratum_kept (h : CmdHdr) (x : State × Gathered) (r : CommitRec) {q : List Instr}
    (hk : Kept q x.1) : Kept q (State.verifyStratum h x r).1 := by
  unfold State.verifyStratum
  split
  next h1 =>
  have k := Kept.of_fst h1 (State.restoreRead_kept _ _ _ _ hk)
  exact Kept.ite_fst (Kept.foldl_fst (fun z a hz => State.verifyPackage_kept _ _ z a hz) k) k

theorem State.tryCandidates_kept (h : CmdHdr) (all : List CommitRec) {q : List Instr} :
    ∀ (l : List CommitRec) (s : State) (bad : List BadShard), Kept q s → Kept q (State.tryCandidates h all s bad l).1
  | [], _, _, hk => hk
  | c :: l, s, bad, hk => by
    unfold State.tryCandidates
    split
    · exact State.tryCandidates_kept h all l _ _ hk
    · split
      next h1 =>
      have k := Kept.of_fst h1 (Kept.foldl_fst (fun z a hz => State.verifyStratum_kept _ z a hz) hk)
      exact Kept.ite_fst k (State.tryCandidates_kept h all l _ _ k)

theorem State.fillRun_kept (h : CmdHdr) (e : List Word) (x : State × Nat) (r : Nat × List Byte) {q : List Instr}
    (hk : Kept q x.1) : Kept q (State.fillRun h e x r).1 := by
  unfold State.fillRun
  split
  next h1 => exact Kept.of_fst h1 (State.direct_kept _ _ hk)

theorem State.fillNew_kept (h : CmdHdr) (shards : List StoredShard) (x : State × Nat) (e : List Word × Nat) {q : List Instr}
    (hk : Kept q x.1) : Kept q (State.fillNew h shards x e).1 := by
  unfold State.fillNew
  exact Kept.foldl_fst (fun z a hz => State.fillRun_kept _ _ z a hz) hk

theorem State.logRestore_kept (s : State) (h : CmdHdr) (st : Nat) {q : List Instr} (hk : Kept q s) : Kept q (State.logRestore
    s h st) := by
  unfold State.logRestore
  repeat' (with_reducible first
    | assumption | (intro _) | (apply State.log_kept) | (apply Kept.ite) | split | (dsimp only))

theorem State.afterRestore_kept (s : State) (h : CmdHdr) (area : Nat) (recs : List CommitRec) (chain : List CommitRec) (g :
    Gathered) (step : Nat) {q : List Instr} (hk : Kept q s) : Kept q (State.afterRestore s h area recs chain g step) := by
  unfold State.afterRestore
  repeat' (with_reducible first
    | assumption | (intro _) | (apply State.setReg64_kept) | (apply State.modStrata_kept) | (apply Kept.ite)
    | (apply Kept.foldl) | (apply Kept.foldl_fst) | split | (dsimp only) | (apply Kept.update))

theorem State.readRecords_kept (s : State) (h : CmdHdr) (area : Nat) {q : List Instr} (hk : Kept q s) : Kept q
    (State.readRecords s h area).1 := by
  unfold State.readRecords
  repeat' (with_reducible first
    | assumption | (intro _) | (apply State.restoreRead_kept) | (apply Kept.ite) | (apply Kept.foldl) | (apply Kept.foldl_fst)
    | split | (refine Kept.of_fst (by assumption) ?_) | (refine Kept.of_snd (by assumption) ?_) | (dsimp only)
    | (apply Kept.update))

theorem State.restoreFrom_kept (s : State) (h : CmdHdr) (ps : List Word64) (recs : List CommitRec) (news : List NewPiece) (bad
    : List BadShard) (c : CommitRec) (chain : List CommitRec) (g : Gathered) {q : List Instr} (hk : Kept q s) : Kept q
    (State.restoreFrom s h ps recs news bad c chain g) := by
  unfold State.restoreFrom
  repeat' (with_reducible first
    | assumption | (intro _) | (apply State.logRestore_kept) | (apply State.finish_kept) | (apply State.fillNew_kept)
    | (apply State.afterRestore_kept) | (apply Kept.ite) | (apply Kept.foldl) | (apply Kept.foldl_fst) | split
    | (refine Kept.of_fst (by assumption) ?_) | (refine Kept.of_snd (by assumption) ?_) | (dsimp only) | (apply Kept.update))

theorem State.restoreHead_kept (s : State) (h : CmdHdr) (ps : List Word64) {q : List Instr} (hk : Kept q s) : Kept q
    (State.restoreHead s h ps).1 := by
  unfold State.restoreHead
  repeat' (with_reducible first
    | assumption | (intro _) | (apply State.readRecords_kept) | (apply State.restoreRead_kept) | (apply Kept.ite) | split
    | (refine Kept.of_fst (by assumption) ?_) | (refine Kept.of_snd (by assumption) ?_) | (dsimp only) | (apply Kept.update))

theorem bodyRestore_kept (s : State) (h : CmdHdr) (ps : List Word64) {q : List Instr} (hk : Kept q s) : Kept q (bodyRestore s
    h ps) := by
  unfold bodyRestore
  repeat' (with_reducible first
    | assumption | (intro _) | (apply State.noteFailure_kept) | (apply State.restoreHead_kept) | (apply State.finish_kept)
    | (apply State.tryCandidates_kept) | (apply State.logRestore_kept) | (apply State.restoreFrom_kept) | (apply Kept.ite)
    | split | (refine Kept.of_fst (by assumption) ?_) | (refine Kept.of_snd (by assumption) ?_) | (dsimp only)
    | (apply Kept.update))

/-! ### Launch -/

theorem opBody_kept {op : Nat} {f : State → CmdHdr → List Word64 → State} (ho : opBody op = some f) {q : List Instr}
    (s : State) (h : CmdHdr) (ps : List Word64) (hk : Kept q s) : Kept q (f s h ps) := by
  unfold opBody at ho
  split at ho <;> first
    | cases ho
    | obtain rfl := Option.some.inj ho
  all_goals with_reducible first
    | exact bodySessionChallenge_kept _ _ _ hk | exact bodySessionOpen_kept _ _ _ hk
    | exact bodySessionClose_kept _ _ _ hk | exact bodySessionInfo_kept _ _ _ hk | exact bodyNopCommand_kept _ _ _ hk
    | exact bodyUnitArm_kept _ _ _ hk | exact bodyUnitStop_kept _ _ _ hk | exact bodyUnitAbort_kept _ _ _ hk
    | exact bodyRegRead_kept _ _ _ hk | exact bodyRegWrite_kept _ _ _ hk | exact bodyTaskSet_kept _ _ _ hk
    | exact bodyMouldLoad_kept _ _ _ hk | exact bodyMouldSwitch_kept _ _ _ hk | exact bodyMouldEvict_kept _ _ _ hk
    | exact bodyModeSet_kept _ _ _ hk | exact bodyMemRead_kept _ _ _ hk | exact bodyMemWrite_kept _ _ _ hk
    | exact bodyMemFill_kept _ _ _ hk | exact bodyCopyCommand_kept _ _ _ hk | exact bodyMrtWrite_kept _ _ _ hk
    | exact bodyScrClear_kept _ _ _ hk | exact bodyTeamCreate_kept _ _ _ hk | exact bodyTeamDestroy_kept _ _ _ hk
    | exact bodyTeamReset_kept _ _ _ hk | exact bodyTeamInfo_kept _ _ _ hk | exact bodyStratumConfig_kept _ _ _ hk
    | exact bodyStratumTensor_kept _ _ _ hk | exact bodyStratumArm_kept _ _ _ hk
    | exact bodyStratumAbandon_kept _ _ _ hk | exact bodyStratumCommitted_kept _ _ _ hk
    | exact bodyStratumList_kept _ _ _ hk | exact bodyRestore_kept _ _ _ hk | exact bodyCapSet_kept _ _ _ hk
    | exact bodyDomainState_kept _ _ _ hk | exact bodyPowerRead_kept _ _ _ hk | exact bodyReset_kept _ _ _ hk
    | exact bodyTbConfig_kept _ _ _ hk | exact bodyTbRelease_kept _ _ _ hk | exact bodyTbRead_kept _ _ _ hk
    | exact bodyCountersRead_kept _ _ _ hk | exact bodyJournalRead_kept _ _ _ hk | exact bodyEvtSubscribe_kept _ _ _ hk
    | exact bodyJournalClear_kept _ _ _ hk | exact bodyKeyWrite_kept _ _ _ hk | exact bodyKeyRevoke_kept _ _ _ hk
    | exact bodyRightsSet_kept _ _ _ hk | exact bodyPartitionSet_kept _ _ _ hk | exact bodyOwnershipSet_kept _ _ _ hk
    | exact bodyAttest_kept _ _ _ hk | exact bodyIdentityRead_kept _ _ _ hk

theorem State.runOp_kept (s : State) (h : CmdHdr) (op : Nat) (mute : Bool) (ps : List Word64) {q : List Instr} (hk : Kept q s) :
    Kept q (State.runOp s h op mute ps) := by
  unfold State.runOp
  split
  next ho => exact State.start_kept _ _ _ _ _ _ (fun s h ps k => opBody_kept ho s h ps k) hk
  next => exact State.finish_kept _ _ _ _ _ (State.beginCmd_kept _ _ _ _ hk)

theorem State.launchHeld_kept (s : State) (c : HeldCmd) {q : List Instr} (hk : Kept q s) : Kept q (State.launchHeld s c) := by
  unfold State.launchHeld
  repeat' (with_reducible first
    | assumption | (intro _) | (apply State.readFor_kept) | (apply State.runOp_kept) | (apply State.beginCmd_kept)
    | (apply State.finish_kept) | (apply Kept.ite) | split | (refine Kept.of_fst (by assumption) ?_)
    | (refine Kept.of_snd (by assumption) ?_) | (dsimp only) | (apply Kept.update))

theorem State.launch_kept (s : State) (chan : Nat) (seq : Word) {q : List Instr} (hk : Kept q s) : Kept q (State.launch s chan
    seq) := by
  unfold State.launch
  repeat' (with_reducible first
    | assumption | (intro _) | (apply State.launchHeld_kept) | (apply Kept.ite) | split
    | (refine Kept.of_fst (by assumption) ?_) | (refine Kept.of_snd (by assumption) ?_) | (dsimp only) | (apply Kept.update))

theorem State.memberTake_kept (s : State) (h : CmdHdr) (op : Nat) (ps : List Word64) (code : Nat) {q : List Instr} (hk : Kept
    q s) : Kept q (State.memberTake s h op ps code) := by
  unfold State.memberTake
  repeat' (with_reducible first
    | assumption | (intro _) | (apply State.finish_kept) | (apply State.launch_kept) | (apply State.runOp_kept)
    | (apply Kept.ite) | split | (dsimp only) | (apply Kept.update))

theorem State.memberIn_kept (s : State) (p : Packet) {q : List Instr} (hk : Kept q s) : Kept q (State.memberIn s p) := by
  unfold State.memberIn
  repeat' (with_reducible first
    | assumption | (intro _) | (apply State.memberTake_kept) | (apply State.launch_kept) | (apply Kept.ite) | split
    | (dsimp only) | (apply Kept.update))

theorem State.memberReply_kept (s : State) (p : Packet) {q : List Instr} (hk : Kept q s) : Kept q (State.memberReply s p) :=
    by
  unfold State.memberReply
  repeat' (with_reducible first
    | assumption | (intro _) | (apply State.memberDone_kept) | (apply Kept.ite) | split | (dsimp only))

theorem State.memberLate_kept (s : State) (chan : Nat) (seq : Word) (unit : Nat) {q : List Instr} (hk : Kept q s) : Kept q
    (State.memberLate s chan seq unit) := by
  unfold State.memberLate
  repeat' (with_reducible first
    | assumption | (intro _) | (apply State.launch_kept) | (apply State.memberDone_kept) | (apply Kept.ite) | split
    | (refine Kept.of_fst (by assumption) ?_) | (refine Kept.of_snd (by assumption) ?_) | (dsimp only) | (apply Kept.update))

theorem State.mgmtAnswer_kept (s : State) (p : Packet) (st : Nat) (data : List Byte) {q : List Instr} (hk : Kept q s) : Kept q
    (State.mgmtAnswer s p st data) := by
  unfold State.mgmtAnswer
  repeat' (with_reducible first
    | assumption | (intro _) | (apply State.sendMgmt_kept) | (apply Kept.ite) | split | (dsimp only))

theorem State.mgmtReadIn_kept (s : State) (p : Packet) {q : List Instr} (hk : Kept q s) : Kept q (State.mgmtReadIn s p) := by
  unfold State.mgmtReadIn
  repeat' (with_reducible first
    | assumption | (intro _) | (apply State.logOff_kept) | (apply State.mgmtAnswer_kept) | (apply State.regRead_kept)
    | (apply Kept.ite) | (apply Kept.foldl) | (apply Kept.foldl_fst) | split | (refine Kept.of_fst (by assumption) ?_)
    | (refine Kept.of_snd (by assumption) ?_) | (dsimp only) | (apply Kept.update))

theorem State.mgmtWriteIn_kept (s : State) (p : Packet) {q : List Instr} (hk : Kept q s) : Kept q (State.mgmtWriteIn s p) :=
    by
  unfold State.mgmtWriteIn
  repeat' (with_reducible first
    | assumption | (intro _) | (apply State.logOff_kept) | (apply State.mgmtAnswer_kept) | (apply State.memberDue_kept)
    | (apply State.regWrites_kept) | (apply State.dropStratum_kept) | (apply Kept.ite) | split
    | (refine Kept.of_fst (by assumption) ?_) | (refine Kept.of_snd (by assumption) ?_) | (dsimp only) | (apply Kept.update))

theorem State.mgmtRespIn_kept (s : State) (p : Packet) (status : Nat) {q : List Instr} (hk : Kept q s) : Kept q
    (State.mgmtRespIn s p status) := by
  unfold State.mgmtRespIn
  repeat' (with_reducible first
    | assumption | (intro _) | (apply State.abandonStratum_kept) | (apply Kept.ite) | split | (dsimp only))

/-! ### LongVector -/

theorem State.lvInstr_kept (s : State) (c : Nat) (w : Word) (major : Nat) (fn : Nat) (fns : List Nat) (bad : Bool) (f : CoreX
    → CoreX) {q : List Instr} (hk : Kept q s) : Kept q (State.lvInstr s c w major fn fns bad f) := by
  unfold State.lvInstr
  repeat' (with_reducible first
    | assumption | (intro _) | (apply State.coreException_kept) | (apply State.modCore_kept) | (apply State.advance_kept)
    | (apply Kept.ite) | split | (dsimp only))

theorem State.lvArith_kept (s : State) (c : Nat) (w : Word) (fn : Nat) {q : List Instr} (hk : Kept q s) : Kept q
    (State.lvArith s c w fn) := by
  unfold State.lvArith
  repeat' (with_reducible first
    | assumption | (intro _) | (apply State.lvInstr_kept) | (apply Kept.ite) | split | (dsimp only))

theorem State.lvConv_kept (s : State) (c : Nat) (w : Word) (fn : Nat) {q : List Instr} (hk : Kept q s) : Kept q (State.lvConv
    s c w fn) := by
  unfold State.lvConv
  repeat' (with_reducible first
    | assumption | (intro _) | (apply State.lvInstr_kept) | (apply Kept.ite) | split | (dsimp only))

theorem State.lvComp_kept (s : State) (c : Nat) (w : Word) (fn : Nat) {q : List Instr} (hk : Kept q s) : Kept q (State.lvComp
    s c w fn) := by
  unfold State.lvComp
  repeat' (with_reducible first
    | assumption | (intro _) | (apply State.lvInstr_kept) | (apply Kept.ite) | split | (dsimp only))

theorem State.lvRed_kept (s : State) (c : Nat) (w : Word) (fn : Nat) {q : List Instr} (hk : Kept q s) : Kept q (State.lvRed s
    c w fn) := by
  unfold State.lvRed
  repeat' (with_reducible first
    | assumption | (intro _) | (apply State.lvInstr_kept) | (apply Kept.ite) | split | (dsimp only))

theorem State.lvConfig_kept (s : State) (c : Nat) (w : Word) (fn : Nat) (bad : Bool) (f : CoreX → CoreX) {q : List Instr} (hk
    : Kept q s) : Kept q (State.lvConfig s c w fn bad f) := by
  unfold State.lvConfig
  repeat' (with_reducible first
    | assumption | (intro _) | (apply State.lvInstr_kept) | (apply Kept.ite) | split | (dsimp only))

theorem State.lvAsk_kept (s : State) (c : Nat) (a : Nat) (n : Nat) {q : List Instr} (hk : Kept q s) : Kept q (State.lvAsk s c
    a n) := by
  unfold State.lvAsk
  repeat' (with_reducible first
    | assumption | (intro _) | (apply State.askLine_kept) | (apply Kept.ite) | split | (dsimp only))

theorem State.lvFetch_kept (c : Nat) (w : Word) (priv : Bool) (i : Nat) {q : List Instr} :
    ∀ (n f : Nat) (vs : List Nat) (s : State), Kept q s → Kept q (State.lvFetch s c w priv i n f vs).1
  | 0, _, _, _, h => h
  | n + 1, f, vs, s, h => by
    unfold State.lvFetch
    extract_lets a b
    refine Kept.ite_fst h ?_
    split
    · exact State.lvFetch_kept c w priv i n _ _ _ h
    · exact State.lvAsk_kept _ _ _ _ h

theorem State.lvLoadElem_kept (c : Nat) (w : Word) (priv : List Nat) (s : State) (i : Nat) {q : List Instr} (hk : Kept q s) :
    Kept q (State.lvLoadElem c w priv s i).1 := by
  unfold State.lvLoadElem
  repeat' (with_reducible first
    | assumption | (intro _) | (apply State.lvFetch_kept) | (apply State.modCore_kept) | (apply Kept.ite) | (apply Kept.foldl)
    | (apply Kept.foldl_fst) | split | (refine Kept.of_fst (by assumption) ?_) | (refine Kept.of_snd (by assumption) ?_)
    | (dsimp only) | (apply Kept.update))

theorem State.lvStoreElem_kept (c : Nat) (w : Word) (priv : List Nat) (s : State) (i : Nat) {q : List Instr} (hk : Kept q s) :
    Kept q (State.lvStoreElem c w priv s i).1 := by
  unfold State.lvStoreElem
  repeat' (with_reducible first
    | assumption | (intro _) | (apply State.sendStores_kept) | (apply State.coreWrite_kept) | (apply Kept.ite)
    | (apply Kept.foldl) | (apply Kept.foldl_fst) | split | (dsimp only))

theorem lvElems_kept {q : List Instr} (f : State → Nat → State × Option Nat) (xlat irqAt : Option Nat)
    (hf : ∀ s i, Kept q s → Kept q (f s i).1) :
    ∀ (l : List Nat) (s : State), Kept q s → Kept q (lvElems f xlat irqAt l s).1
  | [], _, h => h
  | i :: l, s, h => by
    unfold lvElems
    refine Kept.ite_fst h (Kept.ite_fst h ?_)
    split
    next h1 => exact Kept.of_fst h1 (hf _ _ h)
    next h1 => exact lvElems_kept f xlat irqAt hf l _ (Kept.of_fst h1 (hf _ _ h))

theorem State.lvEnd_kept (s : State) (c pc : Nat) (e : Option (Nat × Nat)) {q : List Instr} (hk : Kept q s) :
    Kept q (State.lvEnd s c pc e) := by
  unfold State.lvEnd
  split
  · exact State.advance_kept _ _ (State.modCore_kept _ _ _ hk)
  · have h := fun f => State.modCore_kept s c f hk
    exact Kept.ite (h _) (Kept.ite (State.takeIrq_kept _ _ (h _)) (State.coreException_kept _ _ _ _ (h _)))

theorem State.lvMem_kept (s : State) (c : Nat) (w : Word) (store : Bool) (xlat irqAt : Option Nat)
    (f : State → Nat → State × Option Nat) {q : List Instr} (hf : ∀ s i, Kept q s → Kept q (f s i).1) (hk : Kept q s) :
    Kept q (State.lvMem s c w store xlat irqAt f) := by
  unfold State.lvMem
  refine Kept.ite hk (Kept.ite (State.coreException_kept _ _ _ _ hk) ?_)
  split
  next h1 => exact State.lvEnd_kept _ _ _ _ (Kept.of_fst h1 (lvElems_kept _ _ _ hf _ _ hk))

/-! ### Ports -/

theorem State.windowPiece_kept (s : State) (q0 : Req) {q : List Instr} (hk : Kept q s) : Kept q (State.windowPiece s q0) := by
  unfold State.windowPiece
  repeat' (with_reducible first
    | assumption | (intro _) | (apply State.issueReqs_kept) | (apply Kept.ite) | split | (dsimp only) | (apply Kept.update))

theorem State.windowRequest_kept (s : State) (fn : Nat) (off : Nat) (op : MemOp) {q : List Instr} (hk : Kept q s) : Kept q
    (State.windowRequest s fn off op) := by
  unfold State.windowRequest
  repeat' (with_reducible first
    | assumption | (intro _) | (apply State.wakeHost_kept) | (apply State.landReq_kept) | (apply State.windowPiece_kept)
    | (apply Kept.ite) | (apply Kept.foldl) | (apply Kept.foldl_fst) | split | (dsimp only) | (apply Kept.update))

theorem State.storeRequest_kept (s : State) (fn : Nat) (off : Nat) (data : List Byte) {q : List Instr} (hk : Kept q s) : Kept
    q (State.storeRequest s fn off data) := by
  unfold State.storeRequest
  repeat' (with_reducible first
    | assumption | (intro _) | (apply State.hostUR_kept) | (apply State.storeWrite_kept) | (apply State.hostFault_kept)
    | (apply Kept.ite) | split | (dsimp only))

theorem State.hostWrite_kept (s : State) (fn : Nat) (off : Nat) (data : List Byte) (poisoned : Bool) (store : Bool) {q : List
    Instr} (hk : Kept q s) : Kept q (State.hostWrite s fn off data poisoned store) := by
  unfold State.hostWrite
  repeat' (with_reducible first
    | assumption | (intro _) | (apply State.bump_kept) | (apply State.hostFault_kept) | (apply State.storeRequest_kept)
    | (apply State.hostUR_kept) | (apply State.windowRequest_kept) | (apply Kept.ite) | split | (dsimp only))

theorem State.hostRead_kept (s : State) (fn : Nat) (off : Nat) (len : Nat) {q : List Instr} (hk : Kept q s) : Kept q
    (State.hostRead s fn off len) := by
  unfold State.hostRead
  repeat' (with_reducible first
    | assumption | (intro _) | (apply State.hostUR_kept) | (apply State.hostAnswer_kept) | (apply State.windowRequest_kept)
    | (apply Kept.ite) | split | (dsimp only))

theorem State.hostRelease_kept (s : State) (fn : Nat) {q : List Instr} (hk : Kept q s) : Kept q (State.hostRelease s fn) := by
  unfold State.hostRelease
  repeat' (with_reducible first
    | assumption | (intro _) | (apply State.readReply_kept) | (apply State.writeWords_kept) | (apply Kept.ite) | split
    | (refine Kept.of_fst (by assumption) ?_) | (refine Kept.of_snd (by assumption) ?_) | (dsimp only) | (apply Kept.update))

theorem State.flr_kept (s : State) (fn : Nat) {q : List Instr} (hk : Kept q s) : Kept q (State.flr s fn) := by
  unfold State.flr
  repeat' (with_reducible first
    | assumption | (intro _) | (apply State.flushChannel_kept) | (apply Kept.ite) | split | (dsimp only) | (apply Kept.update))

theorem State.farDown_kept (s : State) (dev : Nat) {q : List Instr} (hk : Kept q s) : Kept q (State.farDown s dev) := by
  unfold State.farDown
  repeat' (with_reducible first
    | assumption | (intro _) | (apply State.setFld_kept) | (apply State.log_kept) | (apply State.landReq_kept)
    | (apply State.goesOn_kept) | (apply Kept.ite) | (apply Kept.foldl) | (apply Kept.foldl_fst) | split | (dsimp only)
    | (apply Kept.update))

theorem State.farBadResponse_kept (s : State) (dev : Nat) (tag : Nat) {q : List Instr} (hk : Kept q s) : Kept q
    (State.farBadResponse s dev tag) := by
  unfold State.farBadResponse
  repeat' (with_reducible first
    | assumption | (intro _) | (apply State.bump_kept) | (apply State.log_kept) | (apply Kept.ite) | split | (dsimp only))

theorem State.mctp_kept (s : State) (mtype : Nat) (iana : Nat) (pecOk : Bool) (words : List Word64) {q : List Instr} (hk :
    Kept q s) : Kept q (State.mctp s mtype iana pecOk words) := by
  unfold State.mctp
  repeat' (with_reducible first
    | assumption | (intro _) | (apply State.pushWord_kept) | (apply State.bump_kept) | (apply Kept.ite) | (apply Kept.foldl)
    | (apply Kept.foldl_fst) | split | (dsimp only))

theorem State.setJtag_kept (s : State) (f : JtagX → JtagX) {q : List Instr} (hk : Kept q s) : Kept q (State.setJtag s f) := by
  unfold State.setJtag
  repeat' (with_reducible first
    | assumption | (intro _) | (apply Kept.ite) | split | (dsimp only) | (apply Kept.update))

theorem State.holdReset_kept (s : State) {q : List Instr} (hk : Kept q s) : Kept q (State.holdReset s) := by
  unfold State.holdReset
  repeat' (with_reducible first
    | assumption | (intro _) | (apply State.dropDomains_kept) | (apply State.setJtag_kept) | (apply Kept.ite) | split
    | (dsimp only) | (apply Kept.update))

/-! ### Remote -/

theorem State.submitRemote_kept (s : State) (r : Req) {q : List Instr} (hk : Kept q s) : Kept q (State.submitRemote s r).1 :=
    by
  unfold State.submitRemote
  repeat' (with_reducible first
    | assumption | (intro _) | (apply State.unmapped_kept) | (apply State.enqueueStack_kept) | (apply State.enqueueFar_kept)
    | (apply State.atHome_kept) | (apply Kept.ite) | split | (refine Kept.of_fst (by assumption) ?_)
    | (refine Kept.of_snd (by assumption) ?_) | (dsimp only) | (apply Kept.update))

theorem State.applyRemote_kept (s : State) (r : Req) {q : List Instr} (hk : Kept q s) : Kept q (State.applyRemote s r) := by
  unfold State.applyRemote
  repeat' (with_reducible first
    | assumption | (intro _) | (apply State.start_kept) | (apply State.landRemote_kept) | (apply State.number_kept)
    | (apply State.submitRemote_kept) | (apply State.landReq_kept) | (apply Kept.ite) | (apply Kept.foldl)
    | (apply Kept.foldl_fst) | split | (refine Kept.of_fst (by assumption) ?_) | (refine Kept.of_snd (by assumption) ?_)
    | (dsimp only) | (apply Kept.update))

theorem State.acceptRemote_kept (s : State) (kind : Nat) (r : Req) (sources : List (Nat × Nat)) {q : List Instr} (hk : Kept q
    s) : Kept q (State.acceptRemote s kind r sources) := by
  unfold State.acceptRemote
  repeat' (with_reducible first
    | assumption | (intro _) | (apply State.bump_kept) | (apply State.applyRemote_kept) | (apply Kept.ite) | split
    | (dsimp only) | (apply Kept.update))

theorem State.acceptPacket_kept (s : State) (p : Packet) {q : List Instr} (hk : Kept q s) : Kept q (State.acceptPacket s p) :=
    by
  unfold State.acceptPacket
  repeat' (with_reducible first
    | assumption | (intro _) | (apply State.acceptRemote_kept) | (apply Kept.ite) | split | (dsimp only))

theorem State.duplicateRemote_kept (s : State) (p : Packet) (src : Nat) (seq : Nat) {q : List Instr} (hk : Kept q s) : Kept q
    (State.duplicateRemote s p src seq) := by
  unfold State.duplicateRemote
  repeat' (with_reducible first
    | assumption | (intro _) | (apply State.bump_kept) | (apply State.acceptPacket_kept) | (apply State.inject_kept)
    | (apply Kept.ite) | split | (refine Kept.of_fst (by assumption) ?_) | (refine Kept.of_snd (by assumption) ?_)
    | (dsimp only) | (apply Kept.update))

theorem State.sortRemote_kept (s : State) (p : Packet) (src : Nat) (seq : Nat) {q : List Instr} (hk : Kept q s) : Kept q
    (State.sortRemote s p src seq).1 := by
  unfold State.sortRemote
  repeat' (with_reducible first
    | assumption | (intro _) | (apply State.setWindow_kept) | (apply State.duplicateRemote_kept) | (apply State.bump_kept)
    | (apply Kept.ite) | split | (refine Kept.of_fst (by assumption) ?_) | (refine Kept.of_snd (by assumption) ?_)
    | (dsimp only) | (apply Kept.update))

theorem State.newComponents_kept (s : State) (p : Packet) {q : List Instr} (hk : Kept q s) : Kept q (State.newComponents s
    p).1 := by
  unfold State.newComponents
  repeat' (with_reducible first
    | assumption | (intro _) | (apply State.sortRemote_kept) | (apply Kept.ite) | (apply Kept.foldl) | (apply Kept.foldl_fst)
    | split | (dsimp only))

theorem State.takeDelivered_kept (s : State) (p : Packet) {q : List Instr} (hk : Kept q s) : Kept q (State.takeDelivered s p)
    := by
  unfold State.takeDelivered
  repeat' (with_reducible first
    | assumption | (intro _) | (apply Kept.ite) | split | (dsimp only) | (apply Kept.update))

theorem State.receiveRemote_kept (s : State) (p : Packet) {q : List Instr} (hk : Kept q s) : Kept q (State.receiveRemote s p)
    := by
  unfold State.receiveRemote
  repeat' (with_reducible first
    | assumption | (intro _) | (apply State.takeDelivered_kept) | (apply State.newComponents_kept)
    | (apply State.acceptRemote_kept) | (apply State.sortRemote_kept) | (apply State.acceptPacket_kept) | (apply Kept.ite)
    | split | (refine Kept.of_fst (by assumption) ?_) | (refine Kept.of_snd (by assumption) ?_) | (dsimp only)
    | (apply Kept.update))

theorem State.releaseRemote_kept (s : State) (src : Nat) (seq : Nat) {q : List Instr} (hk : Kept q s) : Kept q
    (State.releaseRemote s src seq) := by
  unfold State.releaseRemote
  repeat' (with_reducible first
    | assumption | (intro _) | (apply State.applyRemote_kept) | (apply Kept.ite) | split
    | (refine Kept.of_fst (by assumption) ?_) | (refine Kept.of_snd (by assumption) ?_) | (dsimp only) | (apply Kept.update))

theorem State.releaseOwn_kept (s : State) (seq : Nat) {q : List Instr} (hk : Kept q s) : Kept q (State.releaseOwn s seq) := by
  unfold State.releaseOwn
  repeat' (with_reducible first
    | assumption | (intro _) | (apply State.submit_kept) | (apply State.landReq_kept) | (apply State.goesOn_kept)
    | (apply Kept.ite) | split | (refine Kept.of_fst (by assumption) ?_) | (refine Kept.of_snd (by assumption) ?_)
    | (dsimp only) | (apply Kept.update))

theorem State.releaseHeld_kept (s : State) (src : Nat) (seq : Nat) {q : List Instr} (hk : Kept q s) : Kept q
    (State.releaseHeld s src seq) := by
  unfold State.releaseHeld
  repeat' (with_reducible first
    | assumption | (intro _) | (apply State.releaseOwn_kept) | (apply State.releaseRemote_kept) | (apply Kept.ite) | split
    | (dsimp only))

theorem State.sendAcks_kept (s : State) (dst : Nat) {q : List Instr} (hk : Kept q s) : Kept q (State.sendAcks s dst) := by
  unfold State.sendAcks
  repeat' (with_reducible first
    | assumption | (intro _) | (apply State.inject_kept) | (apply Kept.ite) | (apply Kept.foldl) | (apply Kept.foldl_fst)
    | split | (dsimp only) | (apply Kept.update))

theorem State.answered_kept (s : State) (dst : Nat) (seq : Nat) (rep : Reply) {q : List Instr} (hk : Kept q s) : Kept q
    (State.answered s dst seq rep) := by
  unfold State.answered
  repeat' (with_reducible first
    | assumption | (intro _) | (apply State.landReq_kept) | (apply State.goesOn_kept) | (apply Kept.ite) | split
    | (refine Kept.of_fst (by assumption) ?_) | (refine Kept.of_snd (by assumption) ?_) | (dsimp only) | (apply Kept.update))

end Sys2Proof.Machine
end

