-- ==== Sys2Proof/Laws/State.lean ====
section
/-! SUPPORT. What each named update of a part of the state leaves alone: one lemma per field and update, true by `rfl`, so
that no proof unfolds a record update. -/

namespace Sys2Proof.Machine

/-! ### setReg -/

@[simp] theorem State.setReg_pending (s : State) (a : Nat) (v : Word) : (s.setReg a v).pending = s.pending := rfl
@[simp] theorem State.setReg_freeCount (s : State) (a : Nat) (v : Word) : (s.setReg a v).freeCount = s.freeCount := rfl
@[simp] theorem State.setReg_shadow (s : State) (a : Nat) (v : Word) : (s.setReg a v).shadow = s.shadow := rfl
@[simp] theorem State.setReg_mem (s : State) (a : Nat) (v : Word) : (s.setReg a v).mem = s.mem := rfl
@[simp] theorem State.setReg_poison (s : State) (a : Nat) (v : Word) : (s.setReg a v).poison = s.poison := rfl
@[simp] theorem State.setReg_tags (s : State) (a : Nat) (v : Word) : (s.setReg a v).tags = s.tags := rfl
@[simp] theorem State.setReg_dies (s : State) (a : Nat) (v : Word) : (s.setReg a v).dies = s.dies := rfl
@[simp] theorem State.setReg_tiles (s : State) (a : Nat) (v : Word) : (s.setReg a v).tiles = s.tiles := rfl
@[simp] theorem State.setReg_stackMap (s : State) (a : Nat) (v : Word) : (s.setReg a v).stackMap = s.stackMap := rfl
@[simp] theorem State.setReg_far (s : State) (a : Nat) (v : Word) : (s.setReg a v).far = s.far := rfl
@[simp] theorem State.setReg_digests (s : State) (a : Nat) (v : Word) : (s.setReg a v).digests = s.digests := rfl
@[simp] theorem State.setReg_cores (s : State) (a : Nat) (v : Word) : (s.setReg a v).cores = s.cores := rfl
@[simp] theorem State.setReg_procs (s : State) (a : Nat) (v : Word) : (s.setReg a v).procs = s.procs := rfl
@[simp] theorem State.setReg_solvers (s : State) (a : Nat) (v : Word) : (s.setReg a v).solvers = s.solvers := rfl
@[simp] theorem State.setReg_copies (s : State) (a : Nat) (v : Word) : (s.setReg a v).copies = s.copies := rfl
@[simp] theorem State.setReg_fabric (s : State) (a : Nat) (v : Word) : (s.setReg a v).fabric = s.fabric := rfl
@[simp] theorem State.setReg_ports (s : State) (a : Nat) (v : Word) : (s.setReg a v).ports = s.ports := rfl
@[simp] theorem State.setReg_coll (s : State) (a : Nat) (v : Word) : (s.setReg a v).coll = s.coll := rfl
@[simp] theorem State.setReg_tb (s : State) (a : Nat) (v : Word) : (s.setReg a v).tb = s.tb := rfl
@[simp] theorem State.setReg_chans (s : State) (a : Nat) (v : Word) : (s.setReg a v).chans = s.chans := rfl
@[simp] theorem State.setReg_pkc (s : State) (a : Nat) (v : Word) : (s.setReg a v).pkc = s.pkc := rfl
@[simp] theorem State.setReg_sec (s : State) (a : Nat) (v : Word) : (s.setReg a v).sec = s.sec := rfl
@[simp] theorem State.setReg_pwr (s : State) (a : Nat) (v : Word) : (s.setReg a v).pwr = s.pwr := rfl
@[simp] theorem State.setReg_jrn (s : State) (a : Nat) (v : Word) : (s.setReg a v).jrn = s.jrn := rfl
@[simp] theorem State.setReg_strata (s : State) (a : Nat) (v : Word) : (s.setReg a v).strata = s.strata := rfl
@[simp] theorem State.setReg_host (s : State) (a : Nat) (v : Word) : (s.setReg a v).host = s.host := rfl
@[simp] theorem State.setReg_mgt (s : State) (a : Nat) (v : Word) : (s.setReg a v).mgt = s.mgt := rfl
@[simp] theorem State.setReg_jtag (s : State) (a : Nat) (v : Word) : (s.setReg a v).jtag = s.jtag := rfl
@[simp] theorem State.setReg_straps (s : State) (a : Nat) (v : Word) : (s.setReg a v).straps = s.straps := rfl

/-! ### setTag -/

@[simp] theorem State.setTag_pending (s : State) (d t p : Nat) (g : Tag) : (s.setTag d t p g).pending = s.pending := rfl
@[simp] theorem State.setTag_freeCount (s : State) (d t p : Nat) (g : Tag) :
    (s.setTag d t p g).freeCount = s.freeCount := rfl
@[simp] theorem State.setTag_regs (s : State) (d t p : Nat) (g : Tag) : (s.setTag d t p g).regs = s.regs := rfl
@[simp] theorem State.setTag_shadow (s : State) (d t p : Nat) (g : Tag) : (s.setTag d t p g).shadow = s.shadow := rfl
@[simp] theorem State.setTag_mem (s : State) (d t p : Nat) (g : Tag) : (s.setTag d t p g).mem = s.mem := rfl
@[simp] theorem State.setTag_poison (s : State) (d t p : Nat) (g : Tag) : (s.setTag d t p g).poison = s.poison := rfl
@[simp] theorem State.setTag_dies (s : State) (d t p : Nat) (g : Tag) : (s.setTag d t p g).dies = s.dies := rfl
@[simp] theorem State.setTag_tiles (s : State) (d t p : Nat) (g : Tag) : (s.setTag d t p g).tiles = s.tiles := rfl
@[simp] theorem State.setTag_stackMap (s : State) (d t p : Nat) (g : Tag) : (s.setTag d t p g).stackMap = s.stackMap := rfl
@[simp] theorem State.setTag_far (s : State) (d t p : Nat) (g : Tag) : (s.setTag d t p g).far = s.far := rfl
@[simp] theorem State.setTag_digests (s : State) (d t p : Nat) (g : Tag) : (s.setTag d t p g).digests = s.digests := rfl
@[simp] theorem State.setTag_cores (s : State) (d t p : Nat) (g : Tag) : (s.setTag d t p g).cores = s.cores := rfl
@[simp] theorem State.setTag_procs (s : State) (d t p : Nat) (g : Tag) : (s.setTag d t p g).procs = s.procs := rfl
@[simp] theorem State.setTag_solvers (s : State) (d t p : Nat) (g : Tag) : (s.setTag d t p g).solvers = s.solvers := rfl
@[simp] theorem State.setTag_copies (s : State) (d t p : Nat) (g : Tag) : (s.setTag d t p g).copies = s.copies := rfl
@[simp] theorem State.setTag_fabric (s : State) (d t p : Nat) (g : Tag) : (s.setTag d t p g).fabric = s.fabric := rfl
@[simp] theorem State.setTag_ports (s : State) (d t p : Nat) (g : Tag) : (s.setTag d t p g).ports = s.ports := rfl
@[simp] theorem State.setTag_coll (s : State) (d t p : Nat) (g : Tag) : (s.setTag d t p g).coll = s.coll := rfl
@[simp] theorem State.setTag_tb (s : State) (d t p : Nat) (g : Tag) : (s.setTag d t p g).tb = s.tb := rfl
@[simp] theorem State.setTag_chans (s : State) (d t p : Nat) (g : Tag) : (s.setTag d t p g).chans = s.chans := rfl
@[simp] theorem State.setTag_pkc (s : State) (d t p : Nat) (g : Tag) : (s.setTag d t p g).pkc = s.pkc := rfl
@[simp] theorem State.setTag_sec (s : State) (d t p : Nat) (g : Tag) : (s.setTag d t p g).sec = s.sec := rfl
@[simp] theorem State.setTag_pwr (s : State) (d t p : Nat) (g : Tag) : (s.setTag d t p g).pwr = s.pwr := rfl
@[simp] theorem State.setTag_jrn (s : State) (d t p : Nat) (g : Tag) : (s.setTag d t p g).jrn = s.jrn := rfl
@[simp] theorem State.setTag_strata (s : State) (d t p : Nat) (g : Tag) : (s.setTag d t p g).strata = s.strata := rfl
@[simp] theorem State.setTag_host (s : State) (d t p : Nat) (g : Tag) : (s.setTag d t p g).host = s.host := rfl
@[simp] theorem State.setTag_mgt (s : State) (d t p : Nat) (g : Tag) : (s.setTag d t p g).mgt = s.mgt := rfl
@[simp] theorem State.setTag_jtag (s : State) (d t p : Nat) (g : Tag) : (s.setTag d t p g).jtag = s.jtag := rfl
@[simp] theorem State.setTag_straps (s : State) (d t p : Nat) (g : Tag) : (s.setTag d t p g).straps = s.straps := rfl

/-! ### setDie -/

@[simp] theorem State.setDie_pending (s : State) (d : Nat) (x : DieX) : (s.setDie d x).pending = s.pending := rfl
@[simp] theorem State.setDie_freeCount (s : State) (d : Nat) (x : DieX) : (s.setDie d x).freeCount = s.freeCount := rfl
@[simp] theorem State.setDie_regs (s : State) (d : Nat) (x : DieX) : (s.setDie d x).regs = s.regs := rfl
@[simp] theorem State.setDie_shadow (s : State) (d : Nat) (x : DieX) : (s.setDie d x).shadow = s.shadow := rfl
@[simp] theorem State.setDie_mem (s : State) (d : Nat) (x : DieX) : (s.setDie d x).mem = s.mem := rfl
@[simp] theorem State.setDie_poison (s : State) (d : Nat) (x : DieX) : (s.setDie d x).poison = s.poison := rfl
@[simp] theorem State.setDie_tags (s : State) (d : Nat) (x : DieX) : (s.setDie d x).tags = s.tags := rfl
@[simp] theorem State.setDie_tiles (s : State) (d : Nat) (x : DieX) : (s.setDie d x).tiles = s.tiles := rfl
@[simp] theorem State.setDie_stackMap (s : State) (d : Nat) (x : DieX) : (s.setDie d x).stackMap = s.stackMap := rfl
@[simp] theorem State.setDie_far (s : State) (d : Nat) (x : DieX) : (s.setDie d x).far = s.far := rfl
@[simp] theorem State.setDie_digests (s : State) (d : Nat) (x : DieX) : (s.setDie d x).digests = s.digests := rfl
@[simp] theorem State.setDie_cores (s : State) (d : Nat) (x : DieX) : (s.setDie d x).cores = s.cores := rfl
@[simp] theorem State.setDie_procs (s : State) (d : Nat) (x : DieX) : (s.setDie d x).procs = s.procs := rfl
@[simp] theorem State.setDie_solvers (s : State) (d : Nat) (x : DieX) : (s.setDie d x).solvers = s.solvers := rfl
@[simp] theorem State.setDie_copies (s : State) (d : Nat) (x : DieX) : (s.setDie d x).copies = s.copies := rfl
@[simp] theorem State.setDie_fabric (s : State) (d : Nat) (x : DieX) : (s.setDie d x).fabric = s.fabric := rfl
@[simp] theorem State.setDie_ports (s : State) (d : Nat) (x : DieX) : (s.setDie d x).ports = s.ports := rfl
@[simp] theorem State.setDie_coll (s : State) (d : Nat) (x : DieX) : (s.setDie d x).coll = s.coll := rfl
@[simp] theorem State.setDie_tb (s : State) (d : Nat) (x : DieX) : (s.setDie d x).tb = s.tb := rfl
@[simp] theorem State.setDie_chans (s : State) (d : Nat) (x : DieX) : (s.setDie d x).chans = s.chans := rfl
@[simp] theorem State.setDie_pkc (s : State) (d : Nat) (x : DieX) : (s.setDie d x).pkc = s.pkc := rfl
@[simp] theorem State.setDie_sec (s : State) (d : Nat) (x : DieX) : (s.setDie d x).sec = s.sec := rfl
@[simp] theorem State.setDie_pwr (s : State) (d : Nat) (x : DieX) : (s.setDie d x).pwr = s.pwr := rfl
@[simp] theorem State.setDie_jrn (s : State) (d : Nat) (x : DieX) : (s.setDie d x).jrn = s.jrn := rfl
@[simp] theorem State.setDie_strata (s : State) (d : Nat) (x : DieX) : (s.setDie d x).strata = s.strata := rfl
@[simp] theorem State.setDie_host (s : State) (d : Nat) (x : DieX) : (s.setDie d x).host = s.host := rfl
@[simp] theorem State.setDie_mgt (s : State) (d : Nat) (x : DieX) : (s.setDie d x).mgt = s.mgt := rfl
@[simp] theorem State.setDie_jtag (s : State) (d : Nat) (x : DieX) : (s.setDie d x).jtag = s.jtag := rfl
@[simp] theorem State.setDie_straps (s : State) (d : Nat) (x : DieX) : (s.setDie d x).straps = s.straps := rfl

/-! ### modDie -/

@[simp] theorem State.modDie_pending (s : State) (d : Nat) (f : DieX → DieX) : (s.modDie d f).pending = s.pending := rfl
@[simp] theorem State.modDie_freeCount (s : State) (d : Nat) (f : DieX → DieX) :
    (s.modDie d f).freeCount = s.freeCount := rfl
@[simp] theorem State.modDie_regs (s : State) (d : Nat) (f : DieX → DieX) : (s.modDie d f).regs = s.regs := rfl
@[simp] theorem State.modDie_shadow (s : State) (d : Nat) (f : DieX → DieX) : (s.modDie d f).shadow = s.shadow := rfl
@[simp] theorem State.modDie_mem (s : State) (d : Nat) (f : DieX → DieX) : (s.modDie d f).mem = s.mem := rfl
@[simp] theorem State.modDie_poison (s : State) (d : Nat) (f : DieX → DieX) : (s.modDie d f).poison = s.poison := rfl
@[simp] theorem State.modDie_tags (s : State) (d : Nat) (f : DieX → DieX) : (s.modDie d f).tags = s.tags := rfl
@[simp] theorem State.modDie_tiles (s : State) (d : Nat) (f : DieX → DieX) : (s.modDie d f).tiles = s.tiles := rfl
@[simp] theorem State.modDie_stackMap (s : State) (d : Nat) (f : DieX → DieX) : (s.modDie d f).stackMap = s.stackMap := rfl
@[simp] theorem State.modDie_far (s : State) (d : Nat) (f : DieX → DieX) : (s.modDie d f).far = s.far := rfl
@[simp] theorem State.modDie_digests (s : State) (d : Nat) (f : DieX → DieX) : (s.modDie d f).digests = s.digests := rfl
@[simp] theorem State.modDie_cores (s : State) (d : Nat) (f : DieX → DieX) : (s.modDie d f).cores = s.cores := rfl
@[simp] theorem State.modDie_procs (s : State) (d : Nat) (f : DieX → DieX) : (s.modDie d f).procs = s.procs := rfl
@[simp] theorem State.modDie_solvers (s : State) (d : Nat) (f : DieX → DieX) : (s.modDie d f).solvers = s.solvers := rfl
@[simp] theorem State.modDie_copies (s : State) (d : Nat) (f : DieX → DieX) : (s.modDie d f).copies = s.copies := rfl
@[simp] theorem State.modDie_fabric (s : State) (d : Nat) (f : DieX → DieX) : (s.modDie d f).fabric = s.fabric := rfl
@[simp] theorem State.modDie_ports (s : State) (d : Nat) (f : DieX → DieX) : (s.modDie d f).ports = s.ports := rfl
@[simp] theorem State.modDie_coll (s : State) (d : Nat) (f : DieX → DieX) : (s.modDie d f).coll = s.coll := rfl
@[simp] theorem State.modDie_tb (s : State) (d : Nat) (f : DieX → DieX) : (s.modDie d f).tb = s.tb := rfl
@[simp] theorem State.modDie_chans (s : State) (d : Nat) (f : DieX → DieX) : (s.modDie d f).chans = s.chans := rfl
@[simp] theorem State.modDie_pkc (s : State) (d : Nat) (f : DieX → DieX) : (s.modDie d f).pkc = s.pkc := rfl
@[simp] theorem State.modDie_sec (s : State) (d : Nat) (f : DieX → DieX) : (s.modDie d f).sec = s.sec := rfl
@[simp] theorem State.modDie_pwr (s : State) (d : Nat) (f : DieX → DieX) : (s.modDie d f).pwr = s.pwr := rfl
@[simp] theorem State.modDie_jrn (s : State) (d : Nat) (f : DieX → DieX) : (s.modDie d f).jrn = s.jrn := rfl
@[simp] theorem State.modDie_strata (s : State) (d : Nat) (f : DieX → DieX) : (s.modDie d f).strata = s.strata := rfl
@[simp] theorem State.modDie_host (s : State) (d : Nat) (f : DieX → DieX) : (s.modDie d f).host = s.host := rfl
@[simp] theorem State.modDie_mgt (s : State) (d : Nat) (f : DieX → DieX) : (s.modDie d f).mgt = s.mgt := rfl
@[simp] theorem State.modDie_jtag (s : State) (d : Nat) (f : DieX → DieX) : (s.modDie d f).jtag = s.jtag := rfl
@[simp] theorem State.modDie_straps (s : State) (d : Nat) (f : DieX → DieX) : (s.modDie d f).straps = s.straps := rfl

/-! ### setTile -/

@[simp] theorem State.setTile_pending (s : State) (d t : Nat) (x : TileX) : (s.setTile d t x).pending = s.pending := rfl
@[simp] theorem State.setTile_freeCount (s : State) (d t : Nat) (x : TileX) :
    (s.setTile d t x).freeCount = s.freeCount := rfl
@[simp] theorem State.setTile_regs (s : State) (d t : Nat) (x : TileX) : (s.setTile d t x).regs = s.regs := rfl
@[simp] theorem State.setTile_shadow (s : State) (d t : Nat) (x : TileX) : (s.setTile d t x).shadow = s.shadow := rfl
@[simp] theorem State.setTile_mem (s : State) (d t : Nat) (x : TileX) : (s.setTile d t x).mem = s.mem := rfl
@[simp] theorem State.setTile_poison (s : State) (d t : Nat) (x : TileX) : (s.setTile d t x).poison = s.poison := rfl
@[simp] theorem State.setTile_tags (s : State) (d t : Nat) (x : TileX) : (s.setTile d t x).tags = s.tags := rfl
@[simp] theorem State.setTile_dies (s : State) (d t : Nat) (x : TileX) : (s.setTile d t x).dies = s.dies := rfl
@[simp] theorem State.setTile_stackMap (s : State) (d t : Nat) (x : TileX) : (s.setTile d t x).stackMap = s.stackMap := rfl
@[simp] theorem State.setTile_far (s : State) (d t : Nat) (x : TileX) : (s.setTile d t x).far = s.far := rfl
@[simp] theorem State.setTile_digests (s : State) (d t : Nat) (x : TileX) : (s.setTile d t x).digests = s.digests := rfl
@[simp] theorem State.setTile_cores (s : State) (d t : Nat) (x : TileX) : (s.setTile d t x).cores = s.cores := rfl
@[simp] theorem State.setTile_procs (s : State) (d t : Nat) (x : TileX) : (s.setTile d t x).procs = s.procs := rfl
@[simp] theorem State.setTile_solvers (s : State) (d t : Nat) (x : TileX) : (s.setTile d t x).solvers = s.solvers := rfl
@[simp] theorem State.setTile_copies (s : State) (d t : Nat) (x : TileX) : (s.setTile d t x).copies = s.copies := rfl
@[simp] theorem State.setTile_fabric (s : State) (d t : Nat) (x : TileX) : (s.setTile d t x).fabric = s.fabric := rfl
@[simp] theorem State.setTile_ports (s : State) (d t : Nat) (x : TileX) : (s.setTile d t x).ports = s.ports := rfl
@[simp] theorem State.setTile_coll (s : State) (d t : Nat) (x : TileX) : (s.setTile d t x).coll = s.coll := rfl
@[simp] theorem State.setTile_tb (s : State) (d t : Nat) (x : TileX) : (s.setTile d t x).tb = s.tb := rfl
@[simp] theorem State.setTile_chans (s : State) (d t : Nat) (x : TileX) : (s.setTile d t x).chans = s.chans := rfl
@[simp] theorem State.setTile_pkc (s : State) (d t : Nat) (x : TileX) : (s.setTile d t x).pkc = s.pkc := rfl
@[simp] theorem State.setTile_sec (s : State) (d t : Nat) (x : TileX) : (s.setTile d t x).sec = s.sec := rfl
@[simp] theorem State.setTile_pwr (s : State) (d t : Nat) (x : TileX) : (s.setTile d t x).pwr = s.pwr := rfl
@[simp] theorem State.setTile_jrn (s : State) (d t : Nat) (x : TileX) : (s.setTile d t x).jrn = s.jrn := rfl
@[simp] theorem State.setTile_strata (s : State) (d t : Nat) (x : TileX) : (s.setTile d t x).strata = s.strata := rfl
@[simp] theorem State.setTile_host (s : State) (d t : Nat) (x : TileX) : (s.setTile d t x).host = s.host := rfl
@[simp] theorem State.setTile_mgt (s : State) (d t : Nat) (x : TileX) : (s.setTile d t x).mgt = s.mgt := rfl
@[simp] theorem State.setTile_jtag (s : State) (d t : Nat) (x : TileX) : (s.setTile d t x).jtag = s.jtag := rfl
@[simp] theorem State.setTile_straps (s : State) (d t : Nat) (x : TileX) : (s.setTile d t x).straps = s.straps := rfl

/-! ### modTile -/

@[simp] theorem State.modTile_pending (s : State) (d t : Nat) (f : TileX → TileX) :
    (s.modTile d t f).pending = s.pending := rfl
@[simp] theorem State.modTile_freeCount (s : State) (d t : Nat) (f : TileX → TileX) :
    (s.modTile d t f).freeCount = s.freeCount := rfl
@[simp] theorem State.modTile_regs (s : State) (d t : Nat) (f : TileX → TileX) : (s.modTile d t f).regs = s.regs := rfl
@[simp] theorem State.modTile_shadow (s : State) (d t : Nat) (f : TileX → TileX) : (s.modTile d t f).shadow = s.shadow := rfl
@[simp] theorem State.modTile_mem (s : State) (d t : Nat) (f : TileX → TileX) : (s.modTile d t f).mem = s.mem := rfl
@[simp] theorem State.modTile_poison (s : State) (d t : Nat) (f : TileX → TileX) : (s.modTile d t f).poison = s.poison := rfl
@[simp] theorem State.modTile_tags (s : State) (d t : Nat) (f : TileX → TileX) : (s.modTile d t f).tags = s.tags := rfl
@[simp] theorem State.modTile_dies (s : State) (d t : Nat) (f : TileX → TileX) : (s.modTile d t f).dies = s.dies := rfl
@[simp] theorem State.modTile_stackMap (s : State) (d t : Nat) (f : TileX → TileX) :
    (s.modTile d t f).stackMap = s.stackMap := rfl
@[simp] theorem State.modTile_far (s : State) (d t : Nat) (f : TileX → TileX) : (s.modTile d t f).far = s.far := rfl
@[simp] theorem State.modTile_digests (s : State) (d t : Nat) (f : TileX → TileX) :
    (s.modTile d t f).digests = s.digests := rfl
@[simp] theorem State.modTile_cores (s : State) (d t : Nat) (f : TileX → TileX) : (s.modTile d t f).cores = s.cores := rfl
@[simp] theorem State.modTile_procs (s : State) (d t : Nat) (f : TileX → TileX) : (s.modTile d t f).procs = s.procs := rfl
@[simp] theorem State.modTile_solvers (s : State) (d t : Nat) (f : TileX → TileX) :
    (s.modTile d t f).solvers = s.solvers := rfl
@[simp] theorem State.modTile_copies (s : State) (d t : Nat) (f : TileX → TileX) : (s.modTile d t f).copies = s.copies := rfl
@[simp] theorem State.modTile_fabric (s : State) (d t : Nat) (f : TileX → TileX) : (s.modTile d t f).fabric = s.fabric := rfl
@[simp] theorem State.modTile_ports (s : State) (d t : Nat) (f : TileX → TileX) : (s.modTile d t f).ports = s.ports := rfl
@[simp] theorem State.modTile_coll (s : State) (d t : Nat) (f : TileX → TileX) : (s.modTile d t f).coll = s.coll := rfl
@[simp] theorem State.modTile_tb (s : State) (d t : Nat) (f : TileX → TileX) : (s.modTile d t f).tb = s.tb := rfl
@[simp] theorem State.modTile_chans (s : State) (d t : Nat) (f : TileX → TileX) : (s.modTile d t f).chans = s.chans := rfl
@[simp] theorem State.modTile_pkc (s : State) (d t : Nat) (f : TileX → TileX) : (s.modTile d t f).pkc = s.pkc := rfl
@[simp] theorem State.modTile_sec (s : State) (d t : Nat) (f : TileX → TileX) : (s.modTile d t f).sec = s.sec := rfl
@[simp] theorem State.modTile_pwr (s : State) (d t : Nat) (f : TileX → TileX) : (s.modTile d t f).pwr = s.pwr := rfl
@[simp] theorem State.modTile_jrn (s : State) (d t : Nat) (f : TileX → TileX) : (s.modTile d t f).jrn = s.jrn := rfl
@[simp] theorem State.modTile_strata (s : State) (d t : Nat) (f : TileX → TileX) : (s.modTile d t f).strata = s.strata := rfl
@[simp] theorem State.modTile_host (s : State) (d t : Nat) (f : TileX → TileX) : (s.modTile d t f).host = s.host := rfl
@[simp] theorem State.modTile_mgt (s : State) (d t : Nat) (f : TileX → TileX) : (s.modTile d t f).mgt = s.mgt := rfl
@[simp] theorem State.modTile_jtag (s : State) (d t : Nat) (f : TileX → TileX) : (s.modTile d t f).jtag = s.jtag := rfl
@[simp] theorem State.modTile_straps (s : State) (d t : Nat) (f : TileX → TileX) : (s.modTile d t f).straps = s.straps := rfl

/-! ### setStack -/

@[simp] theorem State.setStack_pending (s : State) (k : Nat) (x : StackX) : (s.setStack k x).pending = s.pending := rfl
@[simp] theorem State.setStack_freeCount (s : State) (k : Nat) (x : StackX) : (s.setStack k x).freeCount = s.freeCount := rfl
@[simp] theorem State.setStack_regs (s : State) (k : Nat) (x : StackX) : (s.setStack k x).regs = s.regs := rfl
@[simp] theorem State.setStack_shadow (s : State) (k : Nat) (x : StackX) : (s.setStack k x).shadow = s.shadow := rfl
@[simp] theorem State.setStack_mem (s : State) (k : Nat) (x : StackX) : (s.setStack k x).mem = s.mem := rfl
@[simp] theorem State.setStack_poison (s : State) (k : Nat) (x : StackX) : (s.setStack k x).poison = s.poison := rfl
@[simp] theorem State.setStack_tags (s : State) (k : Nat) (x : StackX) : (s.setStack k x).tags = s.tags := rfl
@[simp] theorem State.setStack_dies (s : State) (k : Nat) (x : StackX) : (s.setStack k x).dies = s.dies := rfl
@[simp] theorem State.setStack_tiles (s : State) (k : Nat) (x : StackX) : (s.setStack k x).tiles = s.tiles := rfl
@[simp] theorem State.setStack_far (s : State) (k : Nat) (x : StackX) : (s.setStack k x).far = s.far := rfl
@[simp] theorem State.setStack_digests (s : State) (k : Nat) (x : StackX) : (s.setStack k x).digests = s.digests := rfl
@[simp] theorem State.setStack_cores (s : State) (k : Nat) (x : StackX) : (s.setStack k x).cores = s.cores := rfl
@[simp] theorem State.setStack_procs (s : State) (k : Nat) (x : StackX) : (s.setStack k x).procs = s.procs := rfl
@[simp] theorem State.setStack_solvers (s : State) (k : Nat) (x : StackX) : (s.setStack k x).solvers = s.solvers := rfl
@[simp] theorem State.setStack_copies (s : State) (k : Nat) (x : StackX) : (s.setStack k x).copies = s.copies := rfl
@[simp] theorem State.setStack_fabric (s : State) (k : Nat) (x : StackX) : (s.setStack k x).fabric = s.fabric := rfl
@[simp] theorem State.setStack_ports (s : State) (k : Nat) (x : StackX) : (s.setStack k x).ports = s.ports := rfl
@[simp] theorem State.setStack_coll (s : State) (k : Nat) (x : StackX) : (s.setStack k x).coll = s.coll := rfl
@[simp] theorem State.setStack_tb (s : State) (k : Nat) (x : StackX) : (s.setStack k x).tb = s.tb := rfl
@[simp] theorem State.setStack_chans (s : State) (k : Nat) (x : StackX) : (s.setStack k x).chans = s.chans := rfl
@[simp] theorem State.setStack_pkc (s : State) (k : Nat) (x : StackX) : (s.setStack k x).pkc = s.pkc := rfl
@[simp] theorem State.setStack_sec (s : State) (k : Nat) (x : StackX) : (s.setStack k x).sec = s.sec := rfl
@[simp] theorem State.setStack_pwr (s : State) (k : Nat) (x : StackX) : (s.setStack k x).pwr = s.pwr := rfl
@[simp] theorem State.setStack_jrn (s : State) (k : Nat) (x : StackX) : (s.setStack k x).jrn = s.jrn := rfl
@[simp] theorem State.setStack_strata (s : State) (k : Nat) (x : StackX) : (s.setStack k x).strata = s.strata := rfl
@[simp] theorem State.setStack_host (s : State) (k : Nat) (x : StackX) : (s.setStack k x).host = s.host := rfl
@[simp] theorem State.setStack_mgt (s : State) (k : Nat) (x : StackX) : (s.setStack k x).mgt = s.mgt := rfl
@[simp] theorem State.setStack_jtag (s : State) (k : Nat) (x : StackX) : (s.setStack k x).jtag = s.jtag := rfl
@[simp] theorem State.setStack_straps (s : State) (k : Nat) (x : StackX) : (s.setStack k x).straps = s.straps := rfl

/-! ### modStack -/

@[simp] theorem State.modStack_pending (s : State) (k : Nat) (f : StackX → StackX) :
    (s.modStack k f).pending = s.pending := rfl
@[simp] theorem State.modStack_freeCount (s : State) (k : Nat) (f : StackX → StackX) :
    (s.modStack k f).freeCount = s.freeCount := rfl
@[simp] theorem State.modStack_regs (s : State) (k : Nat) (f : StackX → StackX) : (s.modStack k f).regs = s.regs := rfl
@[simp] theorem State.modStack_shadow (s : State) (k : Nat) (f : StackX → StackX) : (s.modStack k f).shadow = s.shadow := rfl
@[simp] theorem State.modStack_mem (s : State) (k : Nat) (f : StackX → StackX) : (s.modStack k f).mem = s.mem := rfl
@[simp] theorem State.modStack_poison (s : State) (k : Nat) (f : StackX → StackX) : (s.modStack k f).poison = s.poison := rfl
@[simp] theorem State.modStack_tags (s : State) (k : Nat) (f : StackX → StackX) : (s.modStack k f).tags = s.tags := rfl
@[simp] theorem State.modStack_dies (s : State) (k : Nat) (f : StackX → StackX) : (s.modStack k f).dies = s.dies := rfl
@[simp] theorem State.modStack_tiles (s : State) (k : Nat) (f : StackX → StackX) : (s.modStack k f).tiles = s.tiles := rfl
@[simp] theorem State.modStack_far (s : State) (k : Nat) (f : StackX → StackX) : (s.modStack k f).far = s.far := rfl
@[simp] theorem State.modStack_digests (s : State) (k : Nat) (f : StackX → StackX) :
    (s.modStack k f).digests = s.digests := rfl
@[simp] theorem State.modStack_cores (s : State) (k : Nat) (f : StackX → StackX) : (s.modStack k f).cores = s.cores := rfl
@[simp] theorem State.modStack_procs (s : State) (k : Nat) (f : StackX → StackX) : (s.modStack k f).procs = s.procs := rfl
@[simp] theorem State.modStack_solvers (s : State) (k : Nat) (f : StackX → StackX) :
    (s.modStack k f).solvers = s.solvers := rfl
@[simp] theorem State.modStack_copies (s : State) (k : Nat) (f : StackX → StackX) : (s.modStack k f).copies = s.copies := rfl
@[simp] theorem State.modStack_fabric (s : State) (k : Nat) (f : StackX → StackX) : (s.modStack k f).fabric = s.fabric := rfl
@[simp] theorem State.modStack_ports (s : State) (k : Nat) (f : StackX → StackX) : (s.modStack k f).ports = s.ports := rfl
@[simp] theorem State.modStack_coll (s : State) (k : Nat) (f : StackX → StackX) : (s.modStack k f).coll = s.coll := rfl
@[simp] theorem State.modStack_tb (s : State) (k : Nat) (f : StackX → StackX) : (s.modStack k f).tb = s.tb := rfl
@[simp] theorem State.modStack_chans (s : State) (k : Nat) (f : StackX → StackX) : (s.modStack k f).chans = s.chans := rfl
@[simp] theorem State.modStack_pkc (s : State) (k : Nat) (f : StackX → StackX) : (s.modStack k f).pkc = s.pkc := rfl
@[simp] theorem State.modStack_sec (s : State) (k : Nat) (f : StackX → StackX) : (s.modStack k f).sec = s.sec := rfl
@[simp] theorem State.modStack_pwr (s : State) (k : Nat) (f : StackX → StackX) : (s.modStack k f).pwr = s.pwr := rfl
@[simp] theorem State.modStack_jrn (s : State) (k : Nat) (f : StackX → StackX) : (s.modStack k f).jrn = s.jrn := rfl
@[simp] theorem State.modStack_strata (s : State) (k : Nat) (f : StackX → StackX) : (s.modStack k f).strata = s.strata := rfl
@[simp] theorem State.modStack_host (s : State) (k : Nat) (f : StackX → StackX) : (s.modStack k f).host = s.host := rfl
@[simp] theorem State.modStack_mgt (s : State) (k : Nat) (f : StackX → StackX) : (s.modStack k f).mgt = s.mgt := rfl
@[simp] theorem State.modStack_jtag (s : State) (k : Nat) (f : StackX → StackX) : (s.modStack k f).jtag = s.jtag := rfl
@[simp] theorem State.modStack_straps (s : State) (k : Nat) (f : StackX → StackX) : (s.modStack k f).straps = s.straps := rfl

/-! ### setCore -/

@[simp] theorem State.setCore_pending (s : State) (c : Nat) (x : CoreX) : (s.setCore c x).pending = s.pending := rfl
@[simp] theorem State.setCore_freeCount (s : State) (c : Nat) (x : CoreX) : (s.setCore c x).freeCount = s.freeCount := rfl
@[simp] theorem State.setCore_regs (s : State) (c : Nat) (x : CoreX) : (s.setCore c x).regs = s.regs := rfl
@[simp] theorem State.setCore_shadow (s : State) (c : Nat) (x : CoreX) : (s.setCore c x).shadow = s.shadow := rfl
@[simp] theorem State.setCore_mem (s : State) (c : Nat) (x : CoreX) : (s.setCore c x).mem = s.mem := rfl
@[simp] theorem State.setCore_poison (s : State) (c : Nat) (x : CoreX) : (s.setCore c x).poison = s.poison := rfl
@[simp] theorem State.setCore_tags (s : State) (c : Nat) (x : CoreX) : (s.setCore c x).tags = s.tags := rfl
@[simp] theorem State.setCore_dies (s : State) (c : Nat) (x : CoreX) : (s.setCore c x).dies = s.dies := rfl
@[simp] theorem State.setCore_tiles (s : State) (c : Nat) (x : CoreX) : (s.setCore c x).tiles = s.tiles := rfl
@[simp] theorem State.setCore_stackMap (s : State) (c : Nat) (x : CoreX) : (s.setCore c x).stackMap = s.stackMap := rfl
@[simp] theorem State.setCore_far (s : State) (c : Nat) (x : CoreX) : (s.setCore c x).far = s.far := rfl
@[simp] theorem State.setCore_digests (s : State) (c : Nat) (x : CoreX) : (s.setCore c x).digests = s.digests := rfl
@[simp] theorem State.setCore_procs (s : State) (c : Nat) (x : CoreX) : (s.setCore c x).procs = s.procs := rfl
@[simp] theorem State.setCore_solvers (s : State) (c : Nat) (x : CoreX) : (s.setCore c x).solvers = s.solvers := rfl
@[simp] theorem State.setCore_copies (s : State) (c : Nat) (x : CoreX) : (s.setCore c x).copies = s.copies := rfl
@[simp] theorem State.setCore_fabric (s : State) (c : Nat) (x : CoreX) : (s.setCore c x).fabric = s.fabric := rfl
@[simp] theorem State.setCore_ports (s : State) (c : Nat) (x : CoreX) : (s.setCore c x).ports = s.ports := rfl
@[simp] theorem State.setCore_coll (s : State) (c : Nat) (x : CoreX) : (s.setCore c x).coll = s.coll := rfl
@[simp] theorem State.setCore_tb (s : State) (c : Nat) (x : CoreX) : (s.setCore c x).tb = s.tb := rfl
@[simp] theorem State.setCore_chans (s : State) (c : Nat) (x : CoreX) : (s.setCore c x).chans = s.chans := rfl
@[simp] theorem State.setCore_pkc (s : State) (c : Nat) (x : CoreX) : (s.setCore c x).pkc = s.pkc := rfl
@[simp] theorem State.setCore_sec (s : State) (c : Nat) (x : CoreX) : (s.setCore c x).sec = s.sec := rfl
@[simp] theorem State.setCore_pwr (s : State) (c : Nat) (x : CoreX) : (s.setCore c x).pwr = s.pwr := rfl
@[simp] theorem State.setCore_jrn (s : State) (c : Nat) (x : CoreX) : (s.setCore c x).jrn = s.jrn := rfl
@[simp] theorem State.setCore_strata (s : State) (c : Nat) (x : CoreX) : (s.setCore c x).strata = s.strata := rfl
@[simp] theorem State.setCore_host (s : State) (c : Nat) (x : CoreX) : (s.setCore c x).host = s.host := rfl
@[simp] theorem State.setCore_mgt (s : State) (c : Nat) (x : CoreX) : (s.setCore c x).mgt = s.mgt := rfl
@[simp] theorem State.setCore_jtag (s : State) (c : Nat) (x : CoreX) : (s.setCore c x).jtag = s.jtag := rfl
@[simp] theorem State.setCore_straps (s : State) (c : Nat) (x : CoreX) : (s.setCore c x).straps = s.straps := rfl

/-! ### modCore -/

@[simp] theorem State.modCore_pending (s : State) (c : Nat) (f : CoreX → CoreX) : (s.modCore c f).pending = s.pending := rfl
@[simp] theorem State.modCore_freeCount (s : State) (c : Nat) (f : CoreX → CoreX) :
    (s.modCore c f).freeCount = s.freeCount := rfl
@[simp] theorem State.modCore_regs (s : State) (c : Nat) (f : CoreX → CoreX) : (s.modCore c f).regs = s.regs := rfl
@[simp] theorem State.modCore_shadow (s : State) (c : Nat) (f : CoreX → CoreX) : (s.modCore c f).shadow = s.shadow := rfl
@[simp] theorem State.modCore_mem (s : State) (c : Nat) (f : CoreX → CoreX) : (s.modCore c f).mem = s.mem := rfl
@[simp] theorem State.modCore_poison (s : State) (c : Nat) (f : CoreX → CoreX) : (s.modCore c f).poison = s.poison := rfl
@[simp] theorem State.modCore_tags (s : State) (c : Nat) (f : CoreX → CoreX) : (s.modCore c f).tags = s.tags := rfl
@[simp] theorem State.modCore_dies (s : State) (c : Nat) (f : CoreX → CoreX) : (s.modCore c f).dies = s.dies := rfl
@[simp] theorem State.modCore_tiles (s : State) (c : Nat) (f : CoreX → CoreX) : (s.modCore c f).tiles = s.tiles := rfl
@[simp] theorem State.modCore_stackMap (s : State) (c : Nat) (f : CoreX → CoreX) :
    (s.modCore c f).stackMap = s.stackMap := rfl
@[simp] theorem State.modCore_far (s : State) (c : Nat) (f : CoreX → CoreX) : (s.modCore c f).far = s.far := rfl
@[simp] theorem State.modCore_digests (s : State) (c : Nat) (f : CoreX → CoreX) : (s.modCore c f).digests = s.digests := rfl
@[simp] theorem State.modCore_procs (s : State) (c : Nat) (f : CoreX → CoreX) : (s.modCore c f).procs = s.procs := rfl
@[simp] theorem State.modCore_solvers (s : State) (c : Nat) (f : CoreX → CoreX) : (s.modCore c f).solvers = s.solvers := rfl
@[simp] theorem State.modCore_copies (s : State) (c : Nat) (f : CoreX → CoreX) : (s.modCore c f).copies = s.copies := rfl
@[simp] theorem State.modCore_fabric (s : State) (c : Nat) (f : CoreX → CoreX) : (s.modCore c f).fabric = s.fabric := rfl
@[simp] theorem State.modCore_ports (s : State) (c : Nat) (f : CoreX → CoreX) : (s.modCore c f).ports = s.ports := rfl
@[simp] theorem State.modCore_coll (s : State) (c : Nat) (f : CoreX → CoreX) : (s.modCore c f).coll = s.coll := rfl
@[simp] theorem State.modCore_tb (s : State) (c : Nat) (f : CoreX → CoreX) : (s.modCore c f).tb = s.tb := rfl
@[simp] theorem State.modCore_chans (s : State) (c : Nat) (f : CoreX → CoreX) : (s.modCore c f).chans = s.chans := rfl
@[simp] theorem State.modCore_pkc (s : State) (c : Nat) (f : CoreX → CoreX) : (s.modCore c f).pkc = s.pkc := rfl
@[simp] theorem State.modCore_sec (s : State) (c : Nat) (f : CoreX → CoreX) : (s.modCore c f).sec = s.sec := rfl
@[simp] theorem State.modCore_pwr (s : State) (c : Nat) (f : CoreX → CoreX) : (s.modCore c f).pwr = s.pwr := rfl
@[simp] theorem State.modCore_jrn (s : State) (c : Nat) (f : CoreX → CoreX) : (s.modCore c f).jrn = s.jrn := rfl
@[simp] theorem State.modCore_strata (s : State) (c : Nat) (f : CoreX → CoreX) : (s.modCore c f).strata = s.strata := rfl
@[simp] theorem State.modCore_host (s : State) (c : Nat) (f : CoreX → CoreX) : (s.modCore c f).host = s.host := rfl
@[simp] theorem State.modCore_mgt (s : State) (c : Nat) (f : CoreX → CoreX) : (s.modCore c f).mgt = s.mgt := rfl
@[simp] theorem State.modCore_jtag (s : State) (c : Nat) (f : CoreX → CoreX) : (s.modCore c f).jtag = s.jtag := rfl
@[simp] theorem State.modCore_straps (s : State) (c : Nat) (f : CoreX → CoreX) : (s.modCore c f).straps = s.straps := rfl

/-! ### setProc -/

@[simp] theorem State.setProc_pending (s : State) (d : Nat) (x : ProcX) : (s.setProc d x).pending = s.pending := rfl
@[simp] theorem State.setProc_freeCount (s : State) (d : Nat) (x : ProcX) : (s.setProc d x).freeCount = s.freeCount := rfl
@[simp] theorem State.setProc_regs (s : State) (d : Nat) (x : ProcX) : (s.setProc d x).regs = s.regs := rfl
@[simp] theorem State.setProc_shadow (s : State) (d : Nat) (x : ProcX) : (s.setProc d x).shadow = s.shadow := rfl
@[simp] theorem State.setProc_mem (s : State) (d : Nat) (x : ProcX) : (s.setProc d x).mem = s.mem := rfl
@[simp] theorem State.setProc_poison (s : State) (d : Nat) (x : ProcX) : (s.setProc d x).poison = s.poison := rfl
@[simp] theorem State.setProc_tags (s : State) (d : Nat) (x : ProcX) : (s.setProc d x).tags = s.tags := rfl
@[simp] theorem State.setProc_dies (s : State) (d : Nat) (x : ProcX) : (s.setProc d x).dies = s.dies := rfl
@[simp] theorem State.setProc_tiles (s : State) (d : Nat) (x : ProcX) : (s.setProc d x).tiles = s.tiles := rfl
@[simp] theorem State.setProc_stackMap (s : State) (d : Nat) (x : ProcX) : (s.setProc d x).stackMap = s.stackMap := rfl
@[simp] theorem State.setProc_far (s : State) (d : Nat) (x : ProcX) : (s.setProc d x).far = s.far := rfl
@[simp] theorem State.setProc_digests (s : State) (d : Nat) (x : ProcX) : (s.setProc d x).digests = s.digests := rfl
@[simp] theorem State.setProc_cores (s : State) (d : Nat) (x : ProcX) : (s.setProc d x).cores = s.cores := rfl
@[simp] theorem State.setProc_solvers (s : State) (d : Nat) (x : ProcX) : (s.setProc d x).solvers = s.solvers := rfl
@[simp] theorem State.setProc_copies (s : State) (d : Nat) (x : ProcX) : (s.setProc d x).copies = s.copies := rfl
@[simp] theorem State.setProc_fabric (s : State) (d : Nat) (x : ProcX) : (s.setProc d x).fabric = s.fabric := rfl
@[simp] theorem State.setProc_ports (s : State) (d : Nat) (x : ProcX) : (s.setProc d x).ports = s.ports := rfl
@[simp] theorem State.setProc_coll (s : State) (d : Nat) (x : ProcX) : (s.setProc d x).coll = s.coll := rfl
@[simp] theorem State.setProc_tb (s : State) (d : Nat) (x : ProcX) : (s.setProc d x).tb = s.tb := rfl
@[simp] theorem State.setProc_chans (s : State) (d : Nat) (x : ProcX) : (s.setProc d x).chans = s.chans := rfl
@[simp] theorem State.setProc_pkc (s : State) (d : Nat) (x : ProcX) : (s.setProc d x).pkc = s.pkc := rfl
@[simp] theorem State.setProc_sec (s : State) (d : Nat) (x : ProcX) : (s.setProc d x).sec = s.sec := rfl
@[simp] theorem State.setProc_pwr (s : State) (d : Nat) (x : ProcX) : (s.setProc d x).pwr = s.pwr := rfl
@[simp] theorem State.setProc_jrn (s : State) (d : Nat) (x : ProcX) : (s.setProc d x).jrn = s.jrn := rfl
@[simp] theorem State.setProc_strata (s : State) (d : Nat) (x : ProcX) : (s.setProc d x).strata = s.strata := rfl
@[simp] theorem State.setProc_host (s : State) (d : Nat) (x : ProcX) : (s.setProc d x).host = s.host := rfl
@[simp] theorem State.setProc_mgt (s : State) (d : Nat) (x : ProcX) : (s.setProc d x).mgt = s.mgt := rfl
@[simp] theorem State.setProc_jtag (s : State) (d : Nat) (x : ProcX) : (s.setProc d x).jtag = s.jtag := rfl
@[simp] theorem State.setProc_straps (s : State) (d : Nat) (x : ProcX) : (s.setProc d x).straps = s.straps := rfl

/-! ### setSolver -/

@[simp] theorem State.setSolver_pending (s : State) (e : Nat) (x : SolverX) : (s.setSolver e x).pending = s.pending := rfl
@[simp] theorem State.setSolver_freeCount (s : State) (e : Nat) (x : SolverX) :
    (s.setSolver e x).freeCount = s.freeCount := rfl
@[simp] theorem State.setSolver_regs (s : State) (e : Nat) (x : SolverX) : (s.setSolver e x).regs = s.regs := rfl
@[simp] theorem State.setSolver_shadow (s : State) (e : Nat) (x : SolverX) : (s.setSolver e x).shadow = s.shadow := rfl
@[simp] theorem State.setSolver_mem (s : State) (e : Nat) (x : SolverX) : (s.setSolver e x).mem = s.mem := rfl
@[simp] theorem State.setSolver_poison (s : State) (e : Nat) (x : SolverX) : (s.setSolver e x).poison = s.poison := rfl
@[simp] theorem State.setSolver_tags (s : State) (e : Nat) (x : SolverX) : (s.setSolver e x).tags = s.tags := rfl
@[simp] theorem State.setSolver_dies (s : State) (e : Nat) (x : SolverX) : (s.setSolver e x).dies = s.dies := rfl
@[simp] theorem State.setSolver_tiles (s : State) (e : Nat) (x : SolverX) : (s.setSolver e x).tiles = s.tiles := rfl
@[simp] theorem State.setSolver_stackMap (s : State) (e : Nat) (x : SolverX) : (s.setSolver e x).stackMap = s.stackMap := rfl
@[simp] theorem State.setSolver_far (s : State) (e : Nat) (x : SolverX) : (s.setSolver e x).far = s.far := rfl
@[simp] theorem State.setSolver_digests (s : State) (e : Nat) (x : SolverX) : (s.setSolver e x).digests = s.digests := rfl
@[simp] theorem State.setSolver_cores (s : State) (e : Nat) (x : SolverX) : (s.setSolver e x).cores = s.cores := rfl
@[simp] theorem State.setSolver_procs (s : State) (e : Nat) (x : SolverX) : (s.setSolver e x).procs = s.procs := rfl
@[simp] theorem State.setSolver_copies (s : State) (e : Nat) (x : SolverX) : (s.setSolver e x).copies = s.copies := rfl
@[simp] theorem State.setSolver_fabric (s : State) (e : Nat) (x : SolverX) : (s.setSolver e x).fabric = s.fabric := rfl
@[simp] theorem State.setSolver_ports (s : State) (e : Nat) (x : SolverX) : (s.setSolver e x).ports = s.ports := rfl
@[simp] theorem State.setSolver_coll (s : State) (e : Nat) (x : SolverX) : (s.setSolver e x).coll = s.coll := rfl
@[simp] theorem State.setSolver_tb (s : State) (e : Nat) (x : SolverX) : (s.setSolver e x).tb = s.tb := rfl
@[simp] theorem State.setSolver_chans (s : State) (e : Nat) (x : SolverX) : (s.setSolver e x).chans = s.chans := rfl
@[simp] theorem State.setSolver_pkc (s : State) (e : Nat) (x : SolverX) : (s.setSolver e x).pkc = s.pkc := rfl
@[simp] theorem State.setSolver_sec (s : State) (e : Nat) (x : SolverX) : (s.setSolver e x).sec = s.sec := rfl
@[simp] theorem State.setSolver_pwr (s : State) (e : Nat) (x : SolverX) : (s.setSolver e x).pwr = s.pwr := rfl
@[simp] theorem State.setSolver_jrn (s : State) (e : Nat) (x : SolverX) : (s.setSolver e x).jrn = s.jrn := rfl
@[simp] theorem State.setSolver_strata (s : State) (e : Nat) (x : SolverX) : (s.setSolver e x).strata = s.strata := rfl
@[simp] theorem State.setSolver_host (s : State) (e : Nat) (x : SolverX) : (s.setSolver e x).host = s.host := rfl
@[simp] theorem State.setSolver_mgt (s : State) (e : Nat) (x : SolverX) : (s.setSolver e x).mgt = s.mgt := rfl
@[simp] theorem State.setSolver_jtag (s : State) (e : Nat) (x : SolverX) : (s.setSolver e x).jtag = s.jtag := rfl
@[simp] theorem State.setSolver_straps (s : State) (e : Nat) (x : SolverX) : (s.setSolver e x).straps = s.straps := rfl

/-! ### modSolver -/

@[simp] theorem State.modSolver_pending (s : State) (e : Nat) (f : SolverX → SolverX) :
    (s.modSolver e f).pending = s.pending := rfl
@[simp] theorem State.modSolver_freeCount (s : State) (e : Nat) (f : SolverX → SolverX) :
    (s.modSolver e f).freeCount = s.freeCount := rfl
@[simp] theorem State.modSolver_regs (s : State) (e : Nat) (f : SolverX → SolverX) : (s.modSolver e f).regs = s.regs := rfl
@[simp] theorem State.modSolver_shadow (s : State) (e : Nat) (f : SolverX → SolverX) :
    (s.modSolver e f).shadow = s.shadow := rfl
@[simp] theorem State.modSolver_mem (s : State) (e : Nat) (f : SolverX → SolverX) : (s.modSolver e f).mem = s.mem := rfl
@[simp] theorem State.modSolver_poison (s : State) (e : Nat) (f : SolverX → SolverX) :
    (s.modSolver e f).poison = s.poison := rfl
@[simp] theorem State.modSolver_tags (s : State) (e : Nat) (f : SolverX → SolverX) : (s.modSolver e f).tags = s.tags := rfl
@[simp] theorem State.modSolver_dies (s : State) (e : Nat) (f : SolverX → SolverX) : (s.modSolver e f).dies = s.dies := rfl
@[simp] theorem State.modSolver_tiles (s : State) (e : Nat) (f : SolverX → SolverX) :
    (s.modSolver e f).tiles = s.tiles := rfl
@[simp] theorem State.modSolver_stackMap (s : State) (e : Nat) (f : SolverX → SolverX) :
    (s.modSolver e f).stackMap = s.stackMap := rfl
@[simp] theorem State.modSolver_far (s : State) (e : Nat) (f : SolverX → SolverX) : (s.modSolver e f).far = s.far := rfl
@[simp] theorem State.modSolver_digests (s : State) (e : Nat) (f : SolverX → SolverX) :
    (s.modSolver e f).digests = s.digests := rfl
@[simp] theorem State.modSolver_cores (s : State) (e : Nat) (f : SolverX → SolverX) :
    (s.modSolver e f).cores = s.cores := rfl
@[simp] theorem State.modSolver_procs (s : State) (e : Nat) (f : SolverX → SolverX) :
    (s.modSolver e f).procs = s.procs := rfl
@[simp] theorem State.modSolver_copies (s : State) (e : Nat) (f : SolverX → SolverX) :
    (s.modSolver e f).copies = s.copies := rfl
@[simp] theorem State.modSolver_fabric (s : State) (e : Nat) (f : SolverX → SolverX) :
    (s.modSolver e f).fabric = s.fabric := rfl
@[simp] theorem State.modSolver_ports (s : State) (e : Nat) (f : SolverX → SolverX) :
    (s.modSolver e f).ports = s.ports := rfl
@[simp] theorem State.modSolver_coll (s : State) (e : Nat) (f : SolverX → SolverX) : (s.modSolver e f).coll = s.coll := rfl
@[simp] theorem State.modSolver_tb (s : State) (e : Nat) (f : SolverX → SolverX) : (s.modSolver e f).tb = s.tb := rfl
@[simp] theorem State.modSolver_chans (s : State) (e : Nat) (f : SolverX → SolverX) :
    (s.modSolver e f).chans = s.chans := rfl
@[simp] theorem State.modSolver_pkc (s : State) (e : Nat) (f : SolverX → SolverX) : (s.modSolver e f).pkc = s.pkc := rfl
@[simp] theorem State.modSolver_sec (s : State) (e : Nat) (f : SolverX → SolverX) : (s.modSolver e f).sec = s.sec := rfl
@[simp] theorem State.modSolver_pwr (s : State) (e : Nat) (f : SolverX → SolverX) : (s.modSolver e f).pwr = s.pwr := rfl
@[simp] theorem State.modSolver_jrn (s : State) (e : Nat) (f : SolverX → SolverX) : (s.modSolver e f).jrn = s.jrn := rfl
@[simp] theorem State.modSolver_strata (s : State) (e : Nat) (f : SolverX → SolverX) :
    (s.modSolver e f).strata = s.strata := rfl
@[simp] theorem State.modSolver_host (s : State) (e : Nat) (f : SolverX → SolverX) : (s.modSolver e f).host = s.host := rfl
@[simp] theorem State.modSolver_mgt (s : State) (e : Nat) (f : SolverX → SolverX) : (s.modSolver e f).mgt = s.mgt := rfl
@[simp] theorem State.modSolver_jtag (s : State) (e : Nat) (f : SolverX → SolverX) : (s.modSolver e f).jtag = s.jtag := rfl
@[simp] theorem State.modSolver_straps (s : State) (e : Nat) (f : SolverX → SolverX) :
    (s.modSolver e f).straps = s.straps := rfl

/-! ### setCopy -/

@[simp] theorem State.setCopy_pending (s : State) (e : Nat) (x : CopyX) : (s.setCopy e x).pending = s.pending := rfl
@[simp] theorem State.setCopy_freeCount (s : State) (e : Nat) (x : CopyX) : (s.setCopy e x).freeCount = s.freeCount := rfl
@[simp] theorem State.setCopy_regs (s : State) (e : Nat) (x : CopyX) : (s.setCopy e x).regs = s.regs := rfl
@[simp] theorem State.setCopy_shadow (s : State) (e : Nat) (x : CopyX) : (s.setCopy e x).shadow = s.shadow := rfl
@[simp] theorem State.setCopy_mem (s : State) (e : Nat) (x : CopyX) : (s.setCopy e x).mem = s.mem := rfl
@[simp] theorem State.setCopy_poison (s : State) (e : Nat) (x : CopyX) : (s.setCopy e x).poison = s.poison := rfl
@[simp] theorem State.setCopy_tags (s : State) (e : Nat) (x : CopyX) : (s.setCopy e x).tags = s.tags := rfl
@[simp] theorem State.setCopy_dies (s : State) (e : Nat) (x : CopyX) : (s.setCopy e x).dies = s.dies := rfl
@[simp] theorem State.setCopy_tiles (s : State) (e : Nat) (x : CopyX) : (s.setCopy e x).tiles = s.tiles := rfl
@[simp] theorem State.setCopy_stackMap (s : State) (e : Nat) (x : CopyX) : (s.setCopy e x).stackMap = s.stackMap := rfl
@[simp] theorem State.setCopy_far (s : State) (e : Nat) (x : CopyX) : (s.setCopy e x).far = s.far := rfl
@[simp] theorem State.setCopy_digests (s : State) (e : Nat) (x : CopyX) : (s.setCopy e x).digests = s.digests := rfl
@[simp] theorem State.setCopy_cores (s : State) (e : Nat) (x : CopyX) : (s.setCopy e x).cores = s.cores := rfl
@[simp] theorem State.setCopy_procs (s : State) (e : Nat) (x : CopyX) : (s.setCopy e x).procs = s.procs := rfl
@[simp] theorem State.setCopy_solvers (s : State) (e : Nat) (x : CopyX) : (s.setCopy e x).solvers = s.solvers := rfl
@[simp] theorem State.setCopy_fabric (s : State) (e : Nat) (x : CopyX) : (s.setCopy e x).fabric = s.fabric := rfl
@[simp] theorem State.setCopy_ports (s : State) (e : Nat) (x : CopyX) : (s.setCopy e x).ports = s.ports := rfl
@[simp] theorem State.setCopy_coll (s : State) (e : Nat) (x : CopyX) : (s.setCopy e x).coll = s.coll := rfl
@[simp] theorem State.setCopy_tb (s : State) (e : Nat) (x : CopyX) : (s.setCopy e x).tb = s.tb := rfl
@[simp] theorem State.setCopy_chans (s : State) (e : Nat) (x : CopyX) : (s.setCopy e x).chans = s.chans := rfl
@[simp] theorem State.setCopy_pkc (s : State) (e : Nat) (x : CopyX) : (s.setCopy e x).pkc = s.pkc := rfl
@[simp] theorem State.setCopy_sec (s : State) (e : Nat) (x : CopyX) : (s.setCopy e x).sec = s.sec := rfl
@[simp] theorem State.setCopy_pwr (s : State) (e : Nat) (x : CopyX) : (s.setCopy e x).pwr = s.pwr := rfl
@[simp] theorem State.setCopy_jrn (s : State) (e : Nat) (x : CopyX) : (s.setCopy e x).jrn = s.jrn := rfl
@[simp] theorem State.setCopy_strata (s : State) (e : Nat) (x : CopyX) : (s.setCopy e x).strata = s.strata := rfl
@[simp] theorem State.setCopy_host (s : State) (e : Nat) (x : CopyX) : (s.setCopy e x).host = s.host := rfl
@[simp] theorem State.setCopy_mgt (s : State) (e : Nat) (x : CopyX) : (s.setCopy e x).mgt = s.mgt := rfl
@[simp] theorem State.setCopy_jtag (s : State) (e : Nat) (x : CopyX) : (s.setCopy e x).jtag = s.jtag := rfl
@[simp] theorem State.setCopy_straps (s : State) (e : Nat) (x : CopyX) : (s.setCopy e x).straps = s.straps := rfl

/-! ### modCopy -/

@[simp] theorem State.modCopy_pending (s : State) (e : Nat) (f : CopyX → CopyX) : (s.modCopy e f).pending = s.pending := rfl
@[simp] theorem State.modCopy_freeCount (s : State) (e : Nat) (f : CopyX → CopyX) :
    (s.modCopy e f).freeCount = s.freeCount := rfl
@[simp] theorem State.modCopy_regs (s : State) (e : Nat) (f : CopyX → CopyX) : (s.modCopy e f).regs = s.regs := rfl
@[simp] theorem State.modCopy_shadow (s : State) (e : Nat) (f : CopyX → CopyX) : (s.modCopy e f).shadow = s.shadow := rfl
@[simp] theorem State.modCopy_mem (s : State) (e : Nat) (f : CopyX → CopyX) : (s.modCopy e f).mem = s.mem := rfl
@[simp] theorem State.modCopy_poison (s : State) (e : Nat) (f : CopyX → CopyX) : (s.modCopy e f).poison = s.poison := rfl
@[simp] theorem State.modCopy_tags (s : State) (e : Nat) (f : CopyX → CopyX) : (s.modCopy e f).tags = s.tags := rfl
@[simp] theorem State.modCopy_dies (s : State) (e : Nat) (f : CopyX → CopyX) : (s.modCopy e f).dies = s.dies := rfl
@[simp] theorem State.modCopy_tiles (s : State) (e : Nat) (f : CopyX → CopyX) : (s.modCopy e f).tiles = s.tiles := rfl
@[simp] theorem State.modCopy_stackMap (s : State) (e : Nat) (f : CopyX → CopyX) :
    (s.modCopy e f).stackMap = s.stackMap := rfl
@[simp] theorem State.modCopy_far (s : State) (e : Nat) (f : CopyX → CopyX) : (s.modCopy e f).far = s.far := rfl
@[simp] theorem State.modCopy_digests (s : State) (e : Nat) (f : CopyX → CopyX) : (s.modCopy e f).digests = s.digests := rfl
@[simp] theorem State.modCopy_cores (s : State) (e : Nat) (f : CopyX → CopyX) : (s.modCopy e f).cores = s.cores := rfl
@[simp] theorem State.modCopy_procs (s : State) (e : Nat) (f : CopyX → CopyX) : (s.modCopy e f).procs = s.procs := rfl
@[simp] theorem State.modCopy_solvers (s : State) (e : Nat) (f : CopyX → CopyX) : (s.modCopy e f).solvers = s.solvers := rfl
@[simp] theorem State.modCopy_fabric (s : State) (e : Nat) (f : CopyX → CopyX) : (s.modCopy e f).fabric = s.fabric := rfl
@[simp] theorem State.modCopy_ports (s : State) (e : Nat) (f : CopyX → CopyX) : (s.modCopy e f).ports = s.ports := rfl
@[simp] theorem State.modCopy_coll (s : State) (e : Nat) (f : CopyX → CopyX) : (s.modCopy e f).coll = s.coll := rfl
@[simp] theorem State.modCopy_tb (s : State) (e : Nat) (f : CopyX → CopyX) : (s.modCopy e f).tb = s.tb := rfl
@[simp] theorem State.modCopy_chans (s : State) (e : Nat) (f : CopyX → CopyX) : (s.modCopy e f).chans = s.chans := rfl
@[simp] theorem State.modCopy_pkc (s : State) (e : Nat) (f : CopyX → CopyX) : (s.modCopy e f).pkc = s.pkc := rfl
@[simp] theorem State.modCopy_sec (s : State) (e : Nat) (f : CopyX → CopyX) : (s.modCopy e f).sec = s.sec := rfl
@[simp] theorem State.modCopy_pwr (s : State) (e : Nat) (f : CopyX → CopyX) : (s.modCopy e f).pwr = s.pwr := rfl
@[simp] theorem State.modCopy_jrn (s : State) (e : Nat) (f : CopyX → CopyX) : (s.modCopy e f).jrn = s.jrn := rfl
@[simp] theorem State.modCopy_strata (s : State) (e : Nat) (f : CopyX → CopyX) : (s.modCopy e f).strata = s.strata := rfl
@[simp] theorem State.modCopy_host (s : State) (e : Nat) (f : CopyX → CopyX) : (s.modCopy e f).host = s.host := rfl
@[simp] theorem State.modCopy_mgt (s : State) (e : Nat) (f : CopyX → CopyX) : (s.modCopy e f).mgt = s.mgt := rfl
@[simp] theorem State.modCopy_jtag (s : State) (e : Nat) (f : CopyX → CopyX) : (s.modCopy e f).jtag = s.jtag := rfl
@[simp] theorem State.modCopy_straps (s : State) (e : Nat) (f : CopyX → CopyX) : (s.modCopy e f).straps = s.straps := rfl

/-! ### setPort -/

@[simp] theorem State.setPort_pending (s : State) (p : Nat) (x : PortX) : (s.setPort p x).pending = s.pending := rfl
@[simp] theorem State.setPort_freeCount (s : State) (p : Nat) (x : PortX) : (s.setPort p x).freeCount = s.freeCount := rfl
@[simp] theorem State.setPort_regs (s : State) (p : Nat) (x : PortX) : (s.setPort p x).regs = s.regs := rfl
@[simp] theorem State.setPort_shadow (s : State) (p : Nat) (x : PortX) : (s.setPort p x).shadow = s.shadow := rfl
@[simp] theorem State.setPort_mem (s : State) (p : Nat) (x : PortX) : (s.setPort p x).mem = s.mem := rfl
@[simp] theorem State.setPort_poison (s : State) (p : Nat) (x : PortX) : (s.setPort p x).poison = s.poison := rfl
@[simp] theorem State.setPort_tags (s : State) (p : Nat) (x : PortX) : (s.setPort p x).tags = s.tags := rfl
@[simp] theorem State.setPort_dies (s : State) (p : Nat) (x : PortX) : (s.setPort p x).dies = s.dies := rfl
@[simp] theorem State.setPort_tiles (s : State) (p : Nat) (x : PortX) : (s.setPort p x).tiles = s.tiles := rfl
@[simp] theorem State.setPort_stackMap (s : State) (p : Nat) (x : PortX) : (s.setPort p x).stackMap = s.stackMap := rfl
@[simp] theorem State.setPort_far (s : State) (p : Nat) (x : PortX) : (s.setPort p x).far = s.far := rfl
@[simp] theorem State.setPort_digests (s : State) (p : Nat) (x : PortX) : (s.setPort p x).digests = s.digests := rfl
@[simp] theorem State.setPort_cores (s : State) (p : Nat) (x : PortX) : (s.setPort p x).cores = s.cores := rfl
@[simp] theorem State.setPort_procs (s : State) (p : Nat) (x : PortX) : (s.setPort p x).procs = s.procs := rfl
@[simp] theorem State.setPort_solvers (s : State) (p : Nat) (x : PortX) : (s.setPort p x).solvers = s.solvers := rfl
@[simp] theorem State.setPort_copies (s : State) (p : Nat) (x : PortX) : (s.setPort p x).copies = s.copies := rfl
@[simp] theorem State.setPort_fabric (s : State) (p : Nat) (x : PortX) : (s.setPort p x).fabric = s.fabric := rfl
@[simp] theorem State.setPort_coll (s : State) (p : Nat) (x : PortX) : (s.setPort p x).coll = s.coll := rfl
@[simp] theorem State.setPort_tb (s : State) (p : Nat) (x : PortX) : (s.setPort p x).tb = s.tb := rfl
@[simp] theorem State.setPort_chans (s : State) (p : Nat) (x : PortX) : (s.setPort p x).chans = s.chans := rfl
@[simp] theorem State.setPort_pkc (s : State) (p : Nat) (x : PortX) : (s.setPort p x).pkc = s.pkc := rfl
@[simp] theorem State.setPort_sec (s : State) (p : Nat) (x : PortX) : (s.setPort p x).sec = s.sec := rfl
@[simp] theorem State.setPort_pwr (s : State) (p : Nat) (x : PortX) : (s.setPort p x).pwr = s.pwr := rfl
@[simp] theorem State.setPort_jrn (s : State) (p : Nat) (x : PortX) : (s.setPort p x).jrn = s.jrn := rfl
@[simp] theorem State.setPort_strata (s : State) (p : Nat) (x : PortX) : (s.setPort p x).strata = s.strata := rfl
@[simp] theorem State.setPort_host (s : State) (p : Nat) (x : PortX) : (s.setPort p x).host = s.host := rfl
@[simp] theorem State.setPort_mgt (s : State) (p : Nat) (x : PortX) : (s.setPort p x).mgt = s.mgt := rfl
@[simp] theorem State.setPort_jtag (s : State) (p : Nat) (x : PortX) : (s.setPort p x).jtag = s.jtag := rfl
@[simp] theorem State.setPort_straps (s : State) (p : Nat) (x : PortX) : (s.setPort p x).straps = s.straps := rfl

/-! ### modPort -/

@[simp] theorem State.modPort_pending (s : State) (p : Nat) (f : PortX → PortX) : (s.modPort p f).pending = s.pending := rfl
@[simp] theorem State.modPort_freeCount (s : State) (p : Nat) (f : PortX → PortX) :
    (s.modPort p f).freeCount = s.freeCount := rfl
@[simp] theorem State.modPort_regs (s : State) (p : Nat) (f : PortX → PortX) : (s.modPort p f).regs = s.regs := rfl
@[simp] theorem State.modPort_shadow (s : State) (p : Nat) (f : PortX → PortX) : (s.modPort p f).shadow = s.shadow := rfl
@[simp] theorem State.modPort_mem (s : State) (p : Nat) (f : PortX → PortX) : (s.modPort p f).mem = s.mem := rfl
@[simp] theorem State.modPort_poison (s : State) (p : Nat) (f : PortX → PortX) : (s.modPort p f).poison = s.poison := rfl
@[simp] theorem State.modPort_tags (s : State) (p : Nat) (f : PortX → PortX) : (s.modPort p f).tags = s.tags := rfl
@[simp] theorem State.modPort_dies (s : State) (p : Nat) (f : PortX → PortX) : (s.modPort p f).dies = s.dies := rfl
@[simp] theorem State.modPort_tiles (s : State) (p : Nat) (f : PortX → PortX) : (s.modPort p f).tiles = s.tiles := rfl
@[simp] theorem State.modPort_stackMap (s : State) (p : Nat) (f : PortX → PortX) :
    (s.modPort p f).stackMap = s.stackMap := rfl
@[simp] theorem State.modPort_far (s : State) (p : Nat) (f : PortX → PortX) : (s.modPort p f).far = s.far := rfl
@[simp] theorem State.modPort_digests (s : State) (p : Nat) (f : PortX → PortX) : (s.modPort p f).digests = s.digests := rfl
@[simp] theorem State.modPort_cores (s : State) (p : Nat) (f : PortX → PortX) : (s.modPort p f).cores = s.cores := rfl
@[simp] theorem State.modPort_procs (s : State) (p : Nat) (f : PortX → PortX) : (s.modPort p f).procs = s.procs := rfl
@[simp] theorem State.modPort_solvers (s : State) (p : Nat) (f : PortX → PortX) : (s.modPort p f).solvers = s.solvers := rfl
@[simp] theorem State.modPort_copies (s : State) (p : Nat) (f : PortX → PortX) : (s.modPort p f).copies = s.copies := rfl
@[simp] theorem State.modPort_fabric (s : State) (p : Nat) (f : PortX → PortX) : (s.modPort p f).fabric = s.fabric := rfl
@[simp] theorem State.modPort_coll (s : State) (p : Nat) (f : PortX → PortX) : (s.modPort p f).coll = s.coll := rfl
@[simp] theorem State.modPort_tb (s : State) (p : Nat) (f : PortX → PortX) : (s.modPort p f).tb = s.tb := rfl
@[simp] theorem State.modPort_chans (s : State) (p : Nat) (f : PortX → PortX) : (s.modPort p f).chans = s.chans := rfl
@[simp] theorem State.modPort_pkc (s : State) (p : Nat) (f : PortX → PortX) : (s.modPort p f).pkc = s.pkc := rfl
@[simp] theorem State.modPort_sec (s : State) (p : Nat) (f : PortX → PortX) : (s.modPort p f).sec = s.sec := rfl
@[simp] theorem State.modPort_pwr (s : State) (p : Nat) (f : PortX → PortX) : (s.modPort p f).pwr = s.pwr := rfl
@[simp] theorem State.modPort_jrn (s : State) (p : Nat) (f : PortX → PortX) : (s.modPort p f).jrn = s.jrn := rfl
@[simp] theorem State.modPort_strata (s : State) (p : Nat) (f : PortX → PortX) : (s.modPort p f).strata = s.strata := rfl
@[simp] theorem State.modPort_host (s : State) (p : Nat) (f : PortX → PortX) : (s.modPort p f).host = s.host := rfl
@[simp] theorem State.modPort_mgt (s : State) (p : Nat) (f : PortX → PortX) : (s.modPort p f).mgt = s.mgt := rfl
@[simp] theorem State.modPort_jtag (s : State) (p : Nat) (f : PortX → PortX) : (s.modPort p f).jtag = s.jtag := rfl
@[simp] theorem State.modPort_straps (s : State) (p : Nat) (f : PortX → PortX) : (s.modPort p f).straps = s.straps := rfl

/-! ### setChan -/

@[simp] theorem State.setChan_pending (s : State) (n : Nat) (x : ChanX) : (s.setChan n x).pending = s.pending := rfl
@[simp] theorem State.setChan_freeCount (s : State) (n : Nat) (x : ChanX) : (s.setChan n x).freeCount = s.freeCount := rfl
@[simp] theorem State.setChan_regs (s : State) (n : Nat) (x : ChanX) : (s.setChan n x).regs = s.regs := rfl
@[simp] theorem State.setChan_shadow (s : State) (n : Nat) (x : ChanX) : (s.setChan n x).shadow = s.shadow := rfl
@[simp] theorem State.setChan_mem (s : State) (n : Nat) (x : ChanX) : (s.setChan n x).mem = s.mem := rfl
@[simp] theorem State.setChan_poison (s : State) (n : Nat) (x : ChanX) : (s.setChan n x).poison = s.poison := rfl
@[simp] theorem State.setChan_tags (s : State) (n : Nat) (x : ChanX) : (s.setChan n x).tags = s.tags := rfl
@[simp] theorem State.setChan_dies (s : State) (n : Nat) (x : ChanX) : (s.setChan n x).dies = s.dies := rfl
@[simp] theorem State.setChan_tiles (s : State) (n : Nat) (x : ChanX) : (s.setChan n x).tiles = s.tiles := rfl
@[simp] theorem State.setChan_stackMap (s : State) (n : Nat) (x : ChanX) : (s.setChan n x).stackMap = s.stackMap := rfl
@[simp] theorem State.setChan_far (s : State) (n : Nat) (x : ChanX) : (s.setChan n x).far = s.far := rfl
@[simp] theorem State.setChan_digests (s : State) (n : Nat) (x : ChanX) : (s.setChan n x).digests = s.digests := rfl
@[simp] theorem State.setChan_cores (s : State) (n : Nat) (x : ChanX) : (s.setChan n x).cores = s.cores := rfl
@[simp] theorem State.setChan_procs (s : State) (n : Nat) (x : ChanX) : (s.setChan n x).procs = s.procs := rfl
@[simp] theorem State.setChan_solvers (s : State) (n : Nat) (x : ChanX) : (s.setChan n x).solvers = s.solvers := rfl
@[simp] theorem State.setChan_copies (s : State) (n : Nat) (x : ChanX) : (s.setChan n x).copies = s.copies := rfl
@[simp] theorem State.setChan_fabric (s : State) (n : Nat) (x : ChanX) : (s.setChan n x).fabric = s.fabric := rfl
@[simp] theorem State.setChan_ports (s : State) (n : Nat) (x : ChanX) : (s.setChan n x).ports = s.ports := rfl
@[simp] theorem State.setChan_coll (s : State) (n : Nat) (x : ChanX) : (s.setChan n x).coll = s.coll := rfl
@[simp] theorem State.setChan_tb (s : State) (n : Nat) (x : ChanX) : (s.setChan n x).tb = s.tb := rfl
@[simp] theorem State.setChan_pkc (s : State) (n : Nat) (x : ChanX) : (s.setChan n x).pkc = s.pkc := rfl
@[simp] theorem State.setChan_sec (s : State) (n : Nat) (x : ChanX) : (s.setChan n x).sec = s.sec := rfl
@[simp] theorem State.setChan_pwr (s : State) (n : Nat) (x : ChanX) : (s.setChan n x).pwr = s.pwr := rfl
@[simp] theorem State.setChan_jrn (s : State) (n : Nat) (x : ChanX) : (s.setChan n x).jrn = s.jrn := rfl
@[simp] theorem State.setChan_strata (s : State) (n : Nat) (x : ChanX) : (s.setChan n x).strata = s.strata := rfl
@[simp] theorem State.setChan_host (s : State) (n : Nat) (x : ChanX) : (s.setChan n x).host = s.host := rfl
@[simp] theorem State.setChan_mgt (s : State) (n : Nat) (x : ChanX) : (s.setChan n x).mgt = s.mgt := rfl
@[simp] theorem State.setChan_jtag (s : State) (n : Nat) (x : ChanX) : (s.setChan n x).jtag = s.jtag := rfl
@[simp] theorem State.setChan_straps (s : State) (n : Nat) (x : ChanX) : (s.setChan n x).straps = s.straps := rfl

/-! ### modChan -/

@[simp] theorem State.modChan_pending (s : State) (n : Nat) (f : ChanX → ChanX) : (s.modChan n f).pending = s.pending := rfl
@[simp] theorem State.modChan_freeCount (s : State) (n : Nat) (f : ChanX → ChanX) :
    (s.modChan n f).freeCount = s.freeCount := rfl
@[simp] theorem State.modChan_regs (s : State) (n : Nat) (f : ChanX → ChanX) : (s.modChan n f).regs = s.regs := rfl
@[simp] theorem State.modChan_shadow (s : State) (n : Nat) (f : ChanX → ChanX) : (s.modChan n f).shadow = s.shadow := rfl
@[simp] theorem State.modChan_mem (s : State) (n : Nat) (f : ChanX → ChanX) : (s.modChan n f).mem = s.mem := rfl
@[simp] theorem State.modChan_poison (s : State) (n : Nat) (f : ChanX → ChanX) : (s.modChan n f).poison = s.poison := rfl
@[simp] theorem State.modChan_tags (s : State) (n : Nat) (f : ChanX → ChanX) : (s.modChan n f).tags = s.tags := rfl
@[simp] theorem State.modChan_dies (s : State) (n : Nat) (f : ChanX → ChanX) : (s.modChan n f).dies = s.dies := rfl
@[simp] theorem State.modChan_tiles (s : State) (n : Nat) (f : ChanX → ChanX) : (s.modChan n f).tiles = s.tiles := rfl
@[simp] theorem State.modChan_stackMap (s : State) (n : Nat) (f : ChanX → ChanX) :
    (s.modChan n f).stackMap = s.stackMap := rfl
@[simp] theorem State.modChan_far (s : State) (n : Nat) (f : ChanX → ChanX) : (s.modChan n f).far = s.far := rfl
@[simp] theorem State.modChan_digests (s : State) (n : Nat) (f : ChanX → ChanX) : (s.modChan n f).digests = s.digests := rfl
@[simp] theorem State.modChan_cores (s : State) (n : Nat) (f : ChanX → ChanX) : (s.modChan n f).cores = s.cores := rfl
@[simp] theorem State.modChan_procs (s : State) (n : Nat) (f : ChanX → ChanX) : (s.modChan n f).procs = s.procs := rfl
@[simp] theorem State.modChan_solvers (s : State) (n : Nat) (f : ChanX → ChanX) : (s.modChan n f).solvers = s.solvers := rfl
@[simp] theorem State.modChan_copies (s : State) (n : Nat) (f : ChanX → ChanX) : (s.modChan n f).copies = s.copies := rfl
@[simp] theorem State.modChan_fabric (s : State) (n : Nat) (f : ChanX → ChanX) : (s.modChan n f).fabric = s.fabric := rfl
@[simp] theorem State.modChan_ports (s : State) (n : Nat) (f : ChanX → ChanX) : (s.modChan n f).ports = s.ports := rfl
@[simp] theorem State.modChan_coll (s : State) (n : Nat) (f : ChanX → ChanX) : (s.modChan n f).coll = s.coll := rfl
@[simp] theorem State.modChan_tb (s : State) (n : Nat) (f : ChanX → ChanX) : (s.modChan n f).tb = s.tb := rfl
@[simp] theorem State.modChan_pkc (s : State) (n : Nat) (f : ChanX → ChanX) : (s.modChan n f).pkc = s.pkc := rfl
@[simp] theorem State.modChan_sec (s : State) (n : Nat) (f : ChanX → ChanX) : (s.modChan n f).sec = s.sec := rfl
@[simp] theorem State.modChan_pwr (s : State) (n : Nat) (f : ChanX → ChanX) : (s.modChan n f).pwr = s.pwr := rfl
@[simp] theorem State.modChan_jrn (s : State) (n : Nat) (f : ChanX → ChanX) : (s.modChan n f).jrn = s.jrn := rfl
@[simp] theorem State.modChan_strata (s : State) (n : Nat) (f : ChanX → ChanX) : (s.modChan n f).strata = s.strata := rfl
@[simp] theorem State.modChan_host (s : State) (n : Nat) (f : ChanX → ChanX) : (s.modChan n f).host = s.host := rfl
@[simp] theorem State.modChan_mgt (s : State) (n : Nat) (f : ChanX → ChanX) : (s.modChan n f).mgt = s.mgt := rfl
@[simp] theorem State.modChan_jtag (s : State) (n : Nat) (f : ChanX → ChanX) : (s.modChan n f).jtag = s.jtag := rfl
@[simp] theorem State.modChan_straps (s : State) (n : Nat) (f : ChanX → ChanX) : (s.modChan n f).straps = s.straps := rfl

/-! ### modSlot -/

@[simp] theorem State.modSlot_pending (s : State) (d i : Nat) (f : SlotX → SlotX) :
    (s.modSlot d i f).pending = s.pending := rfl
@[simp] theorem State.modSlot_freeCount (s : State) (d i : Nat) (f : SlotX → SlotX) :
    (s.modSlot d i f).freeCount = s.freeCount := rfl
@[simp] theorem State.modSlot_regs (s : State) (d i : Nat) (f : SlotX → SlotX) : (s.modSlot d i f).regs = s.regs := rfl
@[simp] theorem State.modSlot_shadow (s : State) (d i : Nat) (f : SlotX → SlotX) : (s.modSlot d i f).shadow = s.shadow := rfl
@[simp] theorem State.modSlot_mem (s : State) (d i : Nat) (f : SlotX → SlotX) : (s.modSlot d i f).mem = s.mem := rfl
@[simp] theorem State.modSlot_poison (s : State) (d i : Nat) (f : SlotX → SlotX) : (s.modSlot d i f).poison = s.poison := rfl
@[simp] theorem State.modSlot_tags (s : State) (d i : Nat) (f : SlotX → SlotX) : (s.modSlot d i f).tags = s.tags := rfl
@[simp] theorem State.modSlot_tiles (s : State) (d i : Nat) (f : SlotX → SlotX) : (s.modSlot d i f).tiles = s.tiles := rfl
@[simp] theorem State.modSlot_stackMap (s : State) (d i : Nat) (f : SlotX → SlotX) :
    (s.modSlot d i f).stackMap = s.stackMap := rfl
@[simp] theorem State.modSlot_far (s : State) (d i : Nat) (f : SlotX → SlotX) : (s.modSlot d i f).far = s.far := rfl
@[simp] theorem State.modSlot_digests (s : State) (d i : Nat) (f : SlotX → SlotX) :
    (s.modSlot d i f).digests = s.digests := rfl
@[simp] theorem State.modSlot_cores (s : State) (d i : Nat) (f : SlotX → SlotX) : (s.modSlot d i f).cores = s.cores := rfl
@[simp] theorem State.modSlot_procs (s : State) (d i : Nat) (f : SlotX → SlotX) : (s.modSlot d i f).procs = s.procs := rfl
@[simp] theorem State.modSlot_solvers (s : State) (d i : Nat) (f : SlotX → SlotX) :
    (s.modSlot d i f).solvers = s.solvers := rfl
@[simp] theorem State.modSlot_copies (s : State) (d i : Nat) (f : SlotX → SlotX) : (s.modSlot d i f).copies = s.copies := rfl
@[simp] theorem State.modSlot_fabric (s : State) (d i : Nat) (f : SlotX → SlotX) : (s.modSlot d i f).fabric = s.fabric := rfl
@[simp] theorem State.modSlot_ports (s : State) (d i : Nat) (f : SlotX → SlotX) : (s.modSlot d i f).ports = s.ports := rfl
@[simp] theorem State.modSlot_coll (s : State) (d i : Nat) (f : SlotX → SlotX) : (s.modSlot d i f).coll = s.coll := rfl
@[simp] theorem State.modSlot_tb (s : State) (d i : Nat) (f : SlotX → SlotX) : (s.modSlot d i f).tb = s.tb := rfl
@[simp] theorem State.modSlot_chans (s : State) (d i : Nat) (f : SlotX → SlotX) : (s.modSlot d i f).chans = s.chans := rfl
@[simp] theorem State.modSlot_pkc (s : State) (d i : Nat) (f : SlotX → SlotX) : (s.modSlot d i f).pkc = s.pkc := rfl
@[simp] theorem State.modSlot_sec (s : State) (d i : Nat) (f : SlotX → SlotX) : (s.modSlot d i f).sec = s.sec := rfl
@[simp] theorem State.modSlot_pwr (s : State) (d i : Nat) (f : SlotX → SlotX) : (s.modSlot d i f).pwr = s.pwr := rfl
@[simp] theorem State.modSlot_jrn (s : State) (d i : Nat) (f : SlotX → SlotX) : (s.modSlot d i f).jrn = s.jrn := rfl
@[simp] theorem State.modSlot_strata (s : State) (d i : Nat) (f : SlotX → SlotX) : (s.modSlot d i f).strata = s.strata := rfl
@[simp] theorem State.modSlot_host (s : State) (d i : Nat) (f : SlotX → SlotX) : (s.modSlot d i f).host = s.host := rfl
@[simp] theorem State.modSlot_mgt (s : State) (d i : Nat) (f : SlotX → SlotX) : (s.modSlot d i f).mgt = s.mgt := rfl
@[simp] theorem State.modSlot_jtag (s : State) (d i : Nat) (f : SlotX → SlotX) : (s.modSlot d i f).jtag = s.jtag := rfl
@[simp] theorem State.modSlot_straps (s : State) (d i : Nat) (f : SlotX → SlotX) : (s.modSlot d i f).straps = s.straps := rfl

/-! ### setFld -/

@[simp] theorem State.setFld_pending (s : State) (b : Nat) (g : Field) (v : Nat) :
    (s.setFld b g v).pending = s.pending := rfl
@[simp] theorem State.setFld_freeCount (s : State) (b : Nat) (g : Field) (v : Nat) :
    (s.setFld b g v).freeCount = s.freeCount := rfl
@[simp] theorem State.setFld_shadow (s : State) (b : Nat) (g : Field) (v : Nat) : (s.setFld b g v).shadow = s.shadow := rfl
@[simp] theorem State.setFld_mem (s : State) (b : Nat) (g : Field) (v : Nat) : (s.setFld b g v).mem = s.mem := rfl
@[simp] theorem State.setFld_poison (s : State) (b : Nat) (g : Field) (v : Nat) : (s.setFld b g v).poison = s.poison := rfl
@[simp] theorem State.setFld_tags (s : State) (b : Nat) (g : Field) (v : Nat) : (s.setFld b g v).tags = s.tags := rfl
@[simp] theorem State.setFld_dies (s : State) (b : Nat) (g : Field) (v : Nat) : (s.setFld b g v).dies = s.dies := rfl
@[simp] theorem State.setFld_tiles (s : State) (b : Nat) (g : Field) (v : Nat) : (s.setFld b g v).tiles = s.tiles := rfl
@[simp] theorem State.setFld_stackMap (s : State) (b : Nat) (g : Field) (v : Nat) :
    (s.setFld b g v).stackMap = s.stackMap := rfl
@[simp] theorem State.setFld_far (s : State) (b : Nat) (g : Field) (v : Nat) : (s.setFld b g v).far = s.far := rfl
@[simp] theorem State.setFld_digests (s : State) (b : Nat) (g : Field) (v : Nat) :
    (s.setFld b g v).digests = s.digests := rfl
@[simp] theorem State.setFld_cores (s : State) (b : Nat) (g : Field) (v : Nat) : (s.setFld b g v).cores = s.cores := rfl
@[simp] theorem State.setFld_procs (s : State) (b : Nat) (g : Field) (v : Nat) : (s.setFld b g v).procs = s.procs := rfl
@[simp] theorem State.setFld_solvers (s : State) (b : Nat) (g : Field) (v : Nat) :
    (s.setFld b g v).solvers = s.solvers := rfl
@[simp] theorem State.setFld_copies (s : State) (b : Nat) (g : Field) (v : Nat) : (s.setFld b g v).copies = s.copies := rfl
@[simp] theorem State.setFld_fabric (s : State) (b : Nat) (g : Field) (v : Nat) : (s.setFld b g v).fabric = s.fabric := rfl
@[simp] theorem State.setFld_ports (s : State) (b : Nat) (g : Field) (v : Nat) : (s.setFld b g v).ports = s.ports := rfl
@[simp] theorem State.setFld_coll (s : State) (b : Nat) (g : Field) (v : Nat) : (s.setFld b g v).coll = s.coll := rfl
@[simp] theorem State.setFld_tb (s : State) (b : Nat) (g : Field) (v : Nat) : (s.setFld b g v).tb = s.tb := rfl
@[simp] theorem State.setFld_chans (s : State) (b : Nat) (g : Field) (v : Nat) : (s.setFld b g v).chans = s.chans := rfl
@[simp] theorem State.setFld_pkc (s : State) (b : Nat) (g : Field) (v : Nat) : (s.setFld b g v).pkc = s.pkc := rfl
@[simp] theorem State.setFld_sec (s : State) (b : Nat) (g : Field) (v : Nat) : (s.setFld b g v).sec = s.sec := rfl
@[simp] theorem State.setFld_pwr (s : State) (b : Nat) (g : Field) (v : Nat) : (s.setFld b g v).pwr = s.pwr := rfl
@[simp] theorem State.setFld_jrn (s : State) (b : Nat) (g : Field) (v : Nat) : (s.setFld b g v).jrn = s.jrn := rfl
@[simp] theorem State.setFld_strata (s : State) (b : Nat) (g : Field) (v : Nat) : (s.setFld b g v).strata = s.strata := rfl
@[simp] theorem State.setFld_host (s : State) (b : Nat) (g : Field) (v : Nat) : (s.setFld b g v).host = s.host := rfl
@[simp] theorem State.setFld_mgt (s : State) (b : Nat) (g : Field) (v : Nat) : (s.setFld b g v).mgt = s.mgt := rfl
@[simp] theorem State.setFld_jtag (s : State) (b : Nat) (g : Field) (v : Nat) : (s.setFld b g v).jtag = s.jtag := rfl
@[simp] theorem State.setFld_straps (s : State) (b : Nat) (g : Field) (v : Nat) : (s.setFld b g v).straps = s.straps := rfl

/-! ### setReg64 -/

@[simp] theorem State.setReg64_pending (s : State) (a v : Nat) : (s.setReg64 a v).pending = s.pending := rfl
@[simp] theorem State.setReg64_freeCount (s : State) (a v : Nat) : (s.setReg64 a v).freeCount = s.freeCount := rfl
@[simp] theorem State.setReg64_shadow (s : State) (a v : Nat) : (s.setReg64 a v).shadow = s.shadow := rfl
@[simp] theorem State.setReg64_mem (s : State) (a v : Nat) : (s.setReg64 a v).mem = s.mem := rfl
@[simp] theorem State.setReg64_poison (s : State) (a v : Nat) : (s.setReg64 a v).poison = s.poison := rfl
@[simp] theorem State.setReg64_tags (s : State) (a v : Nat) : (s.setReg64 a v).tags = s.tags := rfl
@[simp] theorem State.setReg64_dies (s : State) (a v : Nat) : (s.setReg64 a v).dies = s.dies := rfl
@[simp] theorem State.setReg64_tiles (s : State) (a v : Nat) : (s.setReg64 a v).tiles = s.tiles := rfl
@[simp] theorem State.setReg64_stackMap (s : State) (a v : Nat) : (s.setReg64 a v).stackMap = s.stackMap := rfl
@[simp] theorem State.setReg64_far (s : State) (a v : Nat) : (s.setReg64 a v).far = s.far := rfl
@[simp] theorem State.setReg64_digests (s : State) (a v : Nat) : (s.setReg64 a v).digests = s.digests := rfl
@[simp] theorem State.setReg64_cores (s : State) (a v : Nat) : (s.setReg64 a v).cores = s.cores := rfl
@[simp] theorem State.setReg64_procs (s : State) (a v : Nat) : (s.setReg64 a v).procs = s.procs := rfl
@[simp] theorem State.setReg64_solvers (s : State) (a v : Nat) : (s.setReg64 a v).solvers = s.solvers := rfl
@[simp] theorem State.setReg64_copies (s : State) (a v : Nat) : (s.setReg64 a v).copies = s.copies := rfl
@[simp] theorem State.setReg64_fabric (s : State) (a v : Nat) : (s.setReg64 a v).fabric = s.fabric := rfl
@[simp] theorem State.setReg64_ports (s : State) (a v : Nat) : (s.setReg64 a v).ports = s.ports := rfl
@[simp] theorem State.setReg64_coll (s : State) (a v : Nat) : (s.setReg64 a v).coll = s.coll := rfl
@[simp] theorem State.setReg64_tb (s : State) (a v : Nat) : (s.setReg64 a v).tb = s.tb := rfl
@[simp] theorem State.setReg64_chans (s : State) (a v : Nat) : (s.setReg64 a v).chans = s.chans := rfl
@[simp] theorem State.setReg64_pkc (s : State) (a v : Nat) : (s.setReg64 a v).pkc = s.pkc := rfl
@[simp] theorem State.setReg64_sec (s : State) (a v : Nat) : (s.setReg64 a v).sec = s.sec := rfl
@[simp] theorem State.setReg64_pwr (s : State) (a v : Nat) : (s.setReg64 a v).pwr = s.pwr := rfl
@[simp] theorem State.setReg64_jrn (s : State) (a v : Nat) : (s.setReg64 a v).jrn = s.jrn := rfl
@[simp] theorem State.setReg64_strata (s : State) (a v : Nat) : (s.setReg64 a v).strata = s.strata := rfl
@[simp] theorem State.setReg64_host (s : State) (a v : Nat) : (s.setReg64 a v).host = s.host := rfl
@[simp] theorem State.setReg64_mgt (s : State) (a v : Nat) : (s.setReg64 a v).mgt = s.mgt := rfl
@[simp] theorem State.setReg64_jtag (s : State) (a v : Nat) : (s.setReg64 a v).jtag = s.jtag := rfl
@[simp] theorem State.setReg64_straps (s : State) (a v : Nat) : (s.setReg64 a v).straps = s.straps := rfl

/-! ### bump -/

@[simp] theorem State.bump_pending (s : State) (b : Nat) (g : Field) : (s.bump b g).pending = s.pending := rfl
@[simp] theorem State.bump_freeCount (s : State) (b : Nat) (g : Field) : (s.bump b g).freeCount = s.freeCount := rfl
@[simp] theorem State.bump_shadow (s : State) (b : Nat) (g : Field) : (s.bump b g).shadow = s.shadow := rfl
@[simp] theorem State.bump_mem (s : State) (b : Nat) (g : Field) : (s.bump b g).mem = s.mem := rfl
@[simp] theorem State.bump_poison (s : State) (b : Nat) (g : Field) : (s.bump b g).poison = s.poison := rfl
@[simp] theorem State.bump_tags (s : State) (b : Nat) (g : Field) : (s.bump b g).tags = s.tags := rfl
@[simp] theorem State.bump_dies (s : State) (b : Nat) (g : Field) : (s.bump b g).dies = s.dies := rfl
@[simp] theorem State.bump_tiles (s : State) (b : Nat) (g : Field) : (s.bump b g).tiles = s.tiles := rfl
@[simp] theorem State.bump_stackMap (s : State) (b : Nat) (g : Field) : (s.bump b g).stackMap = s.stackMap := rfl
@[simp] theorem State.bump_far (s : State) (b : Nat) (g : Field) : (s.bump b g).far = s.far := rfl
@[simp] theorem State.bump_digests (s : State) (b : Nat) (g : Field) : (s.bump b g).digests = s.digests := rfl
@[simp] theorem State.bump_cores (s : State) (b : Nat) (g : Field) : (s.bump b g).cores = s.cores := rfl
@[simp] theorem State.bump_procs (s : State) (b : Nat) (g : Field) : (s.bump b g).procs = s.procs := rfl
@[simp] theorem State.bump_solvers (s : State) (b : Nat) (g : Field) : (s.bump b g).solvers = s.solvers := rfl
@[simp] theorem State.bump_copies (s : State) (b : Nat) (g : Field) : (s.bump b g).copies = s.copies := rfl
@[simp] theorem State.bump_fabric (s : State) (b : Nat) (g : Field) : (s.bump b g).fabric = s.fabric := rfl
@[simp] theorem State.bump_ports (s : State) (b : Nat) (g : Field) : (s.bump b g).ports = s.ports := rfl
@[simp] theorem State.bump_coll (s : State) (b : Nat) (g : Field) : (s.bump b g).coll = s.coll := rfl
@[simp] theorem State.bump_tb (s : State) (b : Nat) (g : Field) : (s.bump b g).tb = s.tb := rfl
@[simp] theorem State.bump_chans (s : State) (b : Nat) (g : Field) : (s.bump b g).chans = s.chans := rfl
@[simp] theorem State.bump_pkc (s : State) (b : Nat) (g : Field) : (s.bump b g).pkc = s.pkc := rfl
@[simp] theorem State.bump_sec (s : State) (b : Nat) (g : Field) : (s.bump b g).sec = s.sec := rfl
@[simp] theorem State.bump_pwr (s : State) (b : Nat) (g : Field) : (s.bump b g).pwr = s.pwr := rfl
@[simp] theorem State.bump_jrn (s : State) (b : Nat) (g : Field) : (s.bump b g).jrn = s.jrn := rfl
@[simp] theorem State.bump_strata (s : State) (b : Nat) (g : Field) : (s.bump b g).strata = s.strata := rfl
@[simp] theorem State.bump_host (s : State) (b : Nat) (g : Field) : (s.bump b g).host = s.host := rfl
@[simp] theorem State.bump_mgt (s : State) (b : Nat) (g : Field) : (s.bump b g).mgt = s.mgt := rfl
@[simp] theorem State.bump_jtag (s : State) (b : Nat) (g : Field) : (s.bump b g).jtag = s.jtag := rfl
@[simp] theorem State.bump_straps (s : State) (b : Nat) (g : Field) : (s.bump b g).straps = s.straps := rfl

/-! ### bumpBy -/

@[simp] theorem State.bumpBy_pending (s : State) (b : Nat) (g : Field) (n : Nat) :
    (s.bumpBy b g n).pending = s.pending := rfl
@[simp] theorem State.bumpBy_freeCount (s : State) (b : Nat) (g : Field) (n : Nat) :
    (s.bumpBy b g n).freeCount = s.freeCount := rfl
@[simp] theorem State.bumpBy_shadow (s : State) (b : Nat) (g : Field) (n : Nat) : (s.bumpBy b g n).shadow = s.shadow := rfl
@[simp] theorem State.bumpBy_mem (s : State) (b : Nat) (g : Field) (n : Nat) : (s.bumpBy b g n).mem = s.mem := rfl
@[simp] theorem State.bumpBy_poison (s : State) (b : Nat) (g : Field) (n : Nat) : (s.bumpBy b g n).poison = s.poison := rfl
@[simp] theorem State.bumpBy_tags (s : State) (b : Nat) (g : Field) (n : Nat) : (s.bumpBy b g n).tags = s.tags := rfl
@[simp] theorem State.bumpBy_dies (s : State) (b : Nat) (g : Field) (n : Nat) : (s.bumpBy b g n).dies = s.dies := rfl
@[simp] theorem State.bumpBy_tiles (s : State) (b : Nat) (g : Field) (n : Nat) : (s.bumpBy b g n).tiles = s.tiles := rfl
@[simp] theorem State.bumpBy_stackMap (s : State) (b : Nat) (g : Field) (n : Nat) :
    (s.bumpBy b g n).stackMap = s.stackMap := rfl
@[simp] theorem State.bumpBy_far (s : State) (b : Nat) (g : Field) (n : Nat) : (s.bumpBy b g n).far = s.far := rfl
@[simp] theorem State.bumpBy_digests (s : State) (b : Nat) (g : Field) (n : Nat) :
    (s.bumpBy b g n).digests = s.digests := rfl
@[simp] theorem State.bumpBy_cores (s : State) (b : Nat) (g : Field) (n : Nat) : (s.bumpBy b g n).cores = s.cores := rfl
@[simp] theorem State.bumpBy_procs (s : State) (b : Nat) (g : Field) (n : Nat) : (s.bumpBy b g n).procs = s.procs := rfl
@[simp] theorem State.bumpBy_solvers (s : State) (b : Nat) (g : Field) (n : Nat) :
    (s.bumpBy b g n).solvers = s.solvers := rfl
@[simp] theorem State.bumpBy_copies (s : State) (b : Nat) (g : Field) (n : Nat) : (s.bumpBy b g n).copies = s.copies := rfl
@[simp] theorem State.bumpBy_fabric (s : State) (b : Nat) (g : Field) (n : Nat) : (s.bumpBy b g n).fabric = s.fabric := rfl
@[simp] theorem State.bumpBy_ports (s : State) (b : Nat) (g : Field) (n : Nat) : (s.bumpBy b g n).ports = s.ports := rfl
@[simp] theorem State.bumpBy_coll (s : State) (b : Nat) (g : Field) (n : Nat) : (s.bumpBy b g n).coll = s.coll := rfl
@[simp] theorem State.bumpBy_tb (s : State) (b : Nat) (g : Field) (n : Nat) : (s.bumpBy b g n).tb = s.tb := rfl
@[simp] theorem State.bumpBy_chans (s : State) (b : Nat) (g : Field) (n : Nat) : (s.bumpBy b g n).chans = s.chans := rfl
@[simp] theorem State.bumpBy_pkc (s : State) (b : Nat) (g : Field) (n : Nat) : (s.bumpBy b g n).pkc = s.pkc := rfl
@[simp] theorem State.bumpBy_sec (s : State) (b : Nat) (g : Field) (n : Nat) : (s.bumpBy b g n).sec = s.sec := rfl
@[simp] theorem State.bumpBy_pwr (s : State) (b : Nat) (g : Field) (n : Nat) : (s.bumpBy b g n).pwr = s.pwr := rfl
@[simp] theorem State.bumpBy_jrn (s : State) (b : Nat) (g : Field) (n : Nat) : (s.bumpBy b g n).jrn = s.jrn := rfl
@[simp] theorem State.bumpBy_strata (s : State) (b : Nat) (g : Field) (n : Nat) : (s.bumpBy b g n).strata = s.strata := rfl
@[simp] theorem State.bumpBy_host (s : State) (b : Nat) (g : Field) (n : Nat) : (s.bumpBy b g n).host = s.host := rfl
@[simp] theorem State.bumpBy_mgt (s : State) (b : Nat) (g : Field) (n : Nat) : (s.bumpBy b g n).mgt = s.mgt := rfl
@[simp] theorem State.bumpBy_jtag (s : State) (b : Nat) (g : Field) (n : Nat) : (s.bumpBy b g n).jtag = s.jtag := rfl
@[simp] theorem State.bumpBy_straps (s : State) (b : Nat) (g : Field) (n : Nat) : (s.bumpBy b g n).straps = s.straps := rfl

end Sys2Proof.Machine
end

