-- ==== Sys2Proof/Laws/Parts.lean ====
section
/-! SUPPORT. Reading a part of the state after an update of a part: registers and their fields, tags, dies, tiles, stacks,
cores, engines, ports and channels. -/

namespace Sys2Proof.Machine

/-! ### Maps -/

theorem mapGet_mapErase_same {α : Type} (d : α) (m : FMap α) (k : Nat) : mapGet d (mapErase m k) k = d := by
  rw [mapGet_mapErase, if_pos rfl]

theorem mapGet_mapPut_same {α : Type} (d : α) (m : FMap α) (k : Nat) (v : α) : mapGet d (mapPut m k v) k = v := by
  rw [mapGet_mapPut, if_pos rfl]

theorem mapGet_mapPut_other {α : Type} (d : α) (m : FMap α) {k j : Nat} (v : α) (h : k ≠ j) :
    mapGet d (mapPut m k v) j = mapGet d m j := by
  rw [mapGet_mapPut, if_neg h]

/-- A value stored against one default reads back under another key's default as well. -/
theorem mapGet_mapSet_ne {α : Type} [DecidableEq α] (d e : α) (m : FMap α) {k j : Nat} (v : α) (h : k ≠ j) :
    mapGet e (mapSet d m k v) j = mapGet e m j := by
  unfold mapSet
  split
  · rw [mapGet_mapErase, if_neg h]
  · exact mapGet_mapPut_other e m v h

/-! ### Registers -/

@[simp] theorem State.reg_setReg_same (s : State) (a : Nat) (v : Word) : (s.setReg a v).reg a = v :=
  mapGet_mapSet_same _ _ _ _

theorem State.reg_setReg_other (s : State) {a b : Nat} (v : Word) (h : a ≠ b) : (s.setReg a v).reg b = s.reg b :=
  mapGet_mapSet_ne _ _ _ _ h

/-- The register file decides what registers read. -/
theorem State.reg_congr {s t : State} (h : s.regs = t.regs) (a : Nat) : s.reg a = t.reg a := by
  unfold State.reg
  rw [h]

theorem State.fld_congr {s t : State} (h : s.regs = t.regs) (b : Nat) (f : Field) : s.fld b f = t.fld b f := by
  unfold State.fld
  rw [State.reg_congr h]

theorem State.reg_setFld_same (s : State) (b : Nat) (f : Field) (v : Nat) :
    (s.setFld b f v).reg (b + f.off) = BitVec.ofNat 32 (putBits (s.reg (b + f.off)).toNat f.hi f.lo v) :=
  State.reg_setReg_same _ _ _

theorem State.reg_setFld_other (s : State) (b : Nat) (f : Field) (v : Nat) {a : Nat} (h : b + f.off ≠ a) :
    (s.setFld b f v).reg a = s.reg a :=
  State.reg_setReg_other _ _ h

theorem State.fld_setFld_other (s : State) (b c : Nat) (f g : Field) (v : Nat) (h : b + f.off ≠ c + g.off) :
    (s.setFld b f v).fld c g = s.fld c g := by
  unfold State.fld
  rw [State.reg_setFld_other _ _ _ _ h]

/-! ### Bit fields -/

theorem bitsOf_lt (x hi lo : Nat) : bitsOf x hi lo < 2 ^ (hi + 1 - lo) := Nat.mod_lt _ (Nat.two_pow_pos _)

/-- A number in the bits below `lo`, those of a field, and those above it. -/
theorem split_field (x hi lo : Nat) :
    x = x % 2 ^ lo + bitsOf x hi lo * 2 ^ lo + x / 2 ^ lo / 2 ^ (hi + 1 - lo) * 2 ^ (hi + 1 - lo) * 2 ^ lo := by
  have h1 := Nat.div_add_mod x (2 ^ lo)
  have h2 := Nat.div_add_mod (x / 2 ^ lo) (2 ^ (hi + 1 - lo))
  unfold bitsOf
  generalize x % 2 ^ lo = l at *
  generalize x / 2 ^ lo = y at *
  generalize y / 2 ^ (hi + 1 - lo) = z at *
  generalize y % 2 ^ (hi + 1 - lo) = r at *
  generalize 2 ^ (hi + 1 - lo) = p at *
  rw [← h1, ← h2, Nat.mul_add, Nat.mul_comm (2 ^ lo) (p * z), Nat.mul_comm p z, Nat.mul_comm (2 ^ lo) r]
  omega

/-- `putBits` replaces the field and keeps the rest. -/
theorem putBits_eq (x hi lo v : Nat) :
    putBits x hi lo v =
      x % 2 ^ lo + v % 2 ^ (hi + 1 - lo) * 2 ^ lo + x / 2 ^ lo / 2 ^ (hi + 1 - lo) * 2 ^ (hi + 1 - lo) * 2 ^ lo := by
  have h := split_field x hi lo
  unfold putBits
  omega

theorem bitsOf_putBits_same (x hi lo v : Nat) : bitsOf (putBits x hi lo v) hi lo = v % 2 ^ (hi + 1 - lo) := by
  rw [putBits_eq]
  have hp : 0 < 2 ^ lo := Nat.two_pow_pos _
  have hq : 0 < 2 ^ (hi + 1 - lo) := Nat.two_pow_pos _
  have hl : x % 2 ^ lo < 2 ^ lo := Nat.mod_lt _ hp
  have hv : v % 2 ^ (hi + 1 - lo) < 2 ^ (hi + 1 - lo) := Nat.mod_lt _ hq
  unfold bitsOf
  have e : x % 2 ^ lo + v % 2 ^ (hi + 1 - lo) * 2 ^ lo + x / 2 ^ lo / 2 ^ (hi + 1 - lo) * 2 ^ (hi + 1 - lo) * 2 ^ lo =
      x % 2 ^ lo + 2 ^ lo * (v % 2 ^ (hi + 1 - lo) + x / 2 ^ lo / 2 ^ (hi + 1 - lo) * 2 ^ (hi + 1 - lo)) := by
    rw [Nat.mul_add, Nat.mul_comm (2 ^ lo) (v % 2 ^ (hi + 1 - lo)),
      Nat.mul_comm (2 ^ lo) (x / 2 ^ lo / 2 ^ (hi + 1 - lo) * 2 ^ (hi + 1 - lo))]
    omega
  rw [e, Nat.add_mul_div_left _ _ hp, Nat.div_eq_of_lt hl, Nat.zero_add, Nat.add_mul_mod_self_right, Nat.mod_mod]

/-- A field above the one replaced keeps its value. -/
theorem bitsOf_putBits_above (x hi lo v : Nat) {hi' lo' : Nat} (hl : lo ≤ hi) (h : hi < lo') :
    bitsOf (putBits x hi lo v) hi' lo' = bitsOf x hi' lo' := by
  have hp : 0 < 2 ^ lo := Nat.two_pow_pos _
  have hq : 0 < 2 ^ (hi + 1 - lo) := Nat.two_pow_pos _
  have e : 2 ^ lo' = 2 ^ lo * 2 ^ (hi + 1 - lo) * 2 ^ (lo' - (hi + 1)) := by
    rw [← Nat.pow_add, ← Nat.pow_add]
    congr 1
    omega
  have hv : v % 2 ^ (hi + 1 - lo) < 2 ^ (hi + 1 - lo) := Nat.mod_lt _ hq
  have k : putBits x hi lo v / 2 ^ lo / 2 ^ (hi + 1 - lo) = x / 2 ^ lo / 2 ^ (hi + 1 - lo) := by
    rw [putBits_eq]
    have hb : x % 2 ^ lo < 2 ^ lo := Nat.mod_lt _ hp
    generalize x / 2 ^ lo / 2 ^ (hi + 1 - lo) = z
    rw [show x % 2 ^ lo + v % 2 ^ (hi + 1 - lo) * 2 ^ lo + z * 2 ^ (hi + 1 - lo) * 2 ^ lo =
        x % 2 ^ lo + (v % 2 ^ (hi + 1 - lo) + z * 2 ^ (hi + 1 - lo)) * 2 ^ lo from by rw [Nat.add_mul]; omega,
      Nat.add_mul_div_right _ _ hp, Nat.div_eq_of_lt hb, Nat.zero_add, Nat.add_mul_div_right _ _ hq, Nat.div_eq_of_lt hv,
      Nat.zero_add]
  unfold bitsOf
  rw [e, ← Nat.div_div_eq_div_mul, ← Nat.div_div_eq_div_mul, ← Nat.div_div_eq_div_mul, ← Nat.div_div_eq_div_mul, k]

/-- A field below the one replaced keeps its value. -/
theorem bitsOf_putBits_below (x hi lo v : Nat) {hi' lo' : Nat} (h : hi' < lo) (hl : lo' ≤ hi') :
    bitsOf (putBits x hi lo v) hi' lo' = bitsOf x hi' lo' := by
  have e : 2 ^ lo = 2 ^ lo' * 2 ^ (hi' + 1 - lo') * 2 ^ (lo - (hi' + 1)) := by
    rw [← Nat.pow_add, ← Nat.pow_add]
    congr 1
    omega
  have key : ∀ y, bitsOf y hi' lo' = bitsOf (y % 2 ^ lo) hi' lo' := by
    intro y
    unfold bitsOf
    have d := Nat.div_add_mod y (2 ^ lo)
    generalize y / 2 ^ lo = z at d
    generalize y % 2 ^ lo = m at *
    rw [← d, e, Nat.mul_assoc, Nat.mul_assoc, Nat.mul_add_div (Nat.two_pow_pos _), Nat.mul_add_mod]
  rw [key, key x, putBits_eq]
  congr 1
  have : x % 2 ^ lo + v % 2 ^ (hi + 1 - lo) * 2 ^ lo + x / 2 ^ lo / 2 ^ (hi + 1 - lo) * 2 ^ (hi + 1 - lo) * 2 ^ lo =
      x % 2 ^ lo + (v % 2 ^ (hi + 1 - lo) + x / 2 ^ lo / 2 ^ (hi + 1 - lo) * 2 ^ (hi + 1 - lo)) * 2 ^ lo := by
    rw [Nat.add_mul]; omega
  rw [this, Nat.add_mul_mod_self_right, Nat.mod_mod]

/-- A 32-bit register with one of its fields replaced stays below 2^32. -/
theorem putBits_lt {x hi lo v n : Nat} (hx : x < 2 ^ n) (hh : hi < n) (hl : lo ≤ hi) : putBits x hi lo v < 2 ^ n := by
  have h := split_field x hi lo
  have h2 := putBits_eq x hi lo v
  have hp : 0 < 2 ^ lo := Nat.two_pow_pos _
  have hb : x % 2 ^ lo < 2 ^ lo := Nat.mod_lt _ hp
  have hv : v % 2 ^ (hi + 1 - lo) < 2 ^ (hi + 1 - lo) := Nat.mod_lt _ (Nat.two_pow_pos _)
  have hz : x / 2 ^ lo / 2 ^ (hi + 1 - lo) < 2 ^ (n - (hi + 1)) := by
    rw [Nat.div_div_eq_div_mul, ← Nat.pow_add, Nat.div_lt_iff_lt_mul (Nat.two_pow_pos _), ← Nat.pow_add]
    have e : n - (hi + 1) + (lo + (hi + 1 - lo)) = n := by omega
    rw [e]
    exact hx
  generalize hZ : x / 2 ^ lo / 2 ^ (hi + 1 - lo) = z at *
  have e2 : 2 ^ n = 2 ^ (n - (hi + 1)) * 2 ^ (hi + 1 - lo) * 2 ^ lo := by
    rw [← Nat.pow_add, ← Nat.pow_add]
    congr 1
    omega
  rw [h2, e2]
  have h3 : (z + 1) * 2 ^ (hi + 1 - lo) * 2 ^ lo ≤ 2 ^ (n - (hi + 1)) * 2 ^ (hi + 1 - lo) * 2 ^ lo :=
    Nat.mul_le_mul_right _ (Nat.mul_le_mul_right _ hz)
  have h4 : (v % 2 ^ (hi + 1 - lo) + 1) * 2 ^ lo ≤ 2 ^ (hi + 1 - lo) * 2 ^ lo := Nat.mul_le_mul_right _ hv
  simp only [Nat.add_mul, Nat.one_mul] at h3 h4
  omega

/-- A field reads back what was stored in it. -/
theorem State.fld_setFld_same (s : State) (b : Nat) (f : Field) (v : Nat) (hh : f.hi < 32) (hl : f.lo ≤ f.hi) :
    (s.setFld b f v).fld b f = v % 2 ^ (f.hi + 1 - f.lo) := by
  unfold State.fld
  rw [State.reg_setFld_same, BitVec.toNat_ofNat, Nat.mod_eq_of_lt (putBits_lt (s.reg _).isLt hh hl),
    bitsOf_putBits_same]

/-- Storing a field keeps the fields of the same register above and below it. -/
theorem State.fld_setFld_apart (s : State) (b c : Nat) (f g : Field) (v : Nat) (ho : b + f.off = c + g.off)
    (hh : f.hi < 32) (hl : f.lo ≤ f.hi) (hg : g.lo ≤ g.hi) (h : f.hi < g.lo ∨ g.hi < f.lo) :
    (s.setFld b f v).fld c g = s.fld c g := by
  unfold State.fld
  rw [← ho, State.reg_setFld_same, BitVec.toNat_ofNat, Nat.mod_eq_of_lt (putBits_lt (s.reg _).isLt hh hl)]
  rcases h with h | h
  · exact bitsOf_putBits_above _ _ _ _ hl h
  · exact bitsOf_putBits_below _ _ _ _ h hg

/-! ### Units -/

@[simp] theorem State.die_setDie_same (s : State) (d : Nat) (x : DieX) : (s.setDie d x).die d = x :=
  mapGet_mapPut_same _ _ _ _
theorem State.die_setDie_other (s : State) {d e : Nat} (x : DieX) (h : d ≠ e) : (s.setDie d x).die e = s.die e :=
  mapGet_mapPut_other _ _ _ h
@[simp] theorem State.die_modDie_same (s : State) (d : Nat) (f : DieX → DieX) : (s.modDie d f).die d = f (s.die d) :=
  mapGet_mapPut_same _ _ _ _
theorem State.die_modDie_other (s : State) {d e : Nat} (f : DieX → DieX) (h : d ≠ e) : (s.modDie d f).die e = s.die e :=
  mapGet_mapPut_other _ _ _ h

theorem tileKey_inj {d t d' t' : Nat} (h : t < 768) (h' : t' < 768) (e : tileKey d t = tileKey d' t') : d = d' ∧ t = t' := by
  unfold tileKey at e
  omega

@[simp] theorem State.tile_setTile_same (s : State) (d t : Nat) (x : TileX) : (s.setTile d t x).tile d t = x :=
  mapGet_mapPut_same _ _ _ _
@[simp] theorem State.tile_modTile_same (s : State) (d t : Nat) (f : TileX → TileX) :
    (s.modTile d t f).tile d t = f (s.tile d t) :=
  mapGet_mapPut_same _ _ _ _
theorem State.tile_modTile_other (s : State) {d t d' t' : Nat} (f : TileX → TileX) (h : tileKey d t ≠ tileKey d' t') :
    (s.modTile d t f).tile d' t' = s.tile d' t' :=
  mapGet_mapPut_other _ _ _ h

@[simp] theorem State.stack_modStack_same (s : State) (k : Nat) (f : StackX → StackX) :
    (s.modStack k f).stack k = f (s.stack k) :=
  mapGet_mapPut_same _ _ _ _
theorem State.stack_modStack_other (s : State) {k j : Nat} (f : StackX → StackX) (h : k ≠ j) :
    (s.modStack k f).stack j = s.stack j :=
  mapGet_mapPut_other _ _ _ h

@[simp] theorem State.core_modCore_same (s : State) (c : Nat) (f : CoreX → CoreX) : (s.modCore c f).core c = f (s.core c) :=
  mapGet_mapPut_same _ _ _ _
theorem State.core_modCore_other (s : State) {c e : Nat} (f : CoreX → CoreX) (h : c ≠ e) :
    (s.modCore c f).core e = s.core e :=
  mapGet_mapPut_other _ _ _ h

@[simp] theorem State.solver_modSolver_same (s : State) (e : Nat) (f : SolverX → SolverX) :
    (s.modSolver e f).solver e = f (s.solver e) :=
  mapGet_mapPut_same _ _ _ _
@[simp] theorem State.copy_modCopy_same (s : State) (e : Nat) (f : CopyX → CopyX) : (s.modCopy e f).copy e = f (s.copy e) :=
  mapGet_mapPut_same _ _ _ _
@[simp] theorem State.port_modPort_same (s : State) (p : Nat) (f : PortX → PortX) : (s.modPort p f).port p = f (s.port p) :=
  mapGet_mapPut_same _ _ _ _
theorem State.port_modPort_other (s : State) {p r : Nat} (f : PortX → PortX) (h : p ≠ r) :
    (s.modPort p f).port r = s.port r :=
  mapGet_mapPut_other _ _ _ h
@[simp] theorem State.chan_modChan_same (s : State) (n : Nat) (f : ChanX → ChanX) : (s.modChan n f).chan n = f (s.chan n) :=
  mapGet_mapPut_same _ _ _ _
theorem State.chan_modChan_other (s : State) {n m : Nat} (f : ChanX → ChanX) (h : n ≠ m) :
    (s.modChan n f).chan m = s.chan m :=
  mapGet_mapPut_other _ _ _ h

/-! ### Tags -/

@[simp] theorem State.tag_setTag_same (s : State) (d t p : Nat) (g : Tag) : (s.setTag d t p g).tag d t p = g :=
  mapGet_mapSet_same _ _ _ _
theorem State.tag_setTag_other (s : State) {d t p d' t' p' : Nat} (g : Tag) (h : slotNo d t p ≠ slotNo d' t' p') :
    (s.setTag d t p g).tag d' t' p' = s.tag d' t' p' :=
  mapGet_mapSet_ne _ _ _ _ h

end Sys2Proof.Machine
end

