-- ==== Sys2Proof/Laws/Tile.lean ====
section
/-! SUPPORT. What an issue does on a calm die: no stream, no word under way, no upset, no matrix operation. -/

namespace Sys2Proof.Machine

theorem mapPut_mapPut {α : Type} (m : FMap α) (k : Nat) (v w : α) : mapPut (mapPut m k v) k w = mapPut m k w := by
  induction m with
  | nil => simp [mapPut]
  | cons e m ih =>
    obtain ⟨i, x⟩ := e
    by_cases h1 : k < i
    · simp [mapPut, h1]
    · by_cases h2 : i = k
      · simp [mapPut, h2]
      · simp [mapPut, h1, h2, ih]

theorem State.setTile_setTile (s : State) (d t : Nat) (x y : TileX) : (s.setTile d t x).setTile d t y = s.setTile d t y := by
  unfold State.setTile
  simp [mapPut_mapPut]

theorem State.modTile_eq (s : State) (d t : Nat) (f : TileX → TileX) : s.modTile d t f = s.setTile d t (f (s.tile d t)) := rfl

theorem State.modTile_setTile (s : State) (d t : Nat) (x : TileX) (f : TileX → TileX) :
    (s.setTile d t x).modTile d t f = s.setTile d t (f x) := by
  rw [State.modTile_eq, State.tile_setTile_same, State.setTile_setTile]

/-- Streams and switches leave a die alone on which no stream runs and no word is under way. -/
theorem State.stream_still {s : State} {d lim : Nat} (hf : (s.die d).flights = [])
    (ht : ∀ e ∈ s.tiles, e.1 / 768 = d → e.2.snd = [] ∧ e.2.rcv = []) : s.stream d lim = s := by
  unfold State.stream State.settle
  have h : (s.tiles.filter fun e => e.1 / 768 == d && (!e.2.snd.isEmpty || !e.2.rcv.isEmpty)) = [] := by
    rw [List.filter_eq_nil_iff]
    intro e he
    by_cases hd : e.1 / 768 = d
    · obtain ⟨h1, h2⟩ := ht e he hd
      simp [h1, h2]
    · simp [hd]
  simp [h, hf]

theorem State.dieCalm_flights {s : State} {d : Nat} (h : s.dieCalm d = true) : (s.die d).flights = [] := by
  simp [State.dieCalm] at h
  exact h.1.1.2

theorem State.dieCalm_upsets {s : State} {d : Nat} (h : s.dieCalm d = true) : (s.die d).upsets = [] := by
  simp [State.dieCalm] at h
  exact h.1.2

theorem State.dieCalm_running {s : State} {d : Nat} (h : s.dieCalm d = true) : s.dieState d = dsRUNNING := by
  simp [State.dieCalm] at h
  exact h.1.1.1

theorem State.dieCalm_tiles {s : State} {d : Nat} (h : s.dieCalm d = true) :
    ∀ e ∈ s.tiles, e.1 / 768 = d → e.2.snd = [] ∧ e.2.rcv = [] := by
  simp only [State.dieCalm, Bool.and_eq_true, List.all_eq_true] at h
  intro e he hd
  have := h.2 e he
  simpa [hd] using this

theorem mem_mapPut {α : Type} {m : FMap α} {k : Nat} {v : α} {e : Nat × α} (h : e ∈ mapPut m k v) :
    e = (k, v) ∨ e ∈ m := by
  induction m with
  | nil => simpa [mapPut] using h
  | cons a m ih =>
    obtain ⟨i, x⟩ := a
    unfold mapPut at h
    split at h
    · rcases List.mem_cons.mp h with h | h
      · exact .inl h
      · exact .inr h
    · split at h
      · rcases List.mem_cons.mp h with h | h
        · exact .inl h
        · exact .inr (List.mem_cons_of_mem _ h)
      · rcases List.mem_cons.mp h with h | h
        · exact .inr (h ▸ List.mem_cons_self ..)
        · rcases ih h with h | h
          · exact .inl h
          · exact .inr (List.mem_cons_of_mem _ h)

theorem State.mmaSync_idle {s : State} {d t c : Nat} (h : (s.tile d t).mma = none) : s.mmaSync d t c = s := by
  unfold State.mmaSync
  rw [h]

theorem State.tagWaits_free {s : State} {d t : Nat} {w : BitVec 128} {r x : List Nat} (h : microTc w = false) :
    s.tagWaits d t w r x = [] := by
  unfold State.tagWaits
  simp [h]

/-- An issue that waits for nothing: the tile moves past the instruction, and the effect follows. -/
theorem State.issueWith_now {s : State} {d t op : Nat} {w : BitVec 128} {r x : List Nat} {f : State → State}
    (h : s.issuesNow d t w op = true) :
    s.issueWith d t w op r x f = (f (s.setTile d t ((s.tile d t).past w))).stream d (s.tile d t).cycle := by
  simp only [State.issuesNow, Bool.and_eq_true, Bool.not_eq_true', Option.isNone_iff_eq_none, List.isEmpty_iff] at h
  obtain ⟨⟨⟨⟨⟨hc, ha⟩, htc⟩, hm⟩, hv⟩, hl⟩ := h
  have e1 : s.stream d (s.tile d t).cycle = s := State.stream_still (State.dieCalm_flights hc) (State.dieCalm_tiles hc)
  have hr := State.dieCalm_running hc
  have e2 : s.dieRuns d = true := by simp [State.dieRuns, hr]
  have e3 : s.issued d t w = s.setTile d t ((s.tile d t).past w) := by
    unfold State.issued TileX.past
    rw [State.modTile_eq]
    simp [hl]
  unfold State.issueWith
  simp [ha, e1, State.mmaSync_idle hm, State.tagWaits_free htc, e2, hr, htc, e3]

/-- The streams stay still over an update of a tile that starts none. -/
theorem State.stream_setTile {s : State} {d t lim : Nat} {x : TileX} (hc : s.dieCalm d = true) (hs : x.snd = [])
    (hr : x.rcv = []) : (s.setTile d t x).stream d lim = s.setTile d t x := by
  apply State.stream_still
  · exact (State.dieCalm_flights hc : (s.die d).flights = [])
  · intro e he hd
    rcases mem_mapPut he with h | h
    · subst h
      exact ⟨hs, hr⟩
    · exact State.dieCalm_tiles hc e h hd

theorem mapGet_mem {α : Type} (d : α) (m : FMap α) (k : Nat) : mapGet d m k = d ∨ (k, mapGet d m k) ∈ m := by
  induction m with
  | nil => exact .inl rfl
  | cons a m ih =>
    obtain ⟨i, x⟩ := a
    unfold mapGet
    split
    · next h => subst h; exact .inr (List.mem_cons_self ..)
    · rcases ih with h | h
      · exact .inl h
      · exact .inr (List.mem_cons_of_mem _ h)

/-- No stream runs in a tile of a calm die. -/
theorem State.dieCalm_tile {s : State} {d t : Nat} (h : s.dieCalm d = true) (ht : t < 768) :
    (s.tile d t).snd = [] ∧ (s.tile d t).rcv = [] := by
  rcases mapGet_mem TileX.init s.tiles (tileKey d t) with e | e
  · have : s.tile d t = TileX.init := e
    rw [this]
    exact ⟨rfl, rfl⟩
  · refine State.dieCalm_tiles h _ e ?_
    show tileKey d t / 768 = d
    unfold tileKey
    omega

/-- An issue whose effect is an update of its tile that starts no stream. -/
theorem State.issueWith_tile {s : State} {d t op : Nat} {w : BitVec 128} {r x : List Nat} {g : TileX → TileX} (ht : t < 768)
    (h : s.issuesNow d t w op = true) (hg : ∀ y : TileX, (g y).snd = y.snd ∧ (g y).rcv = y.rcv) :
    s.issueWith d t w op r x (fun s => s.modTile d t g) = s.setTile d t (g ((s.tile d t).past w)) := by
  have hc : s.dieCalm d = true := by
    simp only [State.issuesNow, Bool.and_eq_true] at h
    exact h.1.1.1.1.1
  rw [State.issueWith_now h, State.modTile_setTile]
  have k := State.dieCalm_tile hc ht
  exact State.stream_setTile hc ((hg _).1.trans k.1) ((hg _).2.trans k.2)

end Sys2Proof.Machine
end

