-- ==== Sys2Proof/WellFormed.lean ====
section
/-! DEFINITION. Well-formed commands: what their operands must satisfy beside their types, so that a command is one that the
spec gives the package: encoded words carry the opcode of their row and zero in reserved bits (R111, R132, R217, R241), numbers
lie within the fields that carry them (R319, R446), and data has a length that one access can have. -/

namespace Sys2Proof

/-- Bits [hi..lo] of a word. -/
def fieldOf {n : Nat} (w : BitVec n) (hi lo : Nat) : Nat := w.toNat / 2 ^ lo % 2 ^ (hi + 1 - lo)

/-- The bits of operand words A, B and C that a micro-instruction names (R111, R114, R134). -/
def operandMask (op : Nat) : BitVec 96 :=
  match op with
  | 0x02 => 0x0000FFFF0000000000000000
  | 0x03 => 0xE0000000FFFFFFFF00000000
  | 0x04 => 0xE00003FF0000000000000000
  | 0x10 => 0xFFC000000000000000000000
  | 0x20 => 0xFF000000FFF80000FFFFFFFF
  | 0x30 | 0x31 => 0xFFFFFFC00000000000000000
  | 0x38 => 0xFFFFF800FFFFFFFF00000000
  | 0x3C => 0xFFFFFFC30000000000000000
  | _ => 0

/-- A micro-instruction word of opcode `op`: no reserved bit set, TAGOP 0 or 1 (R111, R113). -/
def microWf (op : Nat) (w : BitVec 128) : Bool :=
  fieldOf w 127 120 == op && fieldOf w 112 96 == 0 && decide (fieldOf w 114 113 < 2) &&
    w.truncate 96 &&& ~~~operandMask op == 0

/-- A vector-instruction word of opcode `vop`; bit 16 is reserved (R132). -/
def vectorWf (vop : Nat) (w : BitVec 64) : Bool := fieldOf w 63 56 == vop && fieldOf w 16 16 == 0

/-- A core word of a major opcode, of a vector function, of a system function (R217, R241). -/
def majorWf (major : Nat) (w : Word) : Bool := fieldOf w 31 26 == major
def coreWf (major fn : Nat) (w : Word) : Bool := majorWf major w && fieldOf w 5 0 == fn
def systemWf (fn : Nat) (w : Word) : Bool := majorWf 0x3E w && fieldOf w 15 0 == fn

/-- Unit numbers within the package, places of 15 bits (R1, R340). -/
def Agent.wf : Agent → Bool
  | .host fn _ => decide (fn < 16)
  | .core c => decide (c < 128)
  | .tile d t => decide (d < 12) && decide (t < 768)
  | .dieSeq d => decide (d < 12)
  | .solver e => decide (e < 8)
  | .copy e => decide (e < 20)
  | .pkc => true
  | .mgt => true
  | .remote p => decide (p < 2 ^ 15)

/-- A window access lies in one slot of the window (R157, R158). -/
def WindowAccess.wf (a : WindowAccess) : Bool :=
  decide (a.off < 0x40000000) && decide (a.place < 2 ^ 15) &&
    (match a.op with
     | .read n => decide (0 < n) && decide (a.off % 256 + n ≤ 256)
     | .write data _ _ => decide (0 < data.length) && decide (a.off % 256 + data.length ≤ 256)
     | .atomic => true)

/-- Header fields within their widths, and LENGTH the payload's (R319). -/
def Packet.wf (p : Packet) : Bool :=
  decide (p.tc < 8) && decide (p.hops < 16) && decide (p.kind < 256) && decide (p.length ≤ 4096) && p.payload.length == p.length &&
    decide (p.dst < 2 ^ 15) && decide (p.src < 2 ^ 15) && decide (p.via < 2 ^ 15) && decide (p.epoch < 256) &&
    decide (p.seq < 65536) && decide (p.srcDie < 16) && decide (p.srcUnit < 1024) && decide (p.space < 16) && decide (p.addr < 2 ^ 45) && decide (p.status < 65536)

/-- A channel of the package, a role of three bits and an entry place (R446, R463, R467). -/
def CmdHdr.wf (h : CmdHdr) : Bool :=
  decide (h.chan < 0x180) && decide (h.role < 8) && decide (h.entry < 2 ^ 15) && h.barred.all (fun d => decide (d < 14))

/-- Regions with sensors: 8 of a compute die, 16 of a processor die (R582). -/
def regionCount (d : Nat) : Nat := if d < 12 then 8 else 16

/-- A sensor of a unit that exists (R398, R506). -/
def Reading.wf (r : Reading) : Bool :=
  match r.unit with
  | .die d r => decide (d < 14) && decide (r < regionCount d)
  | .stack k => decide (k < 12)

/-- The command is well formed. -/
def Instr.wf : Instr → Bool
  | .registerWrite who off wide _ => who.wf && decide (off < 2 ^ 26) && off % (if wide then 8 else 4) == 0
  | .stepCut _ => true
  | .switchStepStart _ => true
  | .dieStart _ => true
  | .arm _ => true
  | .stop _ => true
  | .abort _ => true
  | .dieAtEnd _ => true
  | .nop _ _ w => microWf 0x00 w
  | .endStep _ _ w => microWf 0x01 w
  | .idle _ _ w => microWf 0x02 w
  | .loop _ _ w => microWf 0x03 w
  | .brl _ _ w => microWf 0x04 w
  | .mma _ _ w => microWf 0x10 w
  | .mmaComplete _ _ => true
  | .vec _ _ w => microWf 0x20 w
  | .vecProgramComplete _ _ => true
  | .send _ _ w => microWf 0x30 w
  | .sendComplete _ _ => true
  | .recv _ _ w => microWf 0x31 w
  | .recvComplete _ _ => true
  | .tags _ _ w => microWf 0x3C w
  | .reqRead _ _ w => microWf 0x38 w
  | .reqWrite _ _ w => microWf 0x38 w
  | .reqAtomic _ _ w => microWf 0x38 w
  | .reqCopy _ _ w => microWf 0x38 w
  | .reqFence _ _ w => microWf 0x38 w
  | .tagWaitRelease _ => true
  | .tagWaitTimeout _ => true
  | .staticRouteArrival _ _ _ _ data => decide (data.length = 256)
  | .scratchArrival _ _ _ ofs data _ _ => decide (0 < data.length) && decide (ofs + data.length ≤ 256)
  | .scratchWindowAccess _ a => a.wf
  | .scrClearGo _ _ => true
  | .scrClearDone _ => true
  | .scratchScrub _ struck => struck.all fun u => decide (u.word < 32)
  | .copy _ _ w => vectorWf 0x01 w
  | .add _ _ w => vectorWf 0x02 w
  | .sub _ _ w => vectorWf 0x03 w
  | .mul _ _ w => vectorWf 0x04 w
  | .fma _ _ w => vectorWf 0x05 w
  | .min _ _ w => vectorWf 0x06 w
  | .max _ _ w => vectorWf 0x07 w
  | .abs _ _ w => vectorWf 0x08 w
  | .neg _ _ w => vectorWf 0x09 w
  | .div _ _ w => vectorWf 0x10 w
  | .sqrt _ _ w => vectorWf 0x11 w
  | .rsqrt _ _ w => vectorWf 0x12 w
  | .exp _ _ w => vectorWf 0x18 w
  | .log _ _ w => vectorWf 0x19 w
  | .tanh _ _ w => vectorWf 0x1A w
  | .sigm _ _ w => vectorWf 0x1B w
  | .sin _ _ w => vectorWf 0x1C w
  | .cos _ _ w => vectorWf 0x1D w
  | .cvt _ _ w => vectorWf 0x20 w
  | .bamax _ _ w => vectorWf 0x21 w
  | .rsum _ _ w => vectorWf 0x28 w
  | .rmax _ _ w => vectorWf 0x29 w
  | .rmin _ _ w => vectorWf 0x2A w
  | .ramax _ _ w => vectorWf 0x2B w
  | .argmax _ _ w => vectorWf 0x2C w
  | .amxrd _ _ w => vectorWf 0x30 w
  | .flg _ _ w => vectorWf 0x31 w
  | .lds _ _ w => vectorWf 0x32 w
  | .sts _ _ w => vectorWf 0x33 w
  | .mouldLoad h ps => h.wf && decide (ps.length < 65536)
  | .mouldStreamDone _ _ => true
  | .mouldCheckDone _ _ => true
  | .mouldSwitch h ps => h.wf && decide (ps.length < 65536)
  | .mouldEvict h ps => h.wf && decide (ps.length < 65536)
  | .refireSwitch _ => true
  | .tnmSlotWrite _ _ _ => true
  | .fenceL _ w => systemWf 0x0001 w
  | .fenceG _ w => systemWf 0x0002 w
  | .fenceGComplete _ => true
  | .invl _ w => systemWf 0x0010 w
  | .invr _ w => systemWf 0x0011 w
  | .inva _ w => systemWf 0x0012 w
  | .invalidationComplete _ => true
  | .wait _ w => systemWf 0x0020 w
  | .gate _ w => systemWf 0x0030 w
  | .eret _ w => systemWf 0x0031 w
  | .grain _ w => systemWf 0x0040 w
  | .coreLoad _ _ _ _ _ _ => true
  | .coreStore _ _ _ _ _ => true
  | .coreAtomic _ _ _ _ aop _ _ _ => decide (aop < 256)
  | .coreLoadReply _ _ => true
  | .interruptTake _ => true
  | .grainCmpMatch _ => true
  | .coreRelease _ => true
  | .nmi _ => true
  | .ipiSend _ _ => true
  | .ipiClear _ => true
  | .vadd _ w => coreWf 0x38 0x00 w
  | .vsub _ w => coreWf 0x38 0x01 w
  | .vmul _ w => coreWf 0x38 0x02 w
  | .vdiv _ w => coreWf 0x38 0x03 w
  | .vsqrt _ w => coreWf 0x38 0x04 w
  | .vmin _ w => coreWf 0x38 0x05 w
  | .vmax _ w => coreWf 0x38 0x06 w
  | .vsel _ w => coreWf 0x38 0x07 w
  | .vfma _ w => coreWf 0x38 0x08 w
  | .vfms _ w => coreWf 0x38 0x09 w
  | .vneg _ w => coreWf 0x38 0x0A w
  | .vcmul _ w => coreWf 0x38 0x10 w
  | .vcmulc _ w => coreWf 0x38 0x11 w
  | .vcmula _ w => coreWf 0x38 0x12 w
  | .vcmpeq _ w => coreWf 0x38 0x18 w
  | .vcmplt _ w => coreWf 0x38 0x19 w
  | .vcmple _ w => coreWf 0x38 0x1A w
  | .viadd _ w => coreWf 0x38 0x20 w
  | .visub _ w => coreWf 0x38 0x21 w
  | .vimul _ w => coreWf 0x38 0x22 w
  | .vand _ w => coreWf 0x38 0x23 w
  | .vor _ w => coreWf 0x38 0x24 w
  | .vxor _ w => coreWf 0x38 0x25 w
  | .vsll _ w => coreWf 0x38 0x26 w
  | .vsra _ w => coreWf 0x38 0x27 w
  | .vfcvtI _ w => coreWf 0x38 0x28 w
  | .vicvtF _ w => coreWf 0x38 0x29 w
  | .vwcvt _ w => coreWf 0x38 0x2A w
  | .vncvt _ w => coreWf 0x38 0x2B w
  | .vrsum _ w => coreWf 0x38 0x30 w
  | .vrmax _ w => coreWf 0x38 0x31 w
  | .vrmin _ w => coreWf 0x38 0x32 w
  | .vsplat _ w => coreWf 0x38 0x3C w
  | .scalarFpOp _ w => majorWf 0x3C w
  | .setvl _ w => coreWf 0x3B 0x00 w
  | .vlr _ w => coreWf 0x3B 0x01 w
  | .vlw _ w => coreWf 0x3B 0x02 w
  | .vstr _ w => coreWf 0x3B 0x03 w
  | .vstw _ w => coreWf 0x3B 0x04 w
  | .mand _ w => coreWf 0x3B 0x08 w
  | .mor _ w => coreWf 0x3B 0x09 w
  | .mnot _ w => coreWf 0x3B 0x0A w
  | .mpop _ w => coreWf 0x3B 0x0B w
  | .mfirst _ w => coreWf 0x3B 0x0C w
  | .fsrr _ w => coreWf 0x3B 0x10 w
  | .fsrw _ w => coreWf 0x3B 0x11 w
  | .vmvg _ w => coreWf 0x3B 0x20 w
  | .vmvf _ w => coreWf 0x3B 0x21 w
  | .vectorLoad _ w _ _ => majorWf 0x39 w
  | .vectorStore _ w _ _ => majorWf 0x3A w
  | .slvSubmit _ who _ => who.wf
  | .batchStart _ => true
  | .batchEngineDone _ => true
  | .redoDone _ => true
  | .batchDeadline _ _ => true
  | .batchComplete _ => true
  | .stackOpApply _ _ => true
  | .digestJobDone _ => true
  | .memScrub _ struck => struck.all fun u => decide (u.word < 32)
  | .farTierAccess _ => true
  | .ftDevCommit _ _ => true
  | .ftLinkDown _ _ => true
  | .ftLinkUp _ => true
  | .ftBadResponse _ tag => decide (tag < 2 ^ 16)
  | .flitReceive _ _ _ words => decide (words.length = 64)
  | .nakReceive _ words => decide (words.length = 64)
  | .creditReceive _ words => decide (words.length = 64)
  | .identReceive _ words _ => decide (words.length = 64)
  | .quarantineReceive _ words => decide (words.length = 64)
  | .portDown _ _ => true
  | .portTrainStart _ => true
  | .trainingTimeout _ => true
  | .portRelease _ role => decide (role < 4)
  | .retrain _ => true
  | .portEnable _ _ => true
  | .knock _ => true
  | .packetForward _ pkt _ => pkt.wf
  | .congSample _ _ _ peers => decide (peers.length ≤ 36)
  | .routeNotice pkt unreachable => pkt.wf && unreachable.all fun p => decide (p < 2 ^ 15)
  | .resendTimeout _ _ => true
  | .requestSend => true
  | .remoteRequestReceive pkt => pkt.wf
  | .heldRequestRelease _ _ => true
  | .ackSend _ => true
  | .ackReceive pkt => pkt.wf
  | .readRespReceive pkt status _ => pkt.wf && decide (status < 2 ^ 16)
  | .atomicRespReceive pkt status => pkt.wf && decide (status < 2 ^ 16)
  | .respAckReceive pkt => pkt.wf
  | .fenceComplete a => a.wf
  | .cpeSubmit _ who _ => who.wf
  | .cpeWrite _ => true
  | .cpeAtomic _ => true
  | .cpeCopy _ => true
  | .cpeFence _ => true
  | .cpeDescriptorComplete _ => true
  | .teamCreate h ps => h.wf && decide (ps.length < 65536)
  | .teamDestroy h ps => h.wf && decide (ps.length < 65536)
  | .teamReset h ps => h.wf && decide (ps.length < 65536)
  | .teamInfo h ps => h.wf && decide (ps.length < 65536)
  | .collBarrier _ _ => true
  | .collScalar _ _ => true
  | .collVote _ _ _ _ => true
  | .collBcast _ _ => true
  | .collReduce _ _ => true
  | .collAllreduce _ _ => true
  | .upMessageReceive m => decide (m.child < 2 ^ 15) && decide (m.flags < 2 ^ 32)
  | .releaseReceive m => decide (m.status < 65536) && decide (m.flags < 2 ^ 32)
  | .alignedCompletion _ _ _ => true
  | .chunkReceive m => decide (m.sender < 2 ^ 15) && decide (m.data.length ≤ 1048576)
  | .chunkAckReceive _ _ _ _ => true
  | .doneReceive _ _ _ _ flags => decide (flags < 2 ^ 32)
  | .heartbeat _ _ => true
  | .parentLost _ => true
  | .inputLost _ _ => true
  | .resumeReceive _ _ _ _ => true
  | .callTimeout _ _ _ => true
  | .sensorSample rs => rs.all Reading.wf
  | .clockDemandEnd _ _ => true
  | .droopDetect d region => decide (region < regionCount d)
  | .tbSyncSend => true
  | .tbSync _ m _ => decide (m.distance < 16) && decide (m.gmPlace < 2 ^ 15)
  | .tbDelayReq _ m _ => decide (m.distance < 16) && decide (m.gmPlace < 2 ^ 15)
  | .tbDelayResp _ m => decide (m.distance < 16) && decide (m.gmPlace < 2 ^ 15)
  | .upstreamLoss => true
  | .ppsEdge => true
  | .ppsMiss => true
  | .tbReselect => true
  | .tbNowRead => true
  | .commandLaunch chan _ => decide (chan < 0x180)
  | .chReqPush who chan _ => who.wf && decide (chan < 0x180)
  | .chRspRead who chan => who.wf && decide (chan < 0x180)
  | .keepalive who chan => who.wf && decide (chan < 0x180)
  | .resync who chan => who.wf && decide (chan < 0x180)
  | .commandPacketReceive chan => decide (chan < 0x180)
  | .commandAcknowledge chan => decide (chan < 0x180)
  | .sessionIdleTimeout chan => decide (chan < 0x180)
  | .cmdFwd pkt => pkt.wf
  | .cmdRpl pkt => pkt.wf
  | .memberReplyTimeout chan _ _ => decide (chan < 0x180)
  | .mgmtRead pkt => pkt.wf
  | .mgmtWrite pkt => pkt.wf
  | .mgmtResp pkt status => pkt.wf && decide (status < 65536)
  | .sessionChallenge h ps => h.wf && decide (ps.length < 65536)
  | .sessionOpen h ps => h.wf && decide (ps.length < 65536)
  | .sessionClose h ps => h.wf && decide (ps.length < 65536)
  | .sessionInfo h ps => h.wf && decide (ps.length < 65536)
  | .nopCommand h ps => h.wf && decide (ps.length < 65536)
  | .unitArm h ps => h.wf && decide (ps.length < 65536)
  | .unitStop h ps => h.wf && decide (ps.length < 65536)
  | .unitAbort h ps => h.wf && decide (ps.length < 65536)
  | .regRead h ps => h.wf && decide (ps.length < 65536)
  | .regWrite h ps => h.wf && decide (ps.length < 65536)
  | .taskSet h ps => h.wf && decide (ps.length < 65536)
  | .modeSet h ps => h.wf && decide (ps.length < 65536)
  | .memRead h ps => h.wf && decide (ps.length < 65536)
  | .memWrite h ps => h.wf && decide (ps.length < 65536)
  | .memFill h ps => h.wf && decide (ps.length < 65536)
  | .copyCommand h ps => h.wf && decide (ps.length < 65536)
  | .mrtWrite h ps => h.wf && decide (ps.length < 65536)
  | .scrClear h ps => h.wf && decide (ps.length < 65536)
  | .stratumConfig h ps => h.wf && decide (ps.length < 65536)
  | .stratumTensor h ps => h.wf && decide (ps.length < 65536)
  | .stratumArm h ps => h.wf && decide (ps.length < 65536)
  | .stratumAbandon h ps => h.wf && decide (ps.length < 65536)
  | .stratumCommitted h ps => h.wf && decide (ps.length < 65536)
  | .stratumList h ps => h.wf && decide (ps.length < 65536)
  | .stratumTimerExpire _ => true
  | .shardForm _ => true
  | .stratumCommit _ => true
  | .stratumCommitTimeout _ => true
  | .strAbandon _ => true
  | .restore h ps => h.wf && decide (ps.length < 65536)
  | .capSet h ps => h.wf && decide (ps.length < 65536)
  | .pwrCapWrite _ => true
  | .domainState h ps => h.wf && decide (ps.length < 65536)
  | .domainChangeDone code => decide (code < 256)
  | .powerRead h ps => h.wf && decide (ps.length < 65536)
  | .governorSample _ => true
  | .capUnmet => true
  | .thermalTrip => true
  | .laneWake src => (match src with
    | .lane g => decide (g < 9)
    | .host => true)
  | .slumpDetect cause => decide (cause < 4)
  | .slumpSaveDone => true
  | .supplyReturn => true
  | .reset h ps => h.wf && decide (ps.length < 65536)
  | .coldReset _ _ => true
  | .warmReset => true
  | .hostReset => true
  | .dieReset _ => true
  | .fwGo => true
  | .firmwareVerifyDone => true
  | .tbConfig h ps => h.wf && decide (ps.length < 65536)
  | .tbRelease h ps => h.wf && decide (ps.length < 65536)
  | .tbRead h ps => h.wf && decide (ps.length < 65536)
  | .countersRead h ps => h.wf && decide (ps.length < 65536)
  | .journalRead h ps => h.wf && decide (ps.length < 65536)
  | .evtSubscribe h ps => h.wf && decide (ps.length < 65536)
  | .journalClear h ps => h.wf && decide (ps.length < 65536)
  | .keyWrite h ps => h.wf && decide (ps.length < 65536)
  | .keyRevoke h ps => h.wf && decide (ps.length < 65536)
  | .rightsSet h ps => h.wf && decide (ps.length < 65536)
  | .partitionSet h ps => h.wf && decide (ps.length < 65536)
  | .ownershipSet h ps => h.wf && decide (ps.length < 65536)
  | .attest h ps => h.wf && decide (ps.length < 65536)
  | .identityRead h ps => h.wf && decide (ps.length < 65536)
  | .drfClearGo _ => true
  | .journalPersist => true
  | .hostWindowWrite _ _ data _ _ => decide (0 < data.length) && decide (data.length ≤ 512)
  | .hostWindowRead _ _ len => decide (0 < len) && decide (len ≤ 4096)
  | .hostWriteRelease _ => true
  | .flr _ => true
  | .mctpMessageReceive mtype iana _ _ => decide (mtype < 128) && decide (iana < 2 ^ 32)
  | .bypass _ => true
  | .idcode => true
  | .samplePreload _ _ => true
  | .extest _ => true
  | .clamp => true
  | .highz => true
  | .dynamicAddressAssignment _ => true
  | .hostLinkTrained _ _ _ => true

end Sys2Proof
end

