-- ==== Sys2Proof/Tests/Slice0.lean ====
section
/-! SUPPORT. Tests: ill-formed commands that the well-formedness check refuses, and for each statement with hypotheses a state
and operands that meet them, clause by clause. -/

namespace Sys2Proof.Tests

open Sys2Proof Sys2Proof.Machine

-- One test after another: each waits for the kernel, and every waiting thread takes a stack of its own.
set_option Elab.async false

/-! ### States -/

/-- `s` with the given domains ON. -/
def on (ns : List Nat) (s : State) : State :=
  ns.foldl (fun s n => (s.setFld (pwrB + PWR_DOM.stride * n) PWR_DOM.STATE 0).setFld (pwrB + PWR_DOM.stride * n)
    PWR_DOM.ISOLATED 0) s

/-- A slot store whose image holds the given sections of tile 0: type, bytes and count. -/
def store (secs : List (Nat × List Byte × Nat)) : SlotX :=
  secs.foldl (fun x e => { x with
    image := x.image ++ e.2.1
    sections := x.sections ++ [⟨e.1, 0, x.image.length, e.2.1.length, e.2.2⟩] }) SlotX.init

/-- Die 0 of `s` runs the image `x` in slot 0. -/
def runs (x : SlotX) (s : State) : State :=
  ((on [domC 0, domS 0, domM 0] s).setDieState 0 dsRUNNING).modDie 0 fun d => { d with slots := [(0, x)] }

/-- Tile 0 of die 0 issues micro-instruction `w` next, with further sections of its image. -/
def issuing (w : BitVec 128) (more : List (Nat × List Byte × Nat)) : State :=
  runs (store ((1, toBytes w.toNat 16, 1) :: more)) State.reset

/-- `s` with a change of tile 0 of die 0. -/
def tile0 (f : TileX → TileX) (s : State) : State := s.modTile 0 0 f

/-! ### Micro-instructions -/

def wNop : BitVec 128 := 0x00 <<< 120
def wEnd : BitVec 128 := 0x01 <<< 120
def wIdle : BitVec 128 := (0x02 <<< 120) ||| (5 <<< 64)
def wLoop : BitVec 128 := (0x03 <<< 120) ||| (0x20000000 <<< 64) ||| (7 <<< 32)
def wBrl : BitVec 128 := (0x04 <<< 120) ||| (0x20000003 <<< 64)
def wMma : BitVec 128 := (0x10 <<< 120) ||| (0x00400000 <<< 64)
def wVec : BitVec 128 := (0x20 <<< 120) ||| (0x00080000 <<< 32) ||| 9
def wSend : BitVec 128 := (0x30 <<< 120) ||| (0x00080040 <<< 64)
def wRecv : BitVec 128 := (0x31 <<< 120) ||| (0x00080040 <<< 64)
/-- Slots 4095 and 4096, set FULL. -/
def wTags : BitVec 128 := (0x3C <<< 120) ||| (0x7FF80081 <<< 64)

theorem witness_ControlInstructionsMoveTheTile :
    (issuing wNop []).issuesNow 0 0 wNop 0x00 = true ∧ (issuing wEnd []).issuesNow 0 0 wEnd 0x01 = true ∧
    (issuing wIdle []).issuesNow 0 0 wIdle 0x02 = true ∧ (issuing wLoop []).issuesNow 0 0 wLoop 0x03 = true ∧
    (issuing wBrl []).issuesNow 0 0 wBrl 0x04 = true := by decide +kernel

theorem witness_EnginesAndStreamsStartAtTheIssue :
    (issuing wMma []).issuesNow 0 0 wMma 0x10 = true ∧ (issuing wVec []).issuesNow 0 0 wVec 0x20 = true ∧
    (issuing wSend []).issuesNow 0 0 wSend 0x30 = true ∧ (issuing wRecv []).issuesNow 0 0 wRecv 0x31 = true := by
  decide +kernel

theorem witness_TagsSetsTheTagsOfItsRange :
    (issuing wTags []).issuesNow 0 0 wTags 0x3C = true ∧
    (issuing wTags []).phys 0 (bitsOf (microA wTags) 31 19) + bitsOf (microA wTags) 18 6 ≤ 5120 := by decide +kernel

/-- No granule is in the cut set. -/
theorem noCut {g : GranSet} (h : g = GranSet.none) : ∀ i, g.mem i = false := by subst h; intro i; rfl

/-- A matrix operation of one pass of one row in B32 whose row has landed. -/
def mmaDone : MmaRun :=
  { desc := [0, 0x100000, 1], bank := 0, init := true, cycle := 1, pos := ⟨0, some 1, 0⟩, rows := [], entered := 1, upto := 1,
    wCur := [], wNext := [], reads := [], lastRead := [], tagop := 0, inWords := [] }

/-- Vector program 0, at its first instruction. -/
def vecRun : VecRun := { prog := 0, k := 0, slotOfs := 0, indexOfs := 0, next := 0, tagop := 0, s0 := 1, sched := [], flags := [] }

def streamDone : Stream := ⟨0, 1, 0, 1, 2⟩

/-- Die 0 runs an image without sections, 100 cycles into its step. -/
def midStep (f : TileX → TileX) : State :=
  tile0 f ((runs (store []) State.reset).modDie 0 fun x => { x with wall := 100 })

theorem witness_EnginesBecomeFree :
    (let s := midStep fun x => { x with vec := some vecRun }
     s.dieState 0 = dsRUNNING ∧ s.streamsOver 0 = true ∧ (s.tile 0 0).mma = none ∧ (s.tile 0 0).vec = some vecRun ∧
       (s.vecProg 0 0 vecRun.prog).instrs.length ≤ vecRun.next ∧ 0 < s.reached 0 ∧
       ∀ v ∈ vecRun.sched, vecRun.s0 + v.last < s.reached 0) ∧
    (let s := midStep fun x => { x with mma := some mmaDone }
     s.dieState 0 = dsRUNNING ∧ s.streamsOver 0 = true ∧ (s.tile 0 0).mma = some mmaDone ∧ mmaDone.rows = [] ∧ mmaDone.tagop ≠ 1 ∧
       mmaDone.pos.done (mmaDesc mmaDone.desc) = true ∧
       mmaDone.upto = (mmaDesc mmaDone.desc).passes * (mmaDesc mmaDone.desc).m ∧
       mmaDone.cycle + latencyOf (mmaDesc mmaDone.desc).fmt (mmaDesc mmaDone.desc).step ≤ s.reached 0) ∧
    (let s := midStep fun x => { x with snd := [streamDone], rcv := [streamDone] }
     s.dieState 0 = dsRUNNING ∧ s.streamsOver 0 = true ∧ (s.tile 0 0).mma = none ∧ (s.tile 0 0).snd = [streamDone] ∧
       (s.tile 0 0).rcv = [streamDone]) := by decide +kernel

/-! ### Tags, holds, arrivals, the die sequencer -/

/-- A SEND of slot 1 whose tags count. -/
def wSendTc : BitVec 128 := wSend ||| (1 <<< 115)

/-- A hold of tile 0 for the word in slot 1. -/
def hold1 : HoldX := ⟨[⟨0, 1, false⟩], 10, 5, 5⟩

/-- Die 0 is held at grain `now`; slot 1 of tile 0 has tag `g`. -/
def held (now limit : Nat) (g : Tag) : State :=
  let s := (((runs (store []) State.reset).setDieState 0 dsHELD).modDie 0 fun d => { d with hold := some hold1, wall := 9 })
  { (s.setFld (dsqB 0) DSQ_TAGWAIT_LIMIT.LIMIT limit).setTag 0 0 1 g with tb := { s.tb with now := now } }

theorem witness_TagWaitsHoldTheDie :
    (let s := issuing wSendTc []
     s.dieCalm 0 = true ∧ s.atMicro 0 0 wSendTc 0x30 = true ∧ (s.tile 0 0).mma = none ∧ (s.die 0).hold = none ∧
       s.tagWaits 0 0 wSendTc (s.physRange 0 (bitsOf (microA wSendTc) 31 19) (bitsOf (microA wSendTc) 18 6)) [] ≠ []) ∧
    (let s := held 12 0 .full
     (s.die 0).hold = some hold1 ∧ hold1.waits.all (s.waitMet 0) = true ∧
       s.foundAt 0 hold1 < (s.die 0).wall + s.grainCycles 0) ∧
    (let s := held 31 20 .empty
     (s.die 0).hold = some hold1 ∧ s.dieState 0 = dsHELD ∧ s.fld (dsqB 0) DSQ_TAGWAIT_LIMIT.LIMIT ≠ 0 ∧
       hold1.since + s.fld (dsqB 0) DSQ_TAGWAIT_LIMIT.LIMIT < s.now ∧ s.shadow = []) := by decide +kernel

/-- Dies 0 and 1 with their scratch dies ON; task 0 is valid by reset and has job 7. -/
def twoDies : State :=
  ((on [domC 0, domS 0, domC 1, domS 1] State.reset).setFld (tskB 0 0) TSK_JOB.JOB 7).setFld (tskB 1 0) TSK_JOB.JOB 7

theorem witness_ArrivalsFillTheirSlot :
    ((twoDies.die 0).upsets = [] ∧ (∀ g, (twoDies.die 0).sCut.mem g = false) ∧
      (255 : Fin 256) + (List.replicate 1 (5 : Byte)).length ≤ 256 ∧ twoDies.tag 0 3 4 ≠ .full ∧
      twoDies.domOn (domS 0) = true) ∧
    (let s := twoDies.modDie 1 fun x => { x with adapters := List.replicate 2 (4, 24, List.replicate 128 5) }
     (List.replicate 256 (5 : Byte)).length = 256 ∧ s.routeLane 1 0 (List.replicate 256 5) = some 24 ∧
      s.jobOf 1 = s.jobOf 0 ∧ 5119 < (s.die 0).bound ∧
      (s.die 0).base + 5119 < 5120 ∧ s.domOn (domS 0) = true ∧
      s.tag 0 3 ((s.die 0).base + 5119) ≠ .full) :=
  ⟨⟨by decide +kernel, noCut (by decide +kernel), by decide +kernel, by decide +kernel⟩, by decide +kernel⟩

theorem witness_WindowAccessesAreAdmittedOrDropped :
    ((twoDies.die 0).upsets = [] ∧ ∀ g, (twoDies.die 0).sCut.mem g = false) ∧
    (0x3BFFFFFC < 0x3C000000 ∧ 0x3BFFFFFC % 0x100 + 4 ≤ 256 ∧ twoDies.domOn (domS 0) = true ∧
      twoDies.slotAdmits 0 (0x3BFFFFFC % 0x140000 / 0x100) (7 : Word).toNat = true ∧
      twoDies.tag 0 (0x3BFFFFFC / 0x140000) (0x3BFFFFFC % 0x140000 / 0x100) ≠ .full) ∧
    (0x3C000000 ≤ 0x3C000000 ∧ twoDies.domOn (domS 2) = false ∧ twoDies.slotAdmits 0 5 (8 : Word).toNat = false) :=
  ⟨⟨by decide +kernel, noCut (by decide +kernel)⟩, by decide +kernel, by decide +kernel⟩

/-- A clear of slots 5115 to 5119 is under way in die 0; its first cycle comes next. -/
def clearing (did : Nat) : State := twoDies.modDie 0 fun d => { d with wall := 9, clear := some ⟨5115, 5, did, 8 - did, [], .none⟩ }

theorem witness_ScratchClearsBeginAndEnd :
    ((twoDies.die 0).clear = none ∧ twoDies.dieRuns 0 = false ∧ bitOf (0x00080041 : Word).toNat 0 = true) ∧
    (((clearing 5).die 0).clear = some ⟨5115, 5, 5, 3, [], .none⟩ ∧ 5 ≤ 5) ∧
    ((clearing 4).die 0).clear = some ⟨5115, 5, 4, 4, [], .none⟩ ∧ 4 < 5 := by decide +kernel

/-- The first grain of a clear, and its last. -/
theorem witness_ScratchClearZeroesItsRange : ∀ did ∈ [0, 4],
    let s := clearing did
    (s.pending = [] ∧ s.clocksRun = true ∧ (∀ e, e < 12 → s.dieRuns e = false ∧ (e ≠ 0 → (s.die e).clear = none)) ∧
      (∀ e, e < 14 → s.clockTarget e ≤ 0x1000 ∧ s.clockNow e = 0x1000) ∧ (∀ e ∈ s.cores, e.2.wbuf = []) ∧
      (s.die 0).frac = 0 ∧ (s.die 0).clear = some ⟨5115, 5, did, 8 - did, [], .none⟩ ∧ 8 - did + 1 + did = (s.die 0).wall ∧
      did ≤ 5 ∧ 5115 + 5 ≤ 5120) ∧ (s.die 0).sCut = GranSet.none := by decide +kernel

theorem witness_ScrubberMeetsTheUpsets :
    (twoDies.setFld (scrB 0) SCR_SCRUB.ENABLE 0).flag (scrB 0) SCR_SCRUB.ENABLE = false ∧
    (twoDies.setFld (scrB 0) SCR_SCRUB.ENABLE 1).flag (scrB 0) SCR_SCRUB.ENABLE = true ∧
    (twoDies.setFld (scrB 0) SCR_SCRUB.ENABLE 1).domOn (domS 0) = true := by decide +kernel

/-- Die 0 with a READY image in slot 0, in die state `st`. -/
def ready (st : Nat) : State :=
  ((runs (store [(1, toBytes wEnd.toNat 16, 1)]) State.reset).setSlotState 0 0 slREADY).setDieState 0 st

theorem witness_ArmTakesTheLowestRunnableTask :
    ((ready dsSTOPPED).dieState 0 = dsSTOPPED ∧ (ready dsSTOPPED).dieLoading 0 = false ∧
      (ready dsSTOPPED).domOn (domC 0) = true ∧ (ready dsSTOPPED).reg64 (dsqB 0 + DSQ_START_GRAIN_LO.off) = 0 ∧
      (List.range 16).find? ((ready dsSTOPPED).runnable 0) = some 0) ∧
    (let s := ((ready dsSTOPPED).setReg64 (dsqB 0 + DSQ_START_GRAIN_LO.off) 5).setFld tbB TB_STATUS.STATE tbLOCKED
     2 ≤ s.fld tbB TB_STATUS.STATE ∧ 0 < s.reg64 (dsqB 0 + DSQ_START_GRAIN_LO.off) ∧
      s.reg64 (dsqB 0 + DSQ_START_GRAIN_LO.off) < { s.tb with now := 6 }.now) ∧
    (ready dsRUNNING).dieState 0 ≠ dsSTOPPED ∧ (List.range 16).find? (twoDies.runnable 0) = none := by decide +kernel

theorem witness_StopWaitsForTheCutAndAbortDoesNot :
    ((ready dsRUNNING).dieState 0 ≠ dsSTOPPED ∧ (ready dsRUNNING).dieState 0 ≠ dsLOADING) ∧
    (ready dsSTOPPED).dieState 0 = dsSTOPPED ∧ ((ready dsSTOPPED).die 0).hold = none := by decide +kernel

/-- Die 0 RUNNING with its tile 0 past its END. -/
def ended (f : DieX → DieX) : State :=
  tile0 (fun x => { x with ended := true }) ((ready dsRUNNING).modDie 0 f)

theorem witness_StepsStartAndEnd :
    ((ready dsARMED).dieState 0 = dsARMED ∧ (ready dsARMED).reg64 (dsqB 0 + DSQ_START_GRAIN_LO.off) = 0 ∧
      (ready dsARMED).launchesFirst 0 = false ∧ (ready dsARMED).fld (dsqB 0) DSQ_CUT_PERIOD.PERIOD < 2 ^ 64) ∧
    (let s := ended id
     s.dieState 0 = dsRUNNING ∧ (s.die 0).switching = none ∧ s.allEnded 0 = true ∧
       s.flag (tnmB 0 (s.slotOf 0)) TNM_SLOT.ENABLE = false ∧ (s.die 0).refired = false) := by decide +kernel

theorem witness_RefireReplaysInTheNextSlot :
    (let s := (ended fun x => { x with refireAt := some 0 }).setDieState 0 dsAT_END
     s.dieState 0 = dsAT_END ∧ (s.die 0).refireAt = some 0 ∧ 0 ≤ s.now) ∧
    (let s := ended fun x => { x with switching := some 0 }
     (s.die 0).switching = some 0 ∧ s.zeroDue 0 = true) ∧
    (let s := ended fun x => { x with switching := some 0, wall0 := 256 }
     (s.die 0).switching = some 0 ∧ s.zeroDue 0 = false) := by decide +kernel

/-- Die 0 at the end of its step, its task not that of STR_CTRL. -/
def atEnd (f : DieX → DieX) : State := ((ended f).setDieState 0 dsAT_END).setFld (dsqB 0) STR_CTRL.TASK 1

theorem witness_StepCutCountsTheStep :
    (let s := atEnd id
     s.cutReady 0 = true ∧ s.shadow = [] ∧ (s.die 0).atCut = [] ∧ s.strTask 0 = false) ∧
    (let s := atEnd fun x => { x with stopPending := true }
     s.cutReady 0 = true ∧ s.shadow = [] ∧ (s.die 0).atCut = [] ∧ s.strTask 0 = false ∧ (s.die 0).stopPending = true) := by
  decide +kernel

/-- Also with a shadow value, and for the task of STR_CTRL where no job has strata. -/
theorem witness_StepCutsComplete :
    let s := (atEnd fun x => { x with stopPending := true }).setFld (dsqB 0) STR_CTRL.TASK 0
    let u := { s with shadow := [(tskB 0 3 + TSK_JOB.off, ⟨0xFFFFFFFF, 7⟩)] }
    u.cutReady 0 = true ∧ (u.die 0).atCut = [] ∧ u.strata = [] ∧ (u.die 0).stopPending = true := by decide +kernel

/-! ### Vector instructions -/

/-- Vector instruction `vop` in B32 on two elements of VB1 and VB2 into VB0, with IMM and ROUND. -/
def wVop (vop imm round : Nat) : BitVec 64 :=
  BitVec.ofNat 64 (vop * 2 ^ 56 + 1 * 2 ^ 52 + 1 * 2 ^ 48 + round * 2 ^ 45 + 1 * 2 ^ 36 + 2 * 2 ^ 32 + 2 * 2 ^ 17 + imm)

/-- Tile 0 runs program 0, which has the one instruction `w`; VB1 and VB2 hold 1.0, 2.0 and 3.0, 0.5. -/
def vecState (w : BitVec 64) : State :=
  let prog := toBytes (32 * 65536 + 256) 24 ++ toBytes w.toNat 8
  tile0 (fun x => { x with
    vec := some vecRun
    banks := writeBytes (writeBytes [] 32768 (toBytes 0x400000003F800000 8)) 65536 (toBytes 0x3F00000040400000 8) })
    (runs (store [(4, prog, 1)]) State.reset)

/-- The instruction of opcode `vop` is next. -/
def vecReady (vop imm round : Nat) : Bool := (vecState (wVop vop imm round)).vecNext 0 0 (wVop vop imm round) vop vecRun []

theorem witness_VectorInstructionsAdvanceTheirProgram :
    ((elementCommands ++ otherVecCommands).all fun e => vecReady e.2 0 0) = true ∧
    ∀ e ∈ elementCommands ++ otherVecCommands, ∀ g, ((vecState (wVop e.2 0 0)).die 0).sCut.mem g = false :=
  ⟨by decide +kernel, fun _ _ => noCut rfl⟩

theorem witness_ElementwiseInstructionsComputeEachElement :
    (elementCommands.all fun e => vecReady e.2 0 0) = true ∧ ∀ g, ((vecState (wVop 2 0 0)).die 0).sCut.mem g = false :=
  ⟨by decide +kernel, noCut rfl⟩

theorem witness_ConversionsFillTheirBuffer :
    (vInstr (wVop 0x20 0x8000 0).toNat).dst < 4 ∧ vecReady 0x20 0x8000 0 = true ∧ (vInstr (wVop 0x20 0x8000 0).toNat).round ≠ 4 ∧
    ((vInstr (wVop 0x20 0x8000 0).toNat).dst ≠ 3 ∧
      packedLen ((vInstr (wVop 0x20 0x8000 0).toNat).storeFmt false) (vInstr (wVop 0x20 0x8000 0).toNat).len ≤ 32768) ∧
    (vInstr (wVop 0x21 0 0).toNat).dst < 4 ∧ vecReady 0x21 0 0 = true := by decide +kernel

theorem witness_ScalarResultsGoToTheirRegister :
    ([0x28, 0x29, 0x2A, 0x2B, 0x2C, 0x30, 0x31, 0x32, 0x33].all fun v => vecReady v 0x38 0) = true ∧
    (vInstr (wVop 0x32 0x38 0).toNat).src1 < 4 ∧ (vInstr (wVop 0x33 0x38 0).toNat).dst < 4 := by decide +kernel

/-! ### Requests of tiles, stacks and the far tier -/

/-- A request descriptor: word 0, LENGTH, TARGET, SOURCE. -/
def reqBytes (w0 len target source : Nat) : List Byte :=
  toBytes w0 4 ++ toBytes len 4 ++ toBytes target 8 ++ toBytes source 8 ++ toBytes 0 8

/-- REQ of descriptor 0 with slot 2. -/
def wReq : BitVec 128 := (0x38 <<< 120) ||| (0x00001000 <<< 64)

/-- Tile 0 issues a request next; its slot 2 holds 16 bytes. -/
def requesting (w0 len target source : Nat) : State :=
  let s := issuing wReq [(5, reqBytes w0 len target source, 1)]
  { s with mem := writeBytes s.mem (slotAddr 0 0 2) (List.replicate 16 7) }

def theDesc (s : State) : ReqDesc := ((s.reqMicro 0 0 wReq).map fun e => e.1).getD (reqDesc [])

/-- What the statement on requests takes for granted of every form. -/
def reqGoes (s : State) : Bool :=
  s.issuesNow 0 0 wReq 0x38 && decide (s.reqMicro 0 0 wReq = some (theDesc s, 2)) && decide ((s.tile 0 0).reqs.length < 512) &&
    (theDesc s).accepted true && !(theDesc s).counter && !(theDesc s).flag && s.ownBlock (theDesc s).target (theDesc s).len &&
    (s.poisonRead 0 0 ((theDesc s).reqSource 2)).isNone && (s.tile 0 0).waiting.isEmpty

def sRead : State := requesting (1 * 2 ^ 26) 256 0x100 0
def sWrite : State := requesting (2 * 2 ^ 26) 16 0x1F0 0
/-- An add of 32 bits. -/
def sAtomic : State := requesting (3 * 2 ^ 26 + 0x10 * 2 ^ 14) 8 0x104 0
def sCopy : State := requesting (4 * 2 ^ 26) 256 0x100 0x200

theorem witness_TileRequestsReachTheirQueue :
    (reqGoes sRead = true ∧ (theDesc sRead).op = opREAD ∧
      sRead.homeLets (.tile 0 0) (theDesc sRead).target (theDesc sRead).len false = true) ∧
    (reqGoes sWrite = true ∧ (theDesc sWrite).op = opWRITE ∧
      sWrite.homeLets (.tile 0 0) (theDesc sWrite).target (theDesc sWrite).len true = true) ∧
    (reqGoes sAtomic = true ∧ (theDesc sAtomic).op = opATOMIC ∧
      sAtomic.homeLets (.tile 0 0) (theDesc sAtomic).target
        (atomicLen (theDesc sAtomic).aop (theDesc sAtomic).size64 (sAtomic.taskBytes 0 0 (2 * 256) (theDesc sAtomic).len)) true =
        true) ∧
    (reqGoes sCopy = true ∧ (theDesc sCopy).op = opCOPY ∧
      sCopy.homeLets (.tile 0 0) (theDesc sCopy).target (theDesc sCopy).len true = true ∧
      sCopy.ownBlock (theDesc sCopy).source (theDesc sCopy).len = true ∧
      sCopy.homeLets (.tile 0 0) (theDesc sCopy).source (theDesc sCopy).len false = true ∧
      sCopy.stackCalm (gaLocal (theDesc sCopy).source / 0x2000000000) = true ∧ sCopy.waitsAt (gaLocal (theDesc sCopy).source) = [] ∧
      sCopy.poisoned (gaLocal (theDesc sCopy).source) (theDesc sCopy).len = false) := by decide +kernel

/-- An outstanding write of a tile. -/
def writeReq : TileReq :=
  { id := 9, op := opWRITE, first := 3, lands := 1, limit := 5120, len := 4, fetch := false, left := 1, got := [], done := [],
    status := 0, bytes := 0, epoch := 0, job := 0, source := none }

def sFence : State := requesting (5 * 2 ^ 26) 0 0 0
def sFence1 : State := tile0 (fun x => { x with reqs := [writeReq] }) sFence

theorem witness_TileFencesWaitForEarlierWrites :
    (sFence1.issuesNow 0 0 wReq 0x38 = true ∧ sFence1.reqMicro 0 0 wReq = some (theDesc sFence1, 2) ∧
      (theDesc sFence1).op = opFENCE ∧ (sFence1.tile 0 0).reqs.length < 512 ∧ (∀ q ∈ (sFence1.tile 0 0).reqs, q.op ≠ opFENCE) ∧
      (∃ q ∈ (sFence1.tile 0 0).reqs, q.op ≠ opREAD ∧ q.epoch ≤ (sFence1.tile 0 0).epoch)) ∧
    (sFence.issuesNow 0 0 wReq 0x38 = true ∧ sFence.reqMicro 0 0 wReq = some (theDesc sFence, 2) ∧ (theDesc sFence).op = opFENCE ∧
      (sFence.tile 0 0).reqs = [] ∧ 2 < (sFence.die 0).bound ∧ sFence.phys 0 2 < 5120 ∧ sFence.domOn (domS 0) = true ∧
      sFence.tag 0 0 (sFence.phys 0 2) = .empty) ∧ ∀ g, (sFence.die 0).sCut.mem g = false :=
  ⟨by decide +kernel, by decide +kernel, noCut rfl⟩

/-- An access of channel 0 at a local address. -/
def access (addr : Nat) (op : MemOp) (land : Landing) : Req :=
  { id := 1, who := .host 0 false, place := 0, srcUnit := 0, chan := some 0, dst := 0, space := 0, addr := addr, op := op,
    flag := false, fill := false, combine := false, job := 0, secure := false, seq := 0, poison := false, land := land }

/-- Stack 0 with `r` in front of the queue of pseudo-channel `pc`. -/
def queued (pc : Nat) (r : Req) (s : State) : State := s.modStack 0 fun x => { x with queues := [(pc, [r])] }

def aRead : Req := access 0x1FF (.read 1) .none
def aWrite : Req := access 0x100 (.write [1, 2, 3]) .none
/-- An add of 32 bits. -/
def aAdd : Req := access 0x104 (.atomic 0x10 false [5, 0, 0, 0]) .none
def base0 : State := on [domC 0, domM 0] State.reset

theorem witness_StackOperationsReachMemory : ∀ r ∈ [aRead, aWrite, aAdd],
    (let s := queued 1 r base0
     let v := s.modStack 0 fun x => { x with answers := [(aRead, Reply.ok [0])] }
     (s.stack 0).answers = [] ∧ (takeFirst (fun a => pseudoChannel (a.1.addr - stackAddr 0 0) == 1) (v.stack 0).answers).isSome = true) ∧
    (let s := queued 1 r base0
     mapGet [] (s.stack 0).queues 1 = [r] ∧ s.stackCalm 0 = true ∧ r.op.fits r.addr = true ∧ s.poisoned r.addr 4 = false) ∧
    ∀ g, ((queued 1 r base0).stack 0).cut.mem g = false := by
  intro r h
  simp only [List.mem_cons, List.not_mem_nil, or_false] at h
  obtain rfl | rfl | rfl := h <;> exact ⟨by decide +kernel, by decide +kernel, noCut rfl⟩

/-- Granule 0 of stack 0 is in the cut set; granule 3 is the first of the reserve. -/
def cutOpen : State :=
  ((((queued 1 aWrite base0).setFld (memB 0) MEM_RESERVE_BASE.GRANULE 3).setFld (memB 0) MEM_RESERVE_SIZE.GRANULE 2).modStack 0
    fun x => { x with cut := ⟨false, [0]⟩ })

theorem witness_CutGranulesArePreservedBeforeAWrite :
    mapGet [] (cutOpen.stack 0).queues 1 = [aWrite] ∧ cutOpen.domOn (domM 0) = true ∧ cutOpen.domOn (domC 0) = true ∧
    (cutOpen.stack 0).upsets = [] ∧ aWrite.op = .write [1, 2, 3] ∧ aWrite.op.fits aWrite.addr = true ∧
    0 = (aWrite.addr - stackAddr 0 0) / 65536 ∧ cutOpen.inReserve 0 (aWrite.addr - stackAddr 0 0) = false ∧
    cutOpen.needsCopy 0 0 = true ∧ cutOpen.freeReserve 0 = some 3 ∧ (cutOpen.stack 0).answers = [] := by decide +kernel

/-- Device 0 of the far tier with `r` waiting; it is there or not. -/
def farState (there : Nat) (r : Req) : State :=
  let s := (on [domCXL] State.reset).setFld ftB FT_DEV_STATUS.PRESENT there
  { s with far := { s.far with queues := [(0, [r])] } }

def farReq (op : MemOp) : Req := access (farAddr 0x100) op .none

theorem witness_FarTierAccessesReachMemory :
    ∀ op ∈ [MemOp.read 4, .write [1], .atomic 0x10 false [5, 0, 0, 0]], ∀ there ∈ [0, 1],
      (let s := farState there (farReq op)
       mapGet [] s.far.queues 0 = [farReq op] ∧ s.far.answers = [] ∧ s.domOn domCXL = true ∧ (farReq op).op.fits (farReq op).addr = true ∧
         s.farServes 0 = decide (there = 1) ∧ s.poisoned (farReq op).addr 4 = false) := by decide +kernel

theorem witness_ScrubbingMeetsUpsets :
    (let s := base0.setFld (memB 0) MEM_SCRUB.ENABLE 1
     (s.stack 0).upsets = [] ∧ s.domOn (domM 0) = true ∧ stackAddr 0 0 ≤ 0x7FFFFFFF * 64 ∧
       0x7FFFFFFF * 64 < stackAddr (0 + 1) 0 ∧ s.flag (memB 0) MEM_SCRUB.ENABLE = true) ∧
    (let s := base0.setFld (memB 0) MEM_SCRUB.ENABLE 0
     (s.stack 0).upsets = [] ∧ s.domOn (domM 0) = true ∧ s.flag (memB 0) MEM_SCRUB.ENABLE = false) := by decide +kernel

/-! ### Control cores -/

/-- Core 0 runs at level `pl`; stack 0 is ON. -/
def coreAt (pl : Nat) (f : CoreX → CoreX) : State :=
  (((on [domK 0, domC 0, domM 0] State.reset).setCoreState 0 csRUNNING).setPl 0 pl).modCore 0 f

/-- A system instruction with fields A and B. -/
def wSys (fn a b : Nat) : Word := BitVec.ofNat 32 (0x3E * 2 ^ 26 + a * 2 ^ 21 + b * 2 ^ 16 + fn)

def inPl (pl : Nat) : State := coreAt pl fun x => { x with pc := 0x100, savedPl := 2, savedPc := 0x80 }

theorem witness_SystemInstructionsDoTheirEffect :
    (inPl 1).sysNow 0 (wSys 0x01 0 0) 0x01 false false = true ∧ (inPl 1).sysNow 0 (wSys 0x02 0 0) 0x02 false false = true ∧
    ((inPl 1).core 0).wbuf = [] ∧ ((inPl 1).core 0).drained = true ∧ (inPl 1).sysNow 0 (wSys 0x20 0 0) 0x20 false false = true ∧ (inPl 1).irqNow 0 = none ∧
    (inPl 1).sysNow 0 (wSys 0x40 31 0) 0x40 true false = true ∧ (inPl 1).sysNow 0 (wSys 0x40 0 0) 0x40 true false = true ∧
    (inPl 0).sysNow 0 (wSys 0x30 0 0) 0x30 false false = true ∧ (inPl 0).corePl 0 ≠ 2 ∧
    (inPl 1).sysNow 0 (wSys 0x31 0 0) 0x31 false false = true ∧ (inPl 1).corePl 0 ≠ 0 ∧ ((inPl 1).core 0).savedPl ≤ 2 := by
  decide +kernel

/-- Core 0 with four bytes of line 32 in its write buffer; with 31 further lines the buffer is full. -/
def buffered : State :=
  coreAt 1 fun x => { x with wbuf := [⟨32, false, List.replicate 8 none ++ List.replicate 4 (some 9) ++ List.replicate 116 none⟩] }

theorem witness_FencesSendTheWriteBuffer :
    (∃ l, (buffered.core 0).wbuf = [l] ∧ byteRuns (l.line * 128) l.bytes = [(0x1008, [9, 9, 9, 9])] ∧
      l.secure = buffered.coreSecure 0) ∧
    buffered.ownBlock 0x1008 4 = true ∧ buffered.homeLets (.core 0) 0x1008 4 true = true ∧
    buffered.sysNow 0 (wSys 0x01 0 0) 0x01 false false = true ∧ buffered.sysNow 0 (wSys 0x02 0 0) 0x02 false false = true ∧
    (let s := buffered.modCore 0 fun x => { x with sent := (List.range 31).map fun n => (n, n) }
     s.coreReady 0 = true ∧ s.coreFaults 0 0x2000 (MemSize.bytes .b4) false = false ∧
       (s.core 0).takesLine (0x2000 / 128) = false) :=
  ⟨⟨_, rfl, by decide +kernel⟩, by decide +kernel⟩

theorem witness_RefusedCoreInstructionsTakeAnException :
    ((inPl 0).corePl 0 ≤ 2 ∧ (inPl 2).corePl 0 ≤ 2) ∧
    ((inPl 0).coreReady 0 = true ∧ bitsOf (wSys 0x03 0 0).toNat 31 26 = 0x3E ∧ sysKnown (sysFn (wSys 0x03 0 0)) = false) ∧
    ((inPl 2).sysNow 0 (wSys 0x30 0 0) 0x30 false false = true ∧ (inPl 2).corePl 0 = 2) ∧
    ((inPl 0).sysNow 0 (wSys 0x31 0 0) 0x31 false false = true ∧ (inPl 0).corePl 0 = 0) ∧
    (inPl 0).coreFaults 0 (0x1002 : Word64).toNat (MemSize.bytes .b4) false = true ∧
    (inPl 0).coreFaults 0 (0x1000 : Word64).toNat (MemSize.bytes .b4) true = true := by decide +kernel

/-- Registers g1 and g2 of core 0. -/
def withG (a b : Nat) : State := coreAt 1 fun x => { x with g := [(1, BitVec.ofNat 64 a), (2, BitVec.ofNat 64 b)] }

theorem witness_InvalidationDropsItsLines :
    (withG 0x1000 0).sysNow 0 (wSys 0x10 1 0) 0x10 true false = true ∧
    ((withG 0x1000 (2 ^ 30)).sysNow 0 (wSys 0x11 1 2) 0x11 true true = true ∧
      ((withG 0x1000 (2 ^ 30)).greg 0 (sysB (wSys 0x11 1 2))).toNat ≤ 2 ^ 30) ∧
    ((withG 0x1000 (2 ^ 30 + 1)).sysNow 0 (wSys 0x11 1 2) 0x11 true true = true ∧
      2 ^ 30 < ((withG 0x1000 (2 ^ 30 + 1)).greg 0 (sysB (wSys 0x11 1 2))).toNat) ∧
    (withG 0 0).sysNow 0 (wSys 0x12 0 0) 0x12 false false = true ∧
    (let s := (withG 0 0).setCoreState 0 csINVALIDATING
     s.coreState 0 = csINVALIDATING ∧ (s.core 0).invalEnd ≤ s.now ∧
       s.now < ((s.modCore 0 fun x => { x with invalEnd := 7 }).core 0).invalEnd) := by decide +kernel

/-- Core 0 with an inter-processor interrupt that its mask lets through, and a compare value that has been reached. -/
def irqState : State :=
  ((coreAt 0 fun x => { x with pendIpi := true, cmpArmed := true }).setReg (cpcB 0 + CPC_IRQ_MASK.off + 8) 0xF).setReg64
    (cpcB 0 + CPC_GRAIN_CMP_LO.off) 0

theorem witness_InterruptsEnterTheirLevel :
    (irqState.irqNow 0 = some 65 ∧ irqState.coreState 0 ≠ csHELD ∧ (irqState.core 0).lent = none ∧
      ((irqState.core 0).loads.any fun l => l.2.atomic) = false ∧ irqState.irqUnmasked 0 67 = true) ∧
    ((irqState.setCoreState 0 csHELD).coreState 0 = csHELD ∧ (irqState.setCoreState 0 csHELD).domOn (domK 0) = true) ∧
    ((irqState.core 0).cmpArmed = true ∧ irqState.grainCmp 0 ≤ irqState.now) := by decide +kernel

/-- Core 0 of a die that holds the line of address 0x1000. -/
def cached : State :=
  (coreAt 1 fun x => { x with g := [(1, 0x1111), (2, 0x2222)] }).setProc 12
    { ProcX.init with lines := [(0x20, List.replicate 128 6)] }

def theLoad : CoreLoad := { rd := 3, addr := 0x1004, size := 4, pc := 0, line := true, fetch := false, atomic := false, vec := false }
def replied : State :=
  coreAt 1 fun x => { x with loads := [(5, theLoad)], replies := [(5, (stOK, List.replicate 128 6, false))] }

theorem witness_CoreAccessesReachMemoryThroughTheCaches :
    (cached.coreReady 0 = true ∧ cached.coreFaults 0 0x1004 (MemSize.bytes .b4) false = false ∧ cacheable 0x1004 = true ∧
      cached.lineHit 0 0x1004 (MemSize.bytes .b4) = some [6, 6, 6, 6]) ∧
    ((cached.proc 12).lines.countP (fun e => e.1 == 0x1004 / 128) = 1 ∧ cached.ownBlock (0x1004 / 128 * 128) 128 = true ∧
      cached.ownBlock 0x1004 (MemSize.bytes .b4) = true ∧ cached.homeLets (.core 0) (0x1004 / 128 * 128) 128 false = true) ∧
    (cached.coreFaults 0 0x20F8 (MemSize.bytes .b8) false = false ∧ cacheable 0x20F8 = true ∧
      cached.lineHit 0 0x20F8 (MemSize.bytes .b8) = none ∧ (cached.core 0).atomics < 64 ∧
      cached.ownBlock (0x20F8 / 128 * 128) 128 = true ∧ cached.ownBlock 0x20F8 (MemSize.bytes .b8) = true ∧
      cached.homeLets (.core 0) (0x20F8 / 128 * 128) 128 false = true) ∧
    (cached.core 0).takesLine (0x1004 / 128) = true ∧ (cached.core 0).atomics < 64 ∧ (cached.core 0).wbuf = [] ∧
    (∀ aop ∈ [0x10, 0x31], cached.coreFaults 0 0x1004 4 false = false ∧
      cached.ownBlock 0x1004 (atomicLen aop false (atomicOperand aop (cached.greg 0 1) (cached.greg 0 2))) = true ∧
      cached.homeLets (.core 0) 0x1004 (atomicLen aop false (atomicOperand aop (cached.greg 0 1) (cached.greg 0 2))) true =
        true) ∧
    ((replied.core 0).loads.head? = some (5, theLoad) ∧ (replied.core 0).lent = none ∧ theLoad.fetch = false ∧
      theLoad.vec = false ∧ theLoad.line = true ∧ (replied.core 0).noInstall.contains 5 = false ∧
      mapGet? (replied.core 0).replies 5 = some (stOK, List.replicate 128 6, false)) := by decide +kernel

/-! ### Long vectors -/

/-- A vector word: major, d, a, b, m, Z, W, function. -/
def wLv (major d a b m z w fn : Nat) : Word :=
  BitVec.ofNat 32 (major * 2 ^ 26 + d * 2 ^ 21 + a * 2 ^ 16 + b * 2 ^ 11 + m * 2 ^ 8 + z * 2 ^ 7 + w * 2 ^ 6 + fn)

/-- Core 0 with two elements in v1 and v2, VL 2, mask 1 without element 1. -/
def vectors : State :=
  coreAt 1 fun x => { x with
    vl := 2
    m := [(1, 1)]
    g := [(1, 0x1000)]
    v := writeBytes (writeBytes [] 1024 (toBytes 0x40000000000000003FF0000000000000 16)) 2048
      (toBytes 0x40080000000000004010000000000000 16) }

theorem witness_LongVectorsComputeTheirActiveElements :
    (lvElementCommands.all fun e =>
      let w := wLv 0x38 3 1 (if fnUnary e.2 then 0 else 2) 1 0 0 e.2
      vectors.lvNow 0 w lvARITH e.2 ((vectors.core 0).arithIllegal w)) = true := by decide +kernel

theorem witness_LongVectorConversionsComparesAndReductions :
    ((lvConvCommands ++ lvCompCommands ++ lvRedCommands).all fun e =>
      let w := wLv 0x38 3 1 (if fnUnary e.2 then 0 else 2) 1 1 (if e.2 = 0x2A then 1 else 0) e.2
      vectors.lvNow 0 w lvARITH e.2 ((vectors.core 0).arithIllegal w)) = true ∧
    lvD (wLv 0x38 0 1 2 1 1 0 0x18) = 0 ∧ lvD (wLv 0x38 3 1 2 1 1 0 0x18) ≠ 0 := by decide +kernel

theorem witness_ScalarOperationsComputeElementZero :
    (let w := wLv 0x3C 3 1 2 0 0 0 0x00
     vectors.lvNow 0 w lvSCALAR (lvFn w) (arithReserved w || bitsOf w.toNat 10 7 != 0) = true ∧
       scalarFns.contains (lvFn w) = true ∧ lvFn w ≠ 0x2A ∧ lvFn w ≠ 0x2B ∧ lvFn w ≠ 0x07) ∧
    (let w := wLv 0x3C 3 1 0 0 0 1 0x2A
     vectors.lvNow 0 w lvSCALAR (lvFn w) (arithReserved w || bitsOf w.toNat 10 7 != 0) = true ∧
       scalarFns.contains (lvFn w) = true ∧ lvFn w = 0x2A) := by decide +kernel

/-- The words of the configuration table, with d, a, b as their function uses them. -/
def configWords : List Word :=
  [wLv 0x3B 1 1 0 0 0 0 0x00, wLv 0x3B 1 0 0 0 0 0 0x01, wLv 0x3B 0 2 0 0 0 0 0x02, wLv 0x3B 1 0 0 0 0 0 0x03,
   wLv 0x3B 0 1 0 0 0 0 0x04, wLv 0x3B 2 1 1 0 0 0 0x08, wLv 0x3B 2 1 1 0 0 0 0x09, wLv 0x3B 2 1 0 0 0 0 0x0A,
   wLv 0x3B 1 1 0 0 0 0 0x0B, wLv 0x3B 1 1 0 0 0 0 0x0C, wLv 0x3B 1 0 0 0 0 0 0x10, wLv 0x3B 0 1 0 0 0 0 0x11,
   wLv 0x3B 1 1 0 0 0 0 0x20, wLv 0x3B 1 1 0 0 0 0 0x21]

theorem witness_VectorConfigurationWritesItsRegister :
    (configWords.all fun w =>
      vectors.lvNow 0 w lvCONFIG (lvFn w) (decide (vlMax (lvW w) < (vectors.core 0).vl) || configReserved w ||
        (vectors.core 0).vstart != 0 ||
        (lvFn w == 0x02 && decide (256 < (vectors.greg 0 (lvA w)).toNat)) || (lvFn w == 0x04 && vectors.corePl 0 == 0))) = true ∧
    configWords.map lvFn = [0, 1, 2, 3, 4, 8, 9, 0xA, 0xB, 0xC, 0x10, 0x11, 0x20, 0x21] := by decide +kernel

/-- A word of a vector load or store: major, d, base, mode, fields less 1, W. -/
def wMem (major d a mode nf w : Nat) : Word :=
  BitVec.ofNat 32 (major * 2 ^ 26 + d * 2 ^ 21 + a * 2 ^ 16 + mode * 2 ^ 6 + nf * 2 ^ 4 + w * 2 ^ 3)

/-- As `vectors`, with the line of 0x1000 in the die. -/
def vectorsHit : State := vectors.setProc 12 { ProcX.init with lines := [(0x20, List.replicate 128 6)] }

theorem witness_VectorMemoryMovesItsActiveElements :
    vectorsHit.coreReady 0 = true ∧
    (let w := wMem 0x39 3 1 0 0 0
     let v := (vectorsHit.core 0).vstart
     lvMajor w = lvLOAD ∧ (vectorsHit.core 0).memIllegal w false = false ∧ (∀ i, i < 2 → ∀ f, f < memNf w →
       vectorsHit.coreFaults 0 (vectorsHit.lvAddr 0 w i f) 8 ([7].contains i) = false ∧
       cacheable (vectorsHit.lvAddr 0 w i f) = true ∧
       vectorsHit.lineHit 0 (vectorsHit.lvAddr 0 w i f) 8 = some (List.replicate 8 6)) ∧
     v < (vectorsHit.core 0).vl ∧ ((vectorsHit.core 0).mask (lvM w)).getLsbD v = true ∧ vectorsHit.corePl 0 ≤ 2 ∧
     vectors.coreFaults 0 (vectors.lvAddr 0 w v 0) 8 ([7].contains v) = false ∧
     vectors.lvRead 0 (vectors.lvAddr 0 w v 0) 8 = none) ∧
    (let w := wMem 0x3A 1 1 0 0 0
     lvMajor w = lvSTORE ∧ (vectorsHit.core 0).memIllegal w true = false ∧ (vectorsHit.core 0).storeLines = [] ∧
     (∀ i, i < 2 → ∀ f, f < memNf w →
       vectorsHit.coreFaults 0 (vectorsHit.lvAddr 0 w i f) 8 ([7].contains i) = false ∧
       cacheable (vectorsHit.lvAddr 0 w i f) = true ∧ vectorsHit.lvAddr 0 w i f / 128 ∈ [0x20]) ∧
     memNf w = 1 ∧ vectorsHit.lvAddr 0 w 0 0 ≠ vectorsHit.lvAddr 0 w 1 0) := by
  decide +kernel

/-! ### Registers -/

theorem witness_RegisterWritesFollowTheAccessCodes :
    (let a := memB 0 + MEM_SCRUB.off
     (∃ r i, descOf a = some (.mem, 0, MEM_SCRUB.off, r, i)) ∧ plainBlock .mem = true ∧ a % 4 = 0 ∧ base0.blockOn a = true) ∧
    (let a := glpB + GLP_JOB.off
     let s := on [domFC] State.reset
     (∃ r i r' i', descOf a = some (.glp, 0, GLP_JOB.off, r, i) ∧ descOf (a + 4) = some (.glp, 0, GLP_JOB.off + 4, r', i') ∧
        r.rwl = 0 ∧ r'.rwl = 0) ∧ plainBlock .glp = true ∧ a % 8 = 0 ∧ s.blockOn a = true) ∧
    (let a := dsqB 0 + DSQ_CUT_PERIOD.off
     (∃ r i, descOf a = some (.dsq, 0, DSQ_CUT_PERIOD.off, r, i) ∧ r.rws ≠ 0) ∧ DSQ_CUT_PERIOD.off ≠ STR_CTRL.off ∧ a % 4 = 0 ∧
       base0.blockOn a = true ∧ base0.dieRuns 0 = false ∧ (ready dsRUNNING).blockOn a = true ∧ (ready dsRUNNING).dieRuns 0 = true) ∧
    (regAligned (memB 0 + 2) false = false ∧ regAligned (memB 0 + 4) true = false ∧ regAligned (memB 0) true = true ∧
      locate (memB 0) = some (.mem, 0, 0) ∧ State.reset.blockOn (memB 0) = false) := by
  refine ⟨⟨⟨_, _, rfl⟩, by decide +kernel⟩, ⟨⟨_, _, _, _, rfl, rfl, rfl, rfl⟩, by decide +kernel⟩,
    ⟨⟨_, _, rfl, by decide⟩, by decide +kernel⟩, by decide +kernel⟩

theorem witness_RegistersActWhenWritten :
    (let s := on [domCXL] State.reset
     s.domOn domCXL = true ∧ s.flag (ftB + FT_DEV.stride * 3) FT_DEV.COMMIT = false ∧
       (s.setFld (ftB + FT_DEV.stride * 3) FT_DEV.COMMIT 1).domOn domCXL = true ∧
       (s.setFld (ftB + FT_DEV.stride * 3) FT_DEV.COMMIT 1).flag (ftB + FT_DEV.stride * 3) FT_DEV.COMMIT = true) ∧
    (base0.dieRuns 0 = false ∧ bitOf (0x80000003 : Word).toNat 31 = true ∧ bitsOf (0x80000003 : Word).toNat 1 0 ≠ 1 ∧
      ((base0.die 0).slot 1).leaves base0.place 0 = none ∧ ((base0.die 0).slot 3).leaves base0.place 0 = none) ∧
    (let s := on [domK00 12, domK00 13] base0
     (enginesWriter (engineDie 7) (.core 64) = true ∧ enginesWriter (engineDie 7) .pkc = true ∧
       s.domOn (blkDomain .slv 7) = true ∧ (s.solver 7).queue.length < 16) ∧
     (enginesWriter (agentDie (.copy 12)) (.core 63) = true ∧ enginesWriter (agentDie (.copy 0)) .pkc = true ∧
       s.domOn (blkDomain .cpe 12) = true ∧ s.domOn (blkDomain .cpe 0) = true ∧ (s.copy 12).queue.length < 256)) := by
  decide +kernel

/-! ### Moulds -/

/-- A command of channel 0 to unit `u`, at once. -/
def hdr (u : Nat) : CmdHdr :=
  { chan := 0, seq := 1, target := BitVec.ofNat 32 u, launch := 0, early := false, indirect := false, member := false, entry := 0,
    role := 0, job := 7 }

/-- To die 0, to the package. -/
def hDie : CmdHdr := hdr (State.reset.dieUnit 0)
def hPkg : CmdHdr := hdr State.reset.pkgUnit

/-- Slot 1 of die 0 in a state of a load of 256 bytes from address 0x10000. -/
def loading (st : Nat) : State :=
  (base0.setSlotState 0 1 st).modSlot 0 1 fun x => { x with load := some (hDie, 0x10000, 256, List.replicate 32 0) }

theorem witness_MouldsPassThroughTheirSlotStates :
    (base0.runsHere hDie 0x0110 = true ∧ base0.onDie hDie 0 = true ∧ base0.slotBusy 0 1 = false ∧ base0.slotNamed 0 1 = false ∧
      (∀ i, i < 4 → base0.slotState 0 i ≠ slREADY ∧ base0.slotState 0 i ≠ slACTIVE)) ∧
    (((loading slLOADING).die 0).slot 1).load = some (hDie, 0x10000, 256, List.replicate 32 0) ∧
    (loading slLOADING).slotState 0 1 = slLOADING ∧
    ((loading slLOADING).readFor hDie 0x10000 256).2.status = stOK ∧
    (((loading slCHECKING).die 0).slot 1).load = some (hDie, 0x10000, 256, List.replicate 32 0) ∧
    (loading slCHECKING).slotState 0 1 = slCHECKING ∧
    ((base0.setSlotState 0 3 slREADY).runsHere hDie 0x0111 = true ∧ (base0.setSlotState 0 3 slREADY).onDie hDie 0 = true ∧
      (base0.setSlotState 0 3 slREADY).slotState 0 3 = slREADY ∧ (base0.setSlotState 0 3 slREADY).dieRuns 0 = false) ∧
    (base0.runsHere hDie 0x0112 = true ∧ base0.slotBusy 0 3 = false ∧ base0.slotNamed 0 3 = false) := by decide +kernel

/-! ### Solver and copy engines -/

/-- A batch of one 1 × 1 matrix at 0x1000 to factor by LU, with flags in word 2. -/
def batchWords (flags : Nat) : List Word :=
  ([0x01010000, 1, flags, 0, 0, 0, 0, 0x100, 0x1000, 0, 0, 0, 0, 0, 0, 0, 0, 0, 0, 0, 0x2000, 0, 0x3000, 0, 0x4000, 0, 0, 0, 0, 0,
    0, 0] : List Nat).map (BitVec.ofNat 32)

def theSubmit : Submit := { addr := 0x5000, chan := none, secure := true, job := 0, cmd := none }

/-- Engine 0 with the batch waiting at 0x5000. -/
def batchWaits : State :=
  let s := on [domK 0] base0
  { s.modSolver 0 fun x => { x with queue := [theSubmit] } with
    mem := writeBytes s.mem 0x5000 ((batchWords 0).flatMap fun w => toBytes w.toNat 4) }

/-- Engine 0 with the batch running, core 0 running. -/
def batchRuns (flags : Nat) (f : SolverX → SolverX) : State :=
  ((on [domK 0] base0).setCoreState 0 csRUNNING).modSolver 0 fun x => f { x with batch := some (batchWords flags, theSubmit, 0) }

theorem witness_BatchesRunOnTheirEngine :
    (let s := batchWaits
     let y := s.slvRead 0 theSubmit 0x5000 128
     let b := batchOf ((leWords 4 (fitBytes 128 y.2.data)).map (BitVec.ofNat 32))
     (s.solver 0).batch = none ∧ (s.solver 0).queue = [theSubmit] ∧ s.domOn (domK00 (engineDie 0)) = true ∧ y.2.status = stOK ∧
       b.launch ≤ s.now ∧ b.launch = 0 ∧ b.structAddr = 0 ∧ b.stopAt = false ∧ b.rejected 0 theSubmit.addr none = false ∧
       y.1.batchDenied b theSubmit none = false) ∧
    (let s := batchRuns 0 id
     (s.solver 0).batch = some (batchWords 0, theSubmit, 0) ∧ (s.solver 0).done = false ∧ (batchOf (batchWords 0)).redo = false) ∧
    (let s := batchRuns 0x20000000 id
     let b := batchOf (batchWords 0x20000000)
     let m := s.batchMap 0 theSubmit b
     let a := m.1.slvAll 0 theSubmit b m.2.1 ((m.1.solver 0).denied || !m.2.2)
     (s.solver 0).done = false ∧ b.redo = true ∧ (a.1.solver 0).stats.any handed = true ∧ a.2 = false ∧ b.stopAt = false ∧
       a.1.redoCoreDown b.core = false ∧ (a.1.core b.core).lent = none) ∧
    ((batchRuns 0 fun x => { x with redo := true }).solver 0).redo = true ∧
    (let s := { batchRuns 0x10000000 id with tb := { TbX.init with now := 2 ^ 40 } }
     let b := batchOf (batchWords 0x10000000)
     (s.solver 0).batch = some (batchWords 0x10000000, theSubmit, 0) ∧ b.stopAt = true ∧ b.deadline ≤ s.now ∧
       (s.solver 0).limit = none ∧ (s.solver 0).done = false) ∧
    (let s := batchRuns 0 fun x => { x with done := true, stats := [(0, 0)] }
     (s.solver 0).done = true ∧ (s.solver 0).redo = false ∧ s.engineWaits 0 = false) := by decide +kernel

/-- Copy engine 0 with a descriptor at 0x5000 waiting. -/
def copyWaits (w0 len target source : Nat) : State :=
  { base0.modCopy 0 fun x => { x with queue := [theSubmit] } with
    mem := writeBytes [] 0x5000 (reqBytes w0 len target source ++ List.replicate 32 0) }

def copyGoes (s : State) (op : Nat) : Bool :=
  match (s.copyWords 0 theSubmit).2 with
  | none => false
  | some ws =>
    let y := (s.copyWords 0 theSubmit).1
    let x := reqDesc (ws.take 8)
    let w := fun i => (nthD (0 : Word) ws i).toNat
    let n := if op = opATOMIC then atomicLen x.aop x.size64 (readBytes y.mem (gaLocal x.source) x.len) else x.len
    decide ((s.copy 0).queue = [theSubmit]) && s.domOn (blkDomain .cpe 0) && decide (w 8 + w 9 * 2 ^ 32 = 0) && w 10 == 0 &&
      w 11 == 0 && x.accepted false && !y.copyDenied theSubmit x && !x.counter && !x.flag && y.ownBlock x.target x.len &&
      y.ownBlock x.source x.len && y.stackCalm (gaLocal x.source / 0x2000000000) && (y.waitsAt (gaLocal x.source)).isEmpty && !y.poisoned (gaLocal x.source) x.len &&
      y.fabric.held.isEmpty && !(s.copy 0).issuing && (y.copy 0).waiting.isEmpty && decide ((y.copy 0).out < 512) && x.op == op && y.lets theSubmit.grant theSubmit.chan theSubmit.secure (gaLocal x.target) n true

/-- A started fence and a started write of a copy engine. -/
def theFence (left : Nat) : CopyDesc :=
  { sub := theSubmit, id := 2, op := opFENCE, left := left, status := stOK, bytes := 0, epoch := 0, old := none, source := none }
def theWrite (cmd : Option (CmdHdr × List Word64)) : CopyDesc :=
  { sub := { theSubmit with cmd := cmd }, id := 1, op := opWRITE, left := 0, status := stOK, bytes := 16, epoch := 0, old := none,
    source := none }
def tileFence : TileReq := { writeReq with op := opFENCE, first := 5119 }

theorem witness_CopyDescriptorsSendAndComplete :
    copyGoes (copyWaits (2 * 2 ^ 26) 256 0x100 0x200) opWRITE = true ∧
    copyGoes (copyWaits (4 * 2 ^ 26) 256 0x100 0x200) opCOPY = true ∧
    copyGoes (copyWaits (3 * 2 ^ 26 + 0x10 * 2 ^ 14) 8 0x104 0x200) opATOMIC = true ∧
    (let s := copyWaits (5 * 2 ^ 26) 0 0 0
     ∃ ws, (s.copyWords 0 theSubmit).2 = some ws ∧ (reqDesc (ws.take 8)).accepted false = true ∧
       (reqDesc (ws.take 8)).op = opFENCE ∧ ((s.copyWords 0 theSubmit).1.copy 0).running = []) ∧
    (∀ cmd ∈ [none, some (hPkg, [])], (let s := base0.modCopy 0 fun x => { x with running := [theWrite cmd] }
     (s.copy 0).running = [theWrite cmd] ∧ (theWrite cmd).left = 0 ∧ (theWrite cmd).sub.cmd = cmd)) ∧
    (let s := base0.modCopy 0 fun x => { x with running := [theWrite none, theFence 1] }
     (s.copy 0).running = [theWrite none] ++ theFence 1 :: [] ∧ (theWrite none).left = 0 ∧ (theFence 1).op = opFENCE ∧
       0 < (theFence 1).left) ∧
    (let s := tile0 (fun x => { x with reqs := [tileFence] }) (on [domS 0] base0)
     (s.tile 0 0).reqs = [tileFence] ∧ tileFence.op = opFENCE ∧ tileFence.first < tileFence.limit ∧ tileFence.first < 5120 ∧
       s.tag 0 0 tileFence.first = .empty ∧ (s.die 0).sCut = GranSet.none ∧ s.domOn (domS 0) = true ∧ (s.die 0).upsets = []) := by
  refine ⟨by decide +kernel, by decide +kernel, by decide +kernel, ⟨_, rfl, ?_⟩, ?_⟩ <;> decide +kernel

/-! ### Ports and the router -/

/-- A flit of 63 words and its CRC. -/
def flit (ws : List Word) : List Word :=
  let b := (ws ++ List.replicate 63 0).take 63
  b ++ [BitVec.ofNat 32 (crc32c (wordBytes b))]

/-- A data flit of SEQ `seq`, without packets, and a control flit of type `c`. -/
def dataFlit (seq : Nat) : List Word := flit [BitVec.ofNat 32 (seq * 2 ^ 20)]
def ctlFlit (c seq place port : Nat) : List Word :=
  flit ([0x40000000, BitVec.ofNat 32 (c * 2 ^ 24 + seq * 2 ^ 14)] ++ List.replicate 57 0 ++
    [BitVec.ofNat 32 (place * 2 ^ 17 + port * 2 ^ 11)])

/-- Port 0 in state `st`, its ENABLE as given. -/
def portAt (st en : Nat) (f : PortX → PortX) : State :=
  ((((on [domFC] State.reset).setFld (prtB 0) PRT_CTRL.ENABLE en).setPortState 0 st).modPort 0 f)

def late (s : State) : State := { s with tb := { s.tb with now := 5000000 } }

theorem witness_PortsFollowTheirLinkEvents :
    (let s := portAt psUP 1 id
     s.portState 0 = psUP ∧ (s.port 0).blockCount = none ∧ flitGood (dataFlit 0) = true ∧
       bitsOf (flitWord (dataFlit 0) 0) 31 30 = 0 ∧ bitsOf (flitWord (dataFlit 0) 0) 29 20 = (s.port 0).rxSeq ∧
       (s.port 0).discarding = false ∧ controlGood 1 (ctlFlit 1 5 0 0) = true ∧ controlGood 0 (ctlFlit 0 0 0 0) = true ∧
       controlGood 3 (ctlFlit 3 0 0 0) = true ∧ (s.port 0).txFlits.length < 5) ∧
    (let s := portAt psUP 1 fun x => { x with blockCount := some 65535 }
     (s.port 0).blockCount = some 65535 ∧ 65535 ≠ (0 : BitVec 16).toNat ∧ (65535 + 1) % 65536 = (0 : BitVec 16).toNat ∧
       (s.port 0).blockCount = some (65535 : BitVec 16).toNat ∧ (s.port 0).blockBad = false) ∧
    (let s := portAt psUP 1 fun x => { x with retry := [(4, []), (5, [])] }
     (((s.port 0).acked (bitsOf (flitWord (ctlFlit 1 5 0 0) 0) 19 10)).retry.any fun e =>
       e.1 == bitsOf (flitWord (ctlFlit 1 5 0 0) 1) 23 14) = true) ∧
    (let s := portAt psTRAINING 1 id
     s.portState 0 = psTRAINING ∧ controlGood 2 (ctlFlit 2 0 1 0) = true ∧ controlGood 2 (ctlFlit 2 0 2 0) = true ∧
       wiring s.place 0 (bitsOf (flitWord (ctlFlit 2 0 1 0) 59) 31 17) (bitsOf (flitWord (ctlFlit 2 0 1 0) 59) 16 11) = some 0 ∧
       wiring s.place 0 (bitsOf (flitWord (ctlFlit 2 0 2 0) 59) 31 17) (bitsOf (flitWord (ctlFlit 2 0 2 0) 59) 16 11) = none) ∧
    (∀ c ∈ [DownCause.failedReplays, .noGoodCrc, .retryFull],
      (late (portAt psUP 1 fun x => { x with replays := 16, fullSince := some 0 })).downCause 0 c = true) ∧
    (let s := late (portAt psTRAINING 1 id)
     s.portState 0 = psTRAINING ∧ (s.port 0).trainSince + 4000000 ≤ s.now) ∧
    (∀ en ∈ [0, 1], (portAt psDOWN en id).portState 0 = psDOWN ∧ (portAt psQUARANTINED en id).portState 0 = psQUARANTINED ∧
      (portAt psUP en id).portState 0 ≠ psOFF ∧ (portAt psUP en id).portState 0 ≠ psQUARANTINED ∧
      (portAt psDOWN en id).flag (prtB 0) PRT_CTRL.ENABLE = decide (en = 1) ∧ ((portAt psDOWN en id).port 0).knocking = false) := by
  decide +kernel

/-- A packet from place 3 to `dst`. -/
def pktOf (tc kind dst : Nat) (payload : List Byte) : Packet :=
  { tc := tc, hops := 0, detour := false, member := false, kind := kind, length := payload.length, dst := dst, src := 3, via := 0,
    epoch := 0, seq := 0, srcDie := 0, srcUnit := 4, job := 0, space := 0, addr := 0x100, word7 := 0, payload := payload,
    rsv := false }

theorem toBytes_length (x n : Nat) : (toBytes x n).length = n := by induction n generalizing x <;> simp_all [toBytes]

theorem spongeOut_length (n a : Nat) : (spongeOut n a).length = 136 * n := by
  induction n generalizing a <;> simp_all [spongeOut, toBytes_length]; omega

theorem frameTag_length (key : List Byte) (p : Packet) (payload : List Byte) : (frameTag key p payload).length = 16 := by
  simp [frameTag, kmac256, sponge, spongeOut_length]

/-- A locked package that holds one MAC key. -/
def locked : State :=
  let s := (on [domFC] State.reset).setFld tbB TB_STATUS.STATE 2
  { s with sec := { s.sec with
      slots := [(0, { ty := slotMAC, maxRole := 3, channels := 0, tx := true, key := List.replicate 32 1, secret := [] })] } }

/-- A frame of place 3 at grain 0 with `body` and its tag. -/
def frame (kind addr : Nat) (word7 : Word) (body : List Byte) : Packet :=
  let payload := toBytes 0 8 ++ body
  let p : Packet := { pktOf 7 kind 0 [] with length := payload.length + 16, space := 8, addr := addr, word7 := word7 }
  { p with payload := payload ++ frameTag (List.replicate 32 1) p payload }

theorem frame_ok {s : State} (hs : s.sec = locked.sec) (ht : 2 ≤ s.tbState) (hp : s.pufFail = false) (hn : s.now ≤ 200000)
    (kind addr : Nat) (word7 : Word) (body : List Byte) : s.frameOk (frame kind addr word7 body) = true := by
  let payload := toBytes 0 8 ++ body
  let p : Packet := { pktOf 7 kind 0 [] with length := payload.length + 16, space := 8, addr := addr, word7 := word7 }
  have hl := frameTag_length (List.replicate 32 1) p payload
  have he : (frame kind addr word7 body).payload = payload ++ frameTag (List.replicate 32 1) p payload := rfl
  have hh : ∀ m, frameTag (List.replicate 32 1) (frame kind addr word7 body) m = frameTag (List.replicate 32 1) p m := fun _ => rfl
  have h8 : payload.length = 8 + body.length := by simp [payload, toBytes_length]
  have hg : leNat (payload.take 8) = 0 := by simp [payload, toBytes, leNat]
  have hc : payload.length + 16 - 16 = payload.length := by omega
  have hx : (payload ++ frameTag (List.replicate 32 1) p payload).take 8 = payload.take 8 := List.take_append_of_le_length (by omega)
  simp only [State.frameOk, he, List.length_append, hl, hc, List.take_left, List.drop_left, hx, hg, hs, locked, List.any_cons,
    Bool.and_eq_true, decide_eq_true_eq, hp, Bool.not_false, List.any_nil, Bool.or_false]
  refine ⟨⟨⟨⟨⟨by omega, ht⟩, trivial⟩, by omega⟩, by omega⟩, rfl, ?_⟩
  rw [show (List.replicate 32 (1 : Byte)).take 32 = List.replicate 32 1 from rfl, hh]
  exact beq_self_eq_true _

def noticeFrame : Packet := frame 0x80 0 0 []

/-- A request to place 2 and one that waits for its answer. -/
def farther : Req := { access 0x100 (.read 4) .none with dst := 2 }
def waiting (op : MemOp) : State :=
  let s := portAt psUP 1 id
  { s with fabric := { s.fabric with sent := [⟨3, 0, { access 0x100 op .none with dst := 3 }, 0, 0⟩] } }

theorem witness_RouterMovesItsPackets :
    (let s := portAt psUP 1 id
     let pkt := pktOf 0 0x03 0 [1]
     s.packetLegal pkt false = true ∧ s.arrived pkt = true ∧ pkt.member = false) ∧
    (let s := portAt psUP 1 id
     let pkt := pktOf 0 0x03 1 [1]
     let v := s.modPort (0 : Fin 36) fun x =>
      { x with rxPkts := dropFirst (· == (pkt, false)) x.rxPkts,
               freed := mapPut x.freed (creditKey pkt.tc (hopClass pkt))
                 ((mapGet 0 x.freed (creditKey pkt.tc (hopClass pkt)) + packetUnits pkt) % 65536) }
     s.packetLegal pkt false = true ∧ s.arrived pkt = false ∧ pkt.hops ≠ 14 ∧ (v.route pkt).2 = some (pkt, ⟨[0], 0, 0⟩) ∧
       lowest (fun port => (v.route pkt).1.queuedBytes port pkt.tc pkt.hops) [0] = some 0 ∧ bitOf pkt.word7.toNat 29 = false) ∧
    (let s := portAt psUP 1 fun x => { x with malCount := 300, malStart := 0 }
     s.packetLegal (pktOf 4 0x03 1 []) false = false ∧ s.packetLegal (pktOf 0 0x03 0 []) true = false ∧ s.portState 0 = psUP ∧
       s.now < (s.port 0).malStart + 200000 ∧ (s.port 0).malCount ≠ 0 ∧ s.fld (prtB 0) PRT_MAL_LIMIT.LIMIT ≤ (s.port 0).malCount) ∧
    (let s := portAt psDOWN 1 id
     let pkt := pktOf 0 0x03 1 [1]
     s.arrived pkt = false ∧ (({ s with fabric := { s.fabric with inject := dropFirst (· == pkt) s.fabric.inject } }).route pkt).2 = none) ∧
    ((noticeFrame.kind = 0x80 ∧ noticeFrame.tc = 7 ∧ noticeFrame.dst = locked.place ∧
      (locked.window noticeFrame.src).sort noticeFrame.seq = .new) ∧ locked.frameOk noticeFrame = true) ∧
    (let s := late (waiting (.read 4))
     ∃ x ∈ s.fabric.sent, x.dst = (3 : BitVec 15).toNat ∧ x.seq = (0 : BitVec 16).toNat ∧ x.grain + s.resendGrains ≤ s.now) := by
  refine ⟨?_, ?_, ?_, ?_, ⟨?_, ?_⟩, ?_⟩
  · decide +kernel
  · decide +kernel
  · decide +kernel
  · decide +kernel
  · decide +kernel
  · exact frame_ok rfl (by decide +kernel) (by decide +kernel) (by decide +kernel) _ _ _ _
  · decide +kernel

/-- A package that received `pkt`; memory of die 0 is ON. -/
def gotPkt (pkt : Packet) (f : FabricX → FabricX) : State :=
  let s := on [domFC, domC 0, domM 0] State.reset
  { s with fabric := f { s.fabric with delivered := [pkt] } }

/-- What the statement takes for granted of a new request. -/
def newReq (pkt : Packet) : Bool :=
  let s := gotPkt pkt id
  let op := packetOp pkt
  let r := remoteReq pkt s.fabric.nextReq pkt.seq (pkt.srcDie * 1024 + pkt.srcUnit) op
  let x : InReq := ⟨s.fabric.nextReq, r, pkt.kind, 0, stOK, [], false, [(pkt.src, pkt.seq)]⟩
  let v := s.setWindow pkt.src ((s.window pkt.src).take pkt.seq)
  pkt.dst == s.place && !s.respFull && decide ((s.window pkt.src).sort pkt.seq = .new) && decide (pkt.src ≠ s.place) &&
    pkt.space == 0 && decide (pkt.addr < 0x18000000000) && op.fits pkt.addr && s.partLets false pkt.addr op.len &&
    !v.flagHeld x && !v.blockHeld x

/-- A request of place 3 that waits for nothing, as the package holds it, and one of the own place. -/
def heldReq : Req := { access 0x100 (.write [1]) .none with place := 3, who := .remote 3 }
def heldIn : InReq := ⟨1, heldReq, 0x03, 0, stOK, [], false, [(3, 0)]⟩
def heldOwn : Req := access 0x100 (.write [1]) .none

/-- A fetching add of place 3. -/
def fetchAdd : Packet := { pktOf 1 0x05 0 [1, 0, 0, 0, 0, 0, 0, 0] with word7 := 0x06000000 }

theorem witness_RemoteRequestsReachTheirHome :
    (let s := { portAt psUP 1 id with fabric := { State.reset.fabric with reqQ := [farther] } }
     s.nextSend = some (0, farther) ∧ farther.dst ≠ s.place ∧ s.fabric.unreachable.contains farther.dst = false) ∧
    (let s := { portAt psUP 1 id with fabric := { State.reset.fabric with reqQ := [farther], unreachable := [2] } }
     s.nextSend = some (0, farther) ∧ s.fabric.unreachable.contains farther.dst = true) ∧
    (let r := access 0x1C040000000 (.read 4) .none
     let s := { portAt psUP 1 id with fabric := { State.reset.fabric with reqQ := [r] } }
     s.nextSend = some (0, r) ∧ r.dst = s.place) ∧
    (newReq { pktOf 0 0x01 0 [] with word7 := 256 } && newReq (pktOf 1 0x03 0 [1, 2]) && newReq (pktOf 1 0x04 0 [1, 2]) &&
      newReq fetchAdd && newReq (pktOf 5 0x60 0 [1, 2])) = true ∧
    (∀ p ∈ [pktOf 0 0x03 0 [1], { pktOf 0 0x01 0 [] with word7 := 256 }, fetchAdd],
      let s := gotPkt p fun x => { x with windows := [(3, ⟨1, [], []⟩)], resp := [(3, 0, pktOf 2 0x06 3 [])] }
      (s.window 3).sort p.seq = .duplicate ∧ s.fabric.applying = [] ∧
        (s.fabric.resp.find? fun e => e.1 == p.src && e.2.1 == p.seq).isSome = true) ∧
    atomicReturns (combAop fetchAdd) = true ∧
    (let s := gotPkt (pktOf 0 0x03 0 [1]) fun x => { x with held := [heldReq, heldOwn], applying := [heldIn] }
     (3 : BitVec 15).toNat ≠ s.place ∧
       s.fabric.applying.find? (fun q => q.sources.contains (3, 0) && s.fabric.held.contains q.req) = some heldIn ∧
       s.flagHeld heldIn = false ∧ s.blockHeld heldIn = false ∧ s.place = 0 ∧
       s.fabric.held.find? (fun r => r.place == 0 && r.id % 65536 == 1) = some heldOwn ∧ heldOwn.flag = false ∧
       ({ s with fabric := { s.fabric with held := dropFirst (· == heldOwn) s.fabric.held } }).heldBefore heldOwn = false ∧
       s.entryOk heldOwn = true ∧ heldOwn.addr < 0x18000000000) ∧
    (let s := gotPkt (pktOf 0 0x03 0 [1]) fun x => { x with acks := [(3, 5, stOK, 0), (4, 6, stOK, 0)] }
     (s.fabric.acks.filter fun a => a.1 == (3 : BitVec 15).toNat) ≠ []) ∧
    (let s := waiting (.read 4)
     (pktOf 2 0x08 0 (ackEntry 0 stOK)).dst = s.place ∧ ackEntries (pktOf 2 0x08 0 (ackEntry 0 stOK)) = [(0, stOK)] ∧
       (s.fabric.sent.find? fun x => x.dst == (pktOf 2 0x08 0 []).src && x.seq == 0).isSome = true ∧
       (pktOf 2 0x02 0 []).dst = s.place ∧ (pktOf 2 0x06 0 []).dst = s.place ∧ (pktOf 2 0x09 0 []).dst = s.place ∧
       (pktOf 2 0x02 0 []).seq = 0) := by decide +kernel

/-! ### Collectives -/

/-- Team 9 of the places 0, 8 and 9, each with its member on die 0; `parent` as this package knows it. -/
def theTeam (parent : Option Nat) : TeamX :=
  { members := [1, 2, 3], timeout := 1000, faulted := 0, nextSeq := [], homes := [(0, 0), (8, 0), (9, 0)], parent := parent,
    extra := [], lost := [], heard := [], job := 0 }

/-- Place `p` with team 9 and the routing entries of its members. -/
def teamAt (p : Nat) (parent : Option Nat) : State :=
  let s := (on [domFC, domC 0, domS 0, domM 0] State.reset).setFld glpB GLP_PLACE.PLACE p
  ([(1, 0), (2, 8), (3, 9)].foldl (fun s e =>
    (s.setReg (glpB + 0x100000 + 8 * e.1) (BitVec.ofNat 32 (2 ^ 31 + e.2))).setReg (glpB + 0x100000 + 8 * e.1 + 4) 0) s).setTeam 9
      (theTeam parent)

/-- A call of member `m`: OP, flags and types in word 0, ROOT, COUNT; SRC, DST and COMPLETION in stack 0. -/
def callWords (w0 m root count : Nat) : List Word :=
  ([w0, 9, m, 0, root, count, 0x2000, 0, 0x3000, 0, 0x4000, 0, 0, 0, 0x3F800000, 0] : List Nat).map (BitVec.ofNat 32)

/-- The record of a call of OP `op` at 0x1000. -/
def withRecord (op : Nat) : State :=
  let s := teamAt 0 none
  let count := if op = 1 then 0 else 1
  { s with mem := writeBytes [] 0x1000 (wordBytes (callWords (op * 2 ^ 24 + 1 * 2 ^ 20) 1 0 count)) }

/-- What the statement takes for granted of an entry. -/
def mayEnter (s : State) (op : Nat) : Bool :=
  let y := s.colRead 0 0x1000 64
  let ws := (leWords 4 (fitBytes 64 y.2.data)).map (BitVec.ofNat 32)
  let t := theTeam none
  s.ownAddr 0x1000 && y.2.status == stOK && callOp ws == op && decide (y.1.team? (callWord ws 1) = some t) &&
    decide ((List.range t.members.length).find? (fun r => (nthD (0 : Word) t.members r).toNat == callWord ws 2) = some 0) &&
    decide (y.1.resolveMember (callWord ws 2) = some (y.1.place, 0)) && callOk ws t.members.length && y.1.callAddrs ws 0 t.members.length && t.faulted == 0 &&
    decide ((y.1.coll.calls.filter fun c => c.team == callWord ws 1 && c.rank == 0).length < 16)

/-- Die 0 waits for a vote of team 9. -/
def voting : State := ((teamAt 0 none).setFld (dsqB 0) TNM_STATUS.VOTING 1).setFld (dsqB 0) TNM_VOTE_TEAM.TEAM 9

theorem witness_MembersEnterTheirCalls :
    (collCommands.all fun e => mayEnter (withRecord e.2) e.2) = true ∧
    (let s := voting
     let t := theTeam none
     s.flag (dsqB 0) TNM_STATUS.VOTING = true ∧ (s.coll.calls.any fun c => c.vote && c.die == 0 && c.run == (s.die 0).run) = false ∧
       s.fld (dsqB 0) TNM_VOTE_TEAM.TEAM = 9 ∧ s.flag (dsqB 0) TNM_STATUS.STEP_OVF = false ∧
       s.flag (dsqB 0) TNM_STATUS.UNABLE = false ∧ s.team? 9 = some t ∧
       (List.range t.members.length).find? (fun r => decide (nthD (0, 0) t.homes r = (s.place, 0))) = some 0 ∧
       (List.range t.members.length).find? (fun r => (nthD (0 : Word) t.members r).toNat == 1) = some 0 ∧
       s.resolveMember 1 = some (s.place, 0)) := by decide +kernel

/-- A call that member `m` of rank `r` has entered in die 0. -/
def theCall (w0 m r : Nat) (waiting : Option ReleaseMsg) : CallX :=
  { run := 0, team := 9, seq := 1, die := 0, rank := r, words := callWords w0 m 0 1, entered := 0, fingerprint := 7, vote := false,
    waiting := waiting, own := none }

def barrier : Nat := 1 * 2 ^ 24
def scalar : Nat := 2 * 2 ^ 24 + 2 ^ 20
def aligned : Nat := scalar + 2 ^ 15
def bcast : Nat := 4 * 2 ^ 24 + 2 ^ 20
def reduce : Nat := 5 * 2 ^ 24 + 2 ^ 20

/-- The release of round 1. -/
def releaseOf (status : Nat) (cgrain : Word64) (agreement : Bool) : ReleaseMsg :=
  { team := 9, seq := 1, status := status, cgrain := cgrain, result := 5, flags := 0, sourceLost := false, survivors := [0, 1, 2],
    agreement := agreement }

/-- The message of place `child`. -/
def upOf (child : Nat) (ranks : List Nat) : UpMessage :=
  { team := 9, seq := 1, child := child, fingerprint := 7, mismatches := [], mismatchCount := 0, operand := 1, flags := 0,
    ranks := ranks, timedOut := false }

/-- Place `p` with one call of round 1 and the round as `f` makes it, at grain `g`. -/
def inRound (p : Nat) (parent : Option Nat) (c : CallX) (g : Nat) (f : RoundX → RoundX) : State :=
  let s := teamAt p parent
  { s with coll := { s.coll with calls := [c], rounds := [f (RoundX.new 9 1)] }, tb := { s.tb with now := g } }

def chunkOf (up : Bool) : ChunkMsg := { team := 9, seq := 1, sender := 8, up := up, chunk := 0, data := [1, 2, 3, 4] }

theorem witness_CollectiveRoundsFollowTheirMessages :
    (let s := inRound 0 none (theCall scalar 1 0 none) 10 id
     s.team? (9 : Word).toNat = some (theTeam none) ∧ (s.round 9 1).inputs = [] ∧ s.teamBusy 9 = true) ∧
    (let s := inRound 9 (some 0) (theCall aligned 3 2 none) 10 id
     s.team? 9 = some (theTeam (some 0)) ∧ (theTeam (some 0)).parent = some 0 ∧
       s.roundCalls 9 1 = [theCall aligned 3 2 none] ∧ callAligned (callWords aligned 3 0 1) = true ∧
       s.now < (releaseOf stOK 500 false).cgrain.toNat ∧ callAligned (callWords scalar 3 0 1) = false) ∧
    (let s := inRound 0 none (theCall aligned 1 0 (some (releaseOf stOK 5 false))) 10 id
     (s.roundCalls 9 1).find? (fun c => c.die == 0) = some (theCall aligned 1 0 (some (releaseOf stOK 5 false))) ∧
       (releaseOf stOK 5 false).cgrain.toNat ≤ s.now ∧ callOp (callWords aligned 1 0 1) ≠ 1 ∧
       callPair (callWords aligned 1 0 1) 12 = 0) ∧
    (let s := inRound 0 none (theCall reduce 1 0 none) 10 id
     callOp (callWords reduce 1 0 1) = 5 ∧ callRoot (callWords reduce 1 0 1) = 0 ∧ (s.round 9 1).parts = [] ∧
       (s.round 9 1).written.contains 0 = false ∧ callOp (callWords bcast 1 0 1) = 4) ∧
    (let s := inRound 0 none (theCall bcast 1 0 none) 10 fun r => { r with unacked := [(8, 0)] }
     ((s.roundCalls 9 1).find? fun c => callOp c.words == 4 && c.rank == callRoot c.words) = some (theCall bcast 1 0 none) ∧
       (s.round 9 1).written = [] ∧ (s.round 9 1).unacked.contains ((8 : BitVec 15).toNat, 0) = true ∧ (s.round 9 1).done = [] ∧
       s.coll.rounds.any (sameRound 9 1) = true) ∧
    (let s := inRound 9 (some 0) (theCall scalar 3 2 none) 4000 id
     (theTeam (some 0)).parent = some 0 ∧ s.silent 9 0 (theTeam (some 0)) = true) ∧
    (let s := inRound 0 none (theCall scalar 1 0 none) 4000 id
     ((theTeam none).children s.place).contains (8 : BitVec 15).toNat = true ∧ s.silent 9 8 (theTeam none) = true ∧
       s.coll.rounds.filter (fun r => r.team == 9) = [RoundX.new 9 1] ∧ (RoundX.new 9 1).agreed = false ∧
       (theCall scalar 1 0 none).entered + (theTeam none).timeout ≤ s.now) := by decide +kernel

/-! ### Clocks and the timebase -/

/-- Die 0 with demand `e` since grain 0, at grain 3000. -/
def demanded (e : Nat × Nat) : State :=
  let s := (State.reset.setDemands 0 [e]).setCalm 0 [(e.1, 0)]
  { s with tb := { s.tb with now := 3000 } }

/-- Port 0 in UP, the timebase in state `st` with upstream 0, `n` offsets gathered and a SYNC being answered. -/
def following (st n : Nat) (peers : FMap (Nat × Nat × Bool × Nat)) : State :=
  let s := ((portAt psUP 1 id).setFld tbB TB_STATUS.STATE st).setFld tbB TB_STATUS.UPSTREAM 0
  { s with tb := { s.tb with now := 20000, peers := peers, offsets := List.replicate n 800000, sync := some (0, 100, 900000, 200) } }

/-- A grandmaster with PPS. -/
def master (st missed : Nat) : State :=
  let s := ((State.reset.setFld tbB TB_CTRL.GM 1).setFld tbB TB_CTRL.PPS_EN 1).setFld tbB TB_STATUS.STATE st
  { s with tb := { s.tb with ppsMissed := missed } }

theorem witness_ClocksAndTimebaseFollowTheirInputs :
    (7 < regionsOf 0 ∧ 15 < regionsOf 13 ∧ (∀ e ∈ State.reset.sensorsOf 0, e.1 < 16)) ∧
    (∀ e ∈ [(1, 1), (2, 2), (3, 3), (4, 16), (5, 48)],
      ((demanded (e.2, 0x1200)).demandsOf 0).filter (fun x => causeBit x.1 == e.1) = [(e.2, 0x1200)] ∧
        (demanded (e.2, 0x1200)).calmFor 0 e.2 (if e.1 = 5 then 64 else 2000) = true ∧
        ∀ x ∈ (demanded (e.2, 0x1200)).demandsOf 0, x.2 < 2 ^ 16) ∧
    (let s := following tbLOCKED 7 [(0, (2, 4, false, 0))]
     s.tbState = tbLOCKED ∧ s.portState 0 = psUP ∧ s.tb.sync = some (0, 100, 900000, 200) ∧ s.upstream = some 0 ∧
       s.tb.offsets.length = 7 ∧ (mapGet (0, 0, false, 0) s.tb.peers 0).2.2.2 + 10000 ≤ s.now ∧ s.tbGM = false ∧
       ({ s with tb := { s.tb with peers := mapErase s.tb.peers 0, offsets := [], sync := none } }).bestUpstream = none) ∧
    (let s := following tbACQUIRING 7 [(0, (2, 4, false, 0)), (1, (3, 4, false, 0))]
     s.tbState = tbACQUIRING ∧ s.tb.locked = false ∧ s.upstream = some 0 ∧ s.bestUpstream = some 0 ∧
       (({ s with tb := { s.tb with peers := mapErase s.tb.peers 0, offsets := [], sync := none } }).setPortState 1 psUP).bestUpstream =
         some 1) ∧
    (following tbLOCKED 3 []).tb.offsets.length < 7 ∧
    (let s := master tbFREE 0
     s.tbGM = true ∧ s.flag tbB TB_CTRL.PPS_EN = true ∧ s.tbState = tbFREE ∧ s.tb.locked = false) ∧
    ((master tbLOCKED 1).tbState ≠ tbFREE ∧ 1 ≤ (master tbLOCKED 1).tb.ppsMissed) := by decide +kernel

/-! ### Channels and commands -/

/-- The package runs its channels; channel 0x10 as `f` makes it. -/
def chanAt (f : ChanX → ChanX) : State := (State.reset.setFld fwB FW_STATUS.CODE 2).modChan 0x10 f

def aSession (standing : Bool) : Session := { role := 3, slot := 0, job := 0, last := 0, standing := standing }

/-- A NOP for the own package. -/
def nopPacket : List Word64 := pairWords (cmdHead 0x0005 0 9 (BitVec.ofNat 32 State.reset.pkgUnit) 0 0x10 0 0)

/-- The host function that owns channel 0x10. -/
def theHost : Agent := .host 0x10 false

def opened (q : List Word64) : State := chanAt fun x => { x with reqQ := q, session := some (aSession false) }

/-- A NOP that has passed its checks. -/
def heldNop (s : State) (acked : Bool) : HeldCmd :=
  { hdr := s.hdrOf 0x10 nopPacket, opcode := 0x0005, params := [], plen := 0, acked := acked, mute := false }

theorem witness_ChannelsCarryTheirWords :
    chanExists 0x10 = true ∧ chanExists 0x11 = true ∧
    (let s := opened []
     s.ownsChan theHost 0x10 = true ∧ s.hostHolds theHost = false ∧ (s.chan 0x10).reqQ.length < 8 ∧
       s.ownsChan .mgt 0x11 = true ∧ s.ownsChan (.host 1 false) 0x10 = false) ∧
    (∀ b ∈ [true, false], (let s := chanAt fun x => { x with reqQ := List.replicate 8 0, discard := b }
     8 ≤ (s.chan 0x10).reqQ.length ∧ s.pkcRuns = true ∧ (s.chan 0x10).reqQ ≠ [] ∧ (s.chan 0x10).discard = b)) ∧
    8 ≤ ((State.reset.modChan 0x11 fun x => { x with reqQ := List.replicate 8 0 }).chan 0x11).reqQ.length ∧
    (∀ r ∈ [(1, (9 : Word), true), (2, 9, true)],
      (let s := chanAt fun x => { x with rspQ := [7], replies := [r], outstanding := [9] }
       (s.chan 0x10).rspQ = [7] ∧ (s.chan 0x10).replies = [r])) ∧
    (let s := opened (nopPacket.take 3)
     s.pkcRuns = true ∧ (s.chan 0x10).acks = [] ∧ packetLen ((s.chan 0x10).taken ++ (s.chan 0x10).reqQ) = none) ∧
    (let s := opened nopPacket
     packetLen ((s.chan 0x10).taken ++ (s.chan 0x10).reqQ) = some 4 ∧ s.ackOf 0x10 nopPacket = stOK) ∧
    (∀ code ∈ [stOK, stDENIED], (let s := chanAt fun x => { x with acks := [(9, code)] }
     (s.chan 0x10).acks = [(9, code)] ∧ ¬ bitOf (s.reg (chB 0x10 + CH_DB_IN.off)).toNat 1 = true)) ∧
    (ackHeld 0x10 9 [heldNop (opened []) false]).2 = some (heldNop (opened []) false) ∧
    (let s := { opened [] with tb := { State.reset.tb with now := 2000000000 } }
     (s.chan 0x10).session = some (aSession false) ∧ (s.chan 0x10).outstanding = [] ∧
       (aSession false).last + 2000000000 ≤ s.now) ∧
    ((chanAt fun x => { x with session := some (aSession true) }).chan 0x10).session = some (aSession true) := by decide +kernel

/-- The package holds `c` alone. -/
def holding (c : HeldCmd) : State := { opened [] with pkc := { State.reset.pkc with held := [c] } }
/-- The held NOP, INDIRECT with a parameter block at 0x1000 or not. -/
def indirect (b : Bool) : HeldCmd :=
  let c := heldNop (opened []) true
  { c with hdr := { c.hdr with indirect := b }, params := [0x1000], plen := 1 }

/-- A NOP of channel 0x10 to the package of place 3. -/
def hFar : CmdHdr := { hPkg with target := BitVec.ofNat 32 (unitAddr 3 2 0 0), chan := 0x10 }
def farUnit : Nat := unitAddr 3 2 0 0

/-- A record of that NOP which waits for `units`. -/
def waitsFor (units : List Nat) : State :=
  { locked with
    tb := { State.reset.tb with now := 10000000 }
    pkc := { State.reset.pkc with forwards := [{ hdr := hFar, opcode := 0x0005, waiting := units, statuses := [],
                                                   data := [], completion := 0, sentAt := 0, late := false, mute := false, sel := 0 }] } }
def soon (s : State) : State := { s with tb := { s.tb with now := 5 } }

/-- The frame of a NOP for a member, by its launch grain and role; of a reply; of a management access. -/
def fwdFrame (launch role : Nat) : Packet :=
  frame 0x78 0 0 (wordBytes (cmdHead 0x0005 flagMEMBER 9 (BitVec.ofNat 32 State.reset.pkgUnit) 0 0x10 launch 0 ++ [3, BitVec.ofNat 32 role, 0, 0]))
def rplFrame : Packet :=
  frame 0x79 0 0 (wordBytes (cmdHead 0x0005 (flagREPLY + flagMEMBER) 1 (BitVec.ofNat 32 farUnit) 0 0x10 7 stOK))
def mgmtFrame (kind a : Nat) (word7 : Word) (body : List Byte) : Packet := frame kind (controlAddr a) word7 body

/-- The package has die 0 ON; it is the root of job 0's strata. -/
def memberState : State :=
  let t := (teamAt 0 none).setFld tbB TB_STATUS.STATE 2
  { t with sec := locked.sec, strata := [(0, { StrJob.init with config := [0, 9] })] }

/-- What the statement takes for granted of a frame. -/
def framed (s : State) (p : Packet) (kind : Nat) : Prop :=
  s.pkcRuns = true ∧ p.kind = kind ∧ p.tc = 7 ∧ p.dst = s.place ∧ s.frameOk p = true ∧ (s.window p.src).sort p.seq = .new

theorem framed_frame {s : State} (hs : s.sec = locked.sec)
    (h : s.pkcRuns = true ∧ 0 = s.place ∧ (s.window 3).sort 0 = .new ∧ 2 ≤ s.tbState ∧ s.pufFail = false ∧ s.now ≤ 200000)
    (kind addr : Nat) (word7 : Word) (body : List Byte) : framed s (frame kind addr word7 body) kind :=
  ⟨h.1, rfl, rfl, h.2.1, frame_ok hs h.2.2.2.1 h.2.2.2.2.1 h.2.2.2.2.2 _ _ _ _, h.2.2.1⟩

/-- What a taken frame leaves. -/
def taken (s : State) (p : Packet) : State :=
  ({ s with fabric := { s.fabric with delivered := dropFirst (· == p) s.fabric.delivered } } : State).setWindow p.src
    ((s.window p.src).take p.seq)

def aFwd (launch role : Nat) : Bool :=
  let v := taken locked (fwdFrame launch role)
  let h := frameHdr (fwdFrame launch role)
  v.checkCmd h.chan h.role (frameWord (fwdFrame launch role) 0 / 65536) (bytesToWords64 ((frameBody (fwdFrame launch role)).drop 48)).length
    h.target.toNat h.launch.toNat true == stOK

theorem witness_CommandsReachTheirMembers :
    (∀ b ∈ [true, false], (holding (indirect b)).pkcRuns = true ∧
      (holding (indirect b)).pickHeld 0x10 9 [] [indirect b] = some (indirect b, []) ∧ (opBody (indirect b).opcode).isSome = true) ∧
    (((on [domC 0, domM 0] (holding (indirect true))).readFor (indirect true).hdr 0x1000 8).2.status = stOK ∧
      ((holding (indirect true)).readFor (indirect true).hdr (2 ^ 60) 8).2.status ≠ stOK) ∧
    (hFar.member = false ∧ unitLevel hFar.target.toNat = 2 ∧ unitPlace hFar.target.toNat ≠ locked.place ∧
      locked.mgmtStatus = stOK ∧ locked.fabric.unreachable.contains (unitPlace hFar.target.toNat) = false) ∧
    (∀ e ∈ [(0, 3), (5, 3), (0, 0)], framed locked (fwdFrame e.1 e.2) 0x78) ∧
    (aFwd 0 3 = true ∧ aFwd 5 3 = true ∧ aFwd 0 0 = false ∧ locked.now < (frameHdr (fwdFrame 5 3)).launch.toNat ∧
      (frameHdr (fwdFrame 0 3)).launch.toNat ≤ locked.now) ∧
    (framed (soon (waitsFor [farUnit])) rplFrame 0x79 ∧ framed (soon (waitsFor [farUnit, 77])) rplFrame 0x79) ∧
    (∀ us ∈ [[farUnit], [farUnit, 77]], (waitsFor us).pkc.forwards.any (fun r =>
      r.hdr.chan == bitsOf (frameWord rplFrame 3) 15 0 && decide (r.hdr.seq = BitVec.ofNat 32 (frameWord rplFrame 1)) &&
        !r.hdr.member && r.opcode == frameWord rplFrame 0 / 65536 && r.waiting.contains (frameWord rplFrame 2)) = true) ∧
    ((waitsFor [farUnit]).pkcRuns = true ∧ (waitsFor [farUnit]).forwards hFar = true ∧ 0 + 10000000 ≤ (waitsFor [farUnit]).now) ∧
    (∀ a ∈ [glpB, 0], framed locked (mgmtFrame 0x7A a 4 []) 0x7A) ∧
    ((taken locked (mgmtFrame 0x7A glpB 4 [])).mgmtRegs (mgmtFrame 0x7A glpB 4 []) 4 = some [glpB] ∧
      (taken locked (mgmtFrame 0x7A 0 4 [])).mgmtRegs (mgmtFrame 0x7A 0 4 []) 4 = none) ∧
    (∀ e ∈ [(2, 4), (dsqB 0 + STR_DUE_LO.off, 8), (dsqB 0 + STR_CTRL.off, 4), (glpB, 4)],
      framed memberState (mgmtFrame 0x7B e.1 0 (toBytes 0x80000000 e.2)) 0x7B) ∧
    (let r := fun (a n : Nat) => (taken memberState (mgmtFrame 0x7B a 0 (toBytes 0x80000000 n))).mgmtRegs
       (mgmtFrame 0x7B a 0 (toBytes 0x80000000 n)) n
     r 2 4 = none ∧ r (dsqB 0 + STR_DUE_LO.off) 8 = some [dsqB 0 + STR_DUE_LO.off, dsqB 0 + STR_DUE_LO.off + 4] ∧
       r (dsqB 0 + STR_CTRL.off) 4 = some [dsqB 0 + STR_CTRL.off] ∧ r glpB 4 = some [glpB] ∧
       locate (dsqB 0 + STR_DUE_LO.off) = some (.dsq, 0, STR_DUE_LO.off) ∧
       locate (dsqB 0 + STR_CTRL.off) = some (.dsq, 0, STR_CTRL.off) ∧ (locate glpB).any (fun e => e.1 == .dsq) = false) ∧
    framed memberState (mgmtFrame 0x7C 0 0 []) 0x7C ∧ memberState.strRoot (memberState.strJob 0) = true := by
  have hl := framed_frame (s := locked) rfl (by decide +kernel)
  have hm := framed_frame (s := memberState) rfl (by decide +kernel)
  have h1 := framed_frame (s := soon (waitsFor [farUnit])) (by simp only [soon, waitsFor]) (by decide +kernel)
  have h2 := framed_frame (s := soon (waitsFor [farUnit, 77])) (by simp only [soon, waitsFor]) (by decide +kernel)
  refine ⟨?_, ?_, ?_, fun _ _ => hl 0x78 0 0 _, ?_, ⟨h1 0x79 0 0 _, h2 0x79 0 0 _⟩, ?_, ?_, fun a _ => hl 0x7A (controlAddr a) 4 [], ?_,
    fun e _ => hm 0x7B (controlAddr e.1) 0 _, ?_,
    hm 0x7C (controlAddr 0) 0 [], ?_⟩ <;> decide +kernel

def words (ns : List Nat) : List Word64 := ns.map (BitVec.ofNat 64)

/-- The opcodes of commands that read, and of those that set what the controller keeps. -/
def queryOps : List Nat :=
  [0x0005, 0x0004, 0x0001, 0x0104, 0x0310, 0x0406, 0x0503, 0x0603, 0x0701, 0x0702, 0x0807, 0x0806]
def setterOps : List Nat :=
  [0x0003, 0x0002, 0x0801, 0x0802, 0x0803, 0x0804, 0x0805, 0x0205, 0x0601, 0x0602, 0x0703, 0x0704, 0x0501, 0x0502, 0x0504, 0x0105]

def anEntry (n : Nat) : JEntry := ⟨stOK, 0, 0, n, 0, 0, none, 0, 1, List.replicate 8 0⟩

/-- A journal of six entries; the spill buffer of channel 0 is one page at 0x2000 of stack 0. -/
def journal : State :=
  let s := ((on [domC 0, domM 0] State.reset).setReg64 (chB 0 + CH_SPILL_LO.off) 0x2000).setFld (chB 0) CH_SPILL_SIZE.PAGES 1
  { s with jrn := { s.jrn with ring := (List.range 12).map anEntry } }

/-- To the own package over channel 0x10. -/
def h10 : CmdHdr := { hPkg with chan := 0x10 }

theorem witness_QueriesReplyWithWhatTheyRead :
    (queryOps.all fun op => State.reset.runsHere hPkg op && (opened []).runsHere h10 op && base0.runsHere hDie op) = true ∧
    ((State.reset.chan 0).session = none ∧ ((opened []).chan h10.chan).session = some (aSession false)) ∧
    (let ps := words [2 * 2 ^ 32 + glpB]
     let s := on [domFC] State.reset
     paramBits ps 0 47 32 = 2 ∧ regRun ps 2 = [glpB, glpB + 4] ∧ (∀ a ∈ [glpB, glpB + 4], s.regIn hPkg.target.toNat a = true ∧
       (locate a).any (fun e => e.1 == .glp) = true) ∧ State.reset.regIn hPkg.target.toNat glpB = false) ∧
    ((teamAt 0 none).team? 9 = some (theTeam none) ∧ (teamAt 0 none).team? 8 = none) ∧
    (base0.onDie hDie 0 = true ∧ (∀ set ∈ [0, 1, 3, 5, 6], dieCounters set 0 ≠ []) ∧
      paramBits (words [7]) 0 3 0 = 7 ∧ paramBits (words [0x106]) 0 3 0 = 6 ∧ paramBits (words [0x106]) 0 8 8 = 1) ∧
    (let ps := words [64 * 2 ^ 32]
     let s := journal
     let r := BitVec.ofNat 64 (s.jrn.oldest + s.jrn.next * 2 ^ 32) ::
       entryParams ((s.jrn.entries.filter fun e => decide (0 ≤ e.seq)).take 64) ++ pairWords (s.jrn.jobRecords.flatMap jobWords)
     paramBits ps 0 47 32 = 64 ∧ s.runsHere hPkg 0x0702 = true ∧ s.spills hPkg.chan r = true ∧
       (s.writeGlobal .pkc 0 (s.reg64 (chB hPkg.chan + CH_SPILL_LO.off)) (word64Bytes r) false).2.status = stOK) ∧
    (State.reset.pufFail = false ∧ ((on [domFC] State.reset).setFld secB SEC_STATUS.PUF 2).pufFail = true) := by decide +kernel

/-- Parameters of KEY_WRITE: slot 1, role 4, a type, GENERATE or not. -/
def keyParams (ty gen : Nat) : List Word64 := words ([1 + ty * 16 + 4 * 256 + gen * 2 ^ 11, 0x41] ++ (List.replicate 14 (0 : Nat)))

/-- The header of a claimed channel: role 4 on channel 0x10. -/
def hOwner : CmdHdr := { h10 with role := 4 }

/-- Slot 0 verifies with a key, and a session of it is open on channel 0x10. -/
def slotted : State :=
  let s := opened []
  { s with sec := { s.sec with
      slots := [(0, { ty := slotVERIFY, maxRole := 4, channels := 0x7F, tx := false, key := [], secret := [] })] } }

def noPuf : State := slotted.setFld secB SEC_STATUS.PUF 2
def gmFree (en : Nat) : State := (State.reset.setFld tbB TB_CTRL.GM 1).setFld tbB TB_CTRL.PPS_EN en

theorem witness_SettersChangeTheirOwnPart :
    (setterOps.all fun op => slotted.runsHere hOwner op && noPuf.runsHere hOwner op && (gmFree 0).runsHere hOwner op) = true ∧
    (slotted.chan hOwner.chan).session = some (aSession false) ∧ keysRise 0 slotted.chans = true ∧
    (keyFieldsOk (keyParams slotVERIFY 0) && keyFieldsOk (keyParams slotMAC 0) && keyFieldsOk (keyParams slotSIGN 1) &&
      !keyFieldsOk (keyParams 0 0)) = true ∧
    hOwner.role ≠ 0 ∧ h10.role = 0 ∧ slotted.macPath hOwner = true ∧ slotted.macPath hPkg = false ∧ slotted.pufFail = false ∧
    noPuf.pufFail = true ∧
    (let ps := words [0x10 + 2 ^ 16, 0x20000]
     chanExists (paramBits ps 0 8 0) = true ∧ paramBits ps 0 21 16 = 1 ∧ (ps.drop 1).length = 1 ∧
       ((ps.drop 1).all fun e => decide (bitsOf e.toNat 63 62 ≤ 1)) = true) ∧
    (let ps := words [2 ^ 24, 2 ^ 25]
     paramBits ps 0 63 0 % 2 ^ 24 = 0 ∧ paramBits ps 1 63 0 % 2 ^ 24 = 0 ∧ paramBits ps 1 63 0 < 2 ^ 45 ∧
       paramBits ps 0 63 0 ≤ paramBits ps 1 63 0 ∧ ¬ paramBits (words [1, 0]) 0 63 0 % 2 ^ 24 = 0) ∧
    (let ps := words [State.reset.dieUnit 3 + 0x10 * 2 ^ 48]
     let unit := paramBits ps 0 31 0
     slotted.unitOk unit = true ∧ unitLevel unit = 1 ∧ unitDie unit ≤ 13 ∧ unitPlace unit = slotted.place ∧
       chanExists (paramBits ps 0 56 48) = true ∧ paramBits ps 0 57 57 = 0) ∧
    (paramBits (words [524287, 5]) 0 18 0 + [5].length ≤ 524288 ∧ 524288 < paramBits (words [524287, 5, 5]) 0 18 0 + [5, 5].length) ∧
    (slotted.tb.locked = false ∧ slotted.tbGM = false ∧ (∀ en ∈ [0, 1], (gmFree en).tbGM = true ∧ (gmFree en).tbState = tbFREE ∧
       (gmFree en).tb.locked = false ∧ (gmFree en).flag tbB TB_CTRL.PPS_EN = decide (en = 1)) ∧
      ((gmFree 0).setFld tbB TB_STATUS.STATE tbLOCKED).tbState ≠ tbFREE) ∧
    (∀ e ∈ [(0x7F, 0), (domC 3, 3)], domainExists e.1 = false ∨ e.2 = 3) ∧
    (let s := on [domFC] slotted
     (∀ n ∈ [domM 3, domS 3], domainExists n = true ∧ n ≠ domAON ∧ n ≠ domHost ∧ n ≠ domFC ∧ s.keptOff n = false ∧
       mapGet? s.pwr.changing n = none ∧ s.domState n = 2) ∧
     s.domAllowed (domS 3) 0 = false ∧ s.domAllowed (domS 3) 2 = true ∧ s.domAllowed (domM 3) 0 = true) ∧
    (slotted.tripHolds = false ∧ (∀ k ∈ List.range 12, slotted.memOpen k = false ∧ slotted.scrOpen k = false) ∧
      cutOpen.memOpen 0 = true ∧ paramBits (words [0xD02]) 0 1 0 = 2 ∧ paramBits (words [0xD02]) 0 11 8 = 13) := by decide +kernel

/-- Job 9 holds slots 0 to 99 of die 0, where TASK_SET gives task 3 of job 7 slots 50 to 149. -/
def claimed : State := ((base0.setFld (scrB 0) SCR_TASK.BOUND 100).setFld (tskB 0 0) TSK_JOB.JOB 9)
def taskParams : List Word64 := words [0x80000000 + 3 * 2 ^ 32, 7 + 100 * 2 ^ 32 + 50 * 2 ^ 48]

theorem witness_DieCommandsActOnTheirDies :
    (∀ st ∈ [dsSTOPPED, dsRUNNING], ([0x0101, 0x0102, 0x0103, 0x0106, 0x0206].all fun op => (ready st).runsHere hDie op) = true ∧
      (ready st).onDie hDie 0 = true ∧ (ready st).dieState 0 = st ∧ (ready st).dieLoading 0 = false ∧
      (ready st).domOn (domC 0) = true ∧ ((ready st).die 0).hold = none ∧ ((ready st).die 0).clear = none ∧
      (ready st).tiles = [] ∧ (ready st).dieRuns 0 = decide (st = dsRUNNING) ∧ (ready st).foreignSlots 0 true 0 50 100 = []) ∧
    ((List.range 16).find? (((ready dsSTOPPED).setReg64 (dsqB 0 + DSQ_START_GRAIN_LO.off) 0).runnable 0) = some 0 ∧
      (List.range 16).find? ((base0.setReg64 (dsqB 0 + DSQ_START_GRAIN_LO.off) 0).runnable 0) = none ∧
      base0.dieState 0 = dsSTOPPED ∧ base0.dieLoading 0 = false ∧ base0.onDie hDie 0 = true) ∧
    (base0.runsHere hPkg 0x0102 = true ∧ base0.dieOn 11 = false ∧
      let s := on (List.range 12) base0
      unitLevel hPkg.target.toNat = 2 ∧ s.runsHere hPkg 0x0120 = true ∧
      ∀ k ∈ List.range 12, s.excluded hPkg k = false ∧ s.dieOn k = true ∧ s.dieRuns k = false) ∧
    (claimed.foreignSlots 0 true 7 50 100 = [⟨50, 50, 0, 0, [], .none⟩] ∧ claimed.foreignSlots 0 true 9 50 100 = []) ∧
    (claimed.clearRefused 0 ⟨50, 50, 0, 0, [], .none⟩ = false ∧ (claimed.die 0).clear = none ∧ claimed.onDie hDie 0 = true ∧
      paramBits taskParams 0 31 31 = 1 ∧ paramBits taskParams 1 31 0 = 7 ∧ paramBits taskParams 1 60 48 = 50 ∧
      paramBits taskParams 1 44 32 = 100) ∧
    ((clearing 0).die 0).clear.isSome = true := by decide +kernel

/-- Parameters of an access at 0x100 of stack 0. -/
def accParams (n : Nat) (more : List Nat) : List Word64 := words ((0x100 + n * 2 ^ 48) :: more)

/-- The read of 8 bytes of a command in front of pseudo-channel 1. -/
def readReq : Req := access 0x100 (.read 8) (.pkc hPkg 0x0201)
def reading : State :=
  { queued 1 readReq base0 with pkc := { State.reset.pkc with forwards := [
    { hdr := hPkg, opcode := 0x0201, waiting := [reqPart 1], statuses := [], data := [], completion := 0, sentAt := 0,
      late := false, mute := false, sel := 0 }] } }

theorem witness_MemoryCommandsReachMemory :
    ([0x0201, 0x0202, 0x0203, 0x0204].all fun op => base0.runsHere hPkg op) = true ∧
    (paramBits (accParams 8 []) 0 44 0 = 0x100 ∧ 
      (∀ w ∈ [false, true], ∀ g ∈ [none, some (base0.grantOf 0)], base0.lets g (some 0) (secureChan 0) 0x100 8 w = true) ∧
      base0.fabric.held = [] ∧
      paramBits (accParams 8 []) 0 63 48 = 8 ∧ paramBits (accParams 7 []) 0 63 48 = 7 ∧
      (word64Bytes ((accParams 0 [5]).drop 1)).length = 8 ∧ paramBits (accParams 0 [8, 3]) 1 63 0 = 8 ∧
      2 ^ 45 < 0x100 + paramBits (accParams 0 [2 ^ 45, 3]) 1 63 0) ∧
    (let s := reading
     mapGet [] (s.stack 0).queues 1 = readReq :: [] ∧ readReq.land = .pkc hPkg 0x0201 ∧
       homeOf readReq.addr = .stack 0 (readReq.addr % 0x2000000000) ∧ s.stackCalm 0 = true ∧ (s.stack 0).answers = [] ∧ s.poisoned readReq.addr 8 = false ∧
       (s.cmdRec hPkg 0x0201).any (fun x => decide (x.waiting = [reqPart readReq.id])) = true) ∧
    (base0.domOn (domK00 12) = false ∧ (on [domK 0] base0).domOn (domK00 12) = true ∧
      (on [domK 0] base0).runsHere hPkg 0x0204 = true ∧ ((on [domK 0] base0).copy 12).queue.length < 256 ∧
      256 ≤ (((on [domK 0] base0).modCopy 12 fun x => { x with queue := List.replicate 256 theSubmit }).copy 12).queue.length) := by
  decide +kernel

/-- Parameters of TEAM_CREATE: team 9, from the list of 3 at 0x1000 or from the own package. -/
def teamParams (unit : Bool) : List Word64 :=
  words [9 + 3 * 2 ^ 32, 500 + bit1 unit * 2 ^ 63, if unit then State.reset.pkgUnit else 0x1000]
/-- No team, the list of the members at 0x1000, members of the own package and of others. -/
def teamless : State := { teamAt 0 none with coll := CollX.init, mem := writeBytes [] 0x1000 (toBytes 0x000000030000000200000001 12) }

theorem witness_TeamsAreMadeAndReset :
    ([0x0301, 0x0302, 0x0303].all fun op => teamless.runsHere hPkg op && (teamAt 0 none).runsHere hPkg op) = true ∧
    (let ms := teamless.unitMembers 0 hPkg.target.toNat
     bitOf (nthD (0 : Word64) (teamParams true) 1).toNat 63 = true ∧ teamless.unitOk hPkg.target.toNat = true ∧ ms = [1] ∧
       teamless.teamCheck 9 ms = stOK ∧ (teamAt 0 none).teamCheck 9 ms = stBUSY ∧
       (ms.map fun m => (teamless.resolveMember m.toNat).getD (0, 0)) = [(0, 0)] ∧ teamless.place = 0 ∧
       teamless.unitOk (unitAddr 0x7FFF 2 0 0) = false) ∧
    (let s := (teamless.setFld glpB GLP_PLACE.PLACE 1).setFld glpB GLP_SHAPE.NODES_M1 1
     let ms := s.unitMembers 0 (unitAddr 8 2 0 0)
     s.unitOk (unitAddr 8 2 0 0) = true ∧ s.teamCheck 9 ms = stOK ∧ (ms.map fun m => (s.resolveMember m.toNat).getD (0, 0)) = [(8, 0)] ∧
       s.place = 1) ∧
    (let y := (teamless.beginCmd hPkg 0x0301 false).readFor hPkg 0x1000 12
     bitOf (nthD (0 : Word64) (teamParams false) 1).toNat 63 = false ∧ y.2.status = stOK ∧
       y.1.teamCheck 9 ((leWords 4 (fitBytes 12 y.2.data)).map (BitVec.ofNat 32)) = stOK ∧
       ((State.reset.beginCmd hPkg 0x0301 false).readFor hPkg 0x1000 12).2.status ≠ stOK ∧
       (let z := ((teamAt 0 none).beginCmd hPkg 0x0301 false).readFor hPkg 0x1000 12
        z.2.status = stOK ∧ z.1.teamCheck 9 ((leWords 4 (fitBytes 12 z.2.data)).map (BitVec.ofNat 32)) ≠ stOK) ∧
       ((teamless.beginCmd hPkg 0x0301 false).hostPlaces [1, 2, 3]).any (fun p => p != teamless.place) = true ∧
       ((teamless.beginCmd hPkg 0x0301 false).hostPlaces [1]).any (fun p => p != teamless.place) = false ∧
       (let o := (teamless.beginCmd hPkg 0x0301 false).readFor hPkg 0x1000 4
        o.2.status = stOK ∧ (leWords 4 (fitBytes 4 o.2.data)).map (BitVec.ofNat 32) = [1] ∧ o.1.teamCheck 9 [1] = stOK)) ∧
    (let s := (teamless.setFld glpB GLP_PLACE.PLACE 1).setFld tbB TB_STATUS.STATE 2
     let v := { s with sec := locked.sec }
     v.mgmtStatus = stOK ∧ v.fabric.unreachable = []) ∧
    (let own := { theTeam none with members := [1], homes := [(0, 0)] }
     let s := teamless.setTeam 9 own
     let v := { (teamAt 0 none).setFld tbB TB_STATUS.STATE 2 with sec := locked.sec }
     s.team? 9 = some own ∧ (own.homes.all fun e => e.1 == s.place) = true ∧ s.teamBusy 9 = false ∧
       (({ s with coll := { s.coll with calls := [theCall scalar 1 0 none] } }) : State).teamBusy 9 = true ∧
       v.mgmtStatus = stOK ∧ v.fabric.unreachable = [] ∧ v.team? 9 = some (theTeam none) ∧
       ((theTeam none).homes.any fun e => e.1 != v.place) = true) ∧
    (teamless.team? 9 = none ∧ (teamAt 0 none).team? 9 = some (theTeam none) ∧ (teamAt 0 none).teamBusy 9 = false ∧
      (inRound 0 none (theCall scalar 1 0 none) 0 id).teamBusy 9 = true) := by decide +kernel

/-- Configuration: every 0, 4 strata a column, lead 2, team `t`, store table at 0x3000 of stack 0. -/
def aConfig (t : Nat) : List Word := ([0x0402, t, 0x3000, 0] : List Nat).map (BitVec.ofNat 32) ++ List.replicate 12 0

/-- Job 7 in the package of member 1 of team 9. -/
def strata (f : StrJob → StrJob) : State :=
  { teamAt 0 none with strata := [(7, f { StrJob.init with config := aConfig 9 })] }

/-- The record for team `t` lies at 0x2000. -/
def recorded (t : Nat) : State := { teamAt 0 none with mem := writeBytes [] 0x2000 (wordBytes (aConfig t)) }

/-- A B32 piece of tensor 5 with `n` elements at 0x10000 of stack 0, replica 1 of 2 of shard 0. -/
def aPiece (n : Nat) : List Word :=
  ([5, 0x11000000, 0x10000, 0, 0, 0, 0, 0, 0, 0, n, 1, 1, 1, 1, 1, 9, 0x10002, 64, 1, 1, 1, 1, 1, 0, 0, 0, 0, 0, 0, 0, 0] : List Nat).map
    (BitVec.ofNat 32)

/-- The stratum of step 5 is open. -/
def anOpen (phase : StrPhase) (f : StrOpen → StrOpen) : State :=
  strata fun x => { x with
    pieces := [aPiece 64]
    current := some (f { step := 5, column := 1, stratum := 1, bedrock := false, cmd := none, phase := phase, dies := [0], cutDies := [0],
                         cutGrain := 0, refused := false, leaves := [], list := none, diverged := [], writes := 0, writeStatus := stOK,
                         results := [] }) }

/-- Two digest jobs of its piece wait. -/
def digesting : State :=
  { anOpen .digesting id with digests := List.replicate 2 ⟨0, [1], true, 7, 0, [(0, 256)]⟩ }

/-- The STRATUM_ARM of channel 0x10 waits for it at grain `t`. -/
def armed (phase : StrPhase) (t : Nat) (rs : List CtlResult) : State :=
  let s := anOpen phase fun o => { o with cmd := some h10, results := rs }
  { s with
    tb := { s.tb with now := t }
    pkc := { s.pkc with forwards := [{ hdr := h10, opcode := 0x0403, waiting := [0], statuses := [], data := [], completion := 0,
                                       sentAt := 0, late := false, mute := false, sel := 0 }] } }

/-- To the own package from another. -/
def hMember : CmdHdr := { hPkg with member := true }

/-- The entry of the piece, and whether the registers can hold the ranges that it gives. -/
def entriesOf (n : Nat) : List (List Word) := chunksOf 32 17 (splitWords (pairWords (aPiece n)))
def rangesFit (s : State) : Bool :=
  let all := s.allPieces 7 (registerPieces (s.strJob 7).pieces (entriesOf 64))
  (List.range 12).all fun d => decide ((captureRanges all d false).length ≤ 32) && decide ((captureRanges all d true).length ≤ 32) &&
    (captureRanges all d false).all fun r => decide (r.2 < 2 ^ 21)

def readConfig (s : State) : State × Reply := (s.beginCmd hPkg 0x0401 false).readFor hPkg 0x2000 64
def configOf (s : State) : StrJob :=
  { (readConfig s).1.strJob 7 with config := (leWords 4 (fitBytes 64 (readConfig s).2.data)).map (BitVec.ofNat 32) }

theorem witness_StrataFollowTheirCommands :
    (([0x0401, 0x0402, 0x0403, 0x0404, 0x0405, 0x0410].all fun op =>
      (strata id).runsHere hPkg op && (anOpen .armed id).runsHere hPkg op && State.reset.runsHere hPkg op) = true ∧
      hPkg.job = 7 ∧ hMember.member = true ∧ hPkg.member = false) ∧
    ((readConfig State.reset).2.status ≠ stOK ∧
     ((readConfig (recorded 8)).2.status = stOK ∧ (readConfig (recorded 8)).1.strRank (configOf (recorded 8)) = none) ∧
     (let s := recorded 9
      let own := (readConfig s).1.readFor hPkg ((configOf s).cfg64 2 + 16 * 0) 16
      s.runsHere hPkg 0x0401 = true ∧ (readConfig s).2.status = stOK ∧ (readConfig s).1.strRank (configOf s) = some 0 ∧ (configOf s).perColumn ≠ 0 ∧
        (configOf s).perColumn ≤ 31 ∧ (configOf s).lead ≠ 0 ∧ own.2.status = stOK ∧ (own.1.readFor hPkg ((configOf s).cfg64 2) 16).2.status = stOK)) ∧
    ((∀ n ∈ [0, 64], (pairWords (aPiece n)).length = 16 ∧ (entriesOf n).all pieceOk = decide (n = 64)) ∧
      rangesFit cutOpen = true ∧ rangesFit (strata id) = true ∧
      cutOpen.memCaps 0 ≠ captureRanges (cutOpen.allPieces 7 (registerPieces (cutOpen.strJob 7).pieces (entriesOf 64))) 0 false ∧
      cutOpen.memOpen 0 = true ∧ cutOpen.runsHere hPkg 0x0402 = true ∧
      ((strata id).strata.all fun e => e.2.pieces.all pieceOk) = true ∧
      ((List.range 12).all fun d => !(strata id).memOpen d && !(strata id).scrOpen d) = true) ∧
    (let s := strata id
     let x := s.strJob 7
     paramBits (words [5]) 0 62 0 = 5 ∧ x.config ≠ [] ∧ s.strRoot x = true ∧ x.current = none ∧ s.strDies x = [0] ∧
       s.strStep 0 = 0 ∧ (State.reset.strJob 7).config = [] ∧ ((anOpen .armed id).strJob 7).current.isSome = true ∧
       (let far := strata fun x => { x with config := aConfig 8 }
        (far.strJob 7).config ≠ [] ∧ far.strRoot (far.strJob 7) = false)) ∧
    ([strata fun x => { x with timerAt := some 0 },
      { anOpen .armed id with strata := (anOpen .armed id).strata.map fun e => (e.1, { e.2 with timerAt := some 0 }) }].all fun s =>
        (s.strJob 7).timerAt == some 0 && s.strRoot (s.strJob 7)) = true ∧
    ((strata fun x => { x with timerAt := some 0 }).strStep 0 < (strata id).strStep 0 + ((strata id).strJob 7).lead) ∧
    (let s := anOpen .armed id
     (s.strJob 7).current.any (fun o => o.phase == .armed && !o.refused && o.writeStatus == stOK && o.dies.all o.cutDies.contains) =
       true ∧ (s.strJob 7).pieces.any (fun e => (pieceHome e).isSome) = true) ∧
    (let s := digesting
     s.nextDigest 0 = some ⟨0, [1], true, 7, 0, [(0, 256)]⟩ ∧ (s.strJob 7).pieces[0]? = some (aPiece 64) ∧
       pieceHome (aPiece 64) = some (0, false, 0x10000) ∧ pieceWrites (aPiece 64) = false ∧
       (s.strJob 7).current.any (fun o => o.phase == .digesting && !o.refused && o.writeStatus == stOK) = true ∧
       ((dropFirst (· == ⟨0, [1], true, 7, 0, [(0, 256)]⟩) s.digests).any fun q => q.job == 7) = true) ∧
    ([(StrPhase.record, 0), (.voting, 0), (.voting, 2 ^ 32 + 1)].all fun e =>
      let s := armed e.1 e.2 [⟨2, 5, 0, stOK, 1, []⟩, ⟨1, 0, 0, stOK, 0, []⟩]
      s.strRoot (s.strJob 7) && !h10.member && (s.cmdRec h10 0x0403).any (fun r => !r.mute && !r.late) &&
        (s.strJob 7).current.any fun o => o.cmd == some h10 && o.phase == e.1 && o.writes == 0 && !o.refused && o.writeStatus == stOK &&
          !o.bedrock && !o.cutDies.isEmpty && decide (o.cutGrain + 2 ^ 32 < s.now) == decide (e.2 ≠ 0) &&
          (o.results.find? fun r => r.op == 2) == some ⟨2, 5, 0, stOK, 1, []⟩ &&
          (o.results.find? fun r => r.op == 1) == some ⟨1, 0, 0, stOK, 0, []⟩) = true ∧
    ((anOpen .armed id).strJob 7).current.any (fun o => o.cmd == none) = true := by decide +kernel

/-- A manifest without tensors at 0x20000, and its commit record: column 1, bedrock, step 5. -/
def aManifest : List Byte :=
  wordBytes (([0x4D414E46, 0x10000, 1, 0, 0, 0, 5, 0, 0, 0, 0, 0, 0, 0, 0, 0] : List Nat).map (BitVec.ofNat 32))
def aRecord : List Byte :=
  wordBytes (([0x434F4D54, 0x10000, 1, 0, 0, 0, 5, 0, 0, 0, 0x20000, 0, 64, 0, 0, 0] : List Nat).map (BitVec.ofNat 32)) ++
    toBytes 10870614111229385846217169372387595249541814102976364888278233629544945902644 32 ++ List.replicate 152 0 ++
    toBytes 7141070018576409610 8

/-- A store at 0x8000 with the record, and at 0x30000 a descriptor of one new piece of tensor 5. -/
def stored : State :=
  let mem := [(0x8000, aRecord), (0x20000, aManifest), (0x30000, [1]), (0x30018, [5])].foldl (fun m e => writeBytes m e.1 e.2) []
  { teamAt 0 none with mem := mem }

/-- What the restore has found after it has read, and after it has tried the candidates. -/
def found (s : State) (ps : List Word64) : Option (Option (List Nat × List Nat)) :=
  let z := ((s.beginCmd hPkg 0x0410 false).noteFailure 7).restoreHead hPkg ps
  z.2.2.map fun news =>
    (State.tryCandidates hPkg z.2.1 z.1 [] (z.2.1.foldr insertNewest [])).2.2.map fun c =>
      (c.2.1.map fun r => r.step, missingTensors c.2.2 news)

/-- RESTORE finds no descriptor, a descriptor and no record, or a stratum that verifies and misses tensor 5. -/
theorem witness_StrataFollowTheirCommands_restore :
    State.reset.runsHere hPkg 0x0410 = true ∧ found State.reset (words [0x8000, 0x30000]) = none ∧
    found (teamAt 0 none) (words [0x8000, 0x30000]) = some none ∧
    found stored (words [0x8000, 0x30000]) = some (some ([5], [5])) ∧ paramBits (words [0x8000, 0x30000]) 1 0 0 = 0 := by
  decide +kernel

/-- FC is ON and domain `n` changes to `t`. -/
def changing (n t : Nat) (cmd : Option CmdHdr) : State :=
  let s := on [domFC] State.reset
  { s with pwr := { s.pwr with changing := [(n, (t, cmd))] } }

/-- FC is ON, the place is valid, group 3 may wake the package or not. -/
def asleep (wake : Nat) : State :=
  ((on [domFC] State.reset).setFld glpB GLP_PLACE.VALID 1).setFld pwrB PWR_WAKE_EN.GROUPS wake

def withPwr (f : PwrX → PwrX) (s : State) : State := { s with pwr := f s.pwr }

/-- A slump of the given cause, its record sealed or not. -/
def slumping (cause : Nat) (saved : Bool) : State := withPwr (fun p => { p with slump := some (cause, 0), saved := saved }) State.reset

def enrolled (e : Option Nat) : State := { State.reset with sec := { State.reset.sec with enrolled := e } }

/-- A reset of type `ty` of die `d` is due; the image runs. -/
def resetting (ty d : Nat) (s : State) : State := { s with pkc := { s.pkc with resets := [(ty, d, 0)] } }
def firmware : State :=
  let s := resetting 1 0 State.reset
  { s with sec := { s.sec with fwRunning := true, fwDigest := shake256 s.fwImage 32 } }

theorem witness_PowerAndResetsFollowTheirCommands :
    (∀ e ∈ [(domS 3, 2), (domM 3, 2), (domK 5, 1), (domG 2, 4)],
      domainExists e.1 = true ∧ mapGet? (changing e.1 e.2 none).pwr.changing e.1 = some (e.2, none) ∧
        (changing e.1 e.2 none).domOn domFC = true) ∧
    mapGet? (changing (domC 3) 0 (some hPkg)).pwr.changing (domC 3) = some (0, some hPkg) ∧
    (∀ w ∈ [0, 8], ((asleep w).pwr.slump.isNone && !(asleep w).pwr.tripped && !(asleep w).jtag.heldReset) = true ∧
      (asleep w).domOn (domG 3) = false ∧ (asleep w).keptOff (domG 3) = false ∧ (asleep w).domState domFC = 0 ∧
      bitOf ((asleep w).fld pwrB PWR_WAKE_EN.GROUPS) 3 = decide (w = 8) ∧ (asleep w).domState (domG 3) ≠ 0 ∧
      mapGet? (asleep w).pwr.changing (domG 3) = none) ∧
    (let s := State.reset.setFld (pwrB + PWR_DOM.stride * domFC) PWR_DOM.STATE 1
     s.domState domFC = 1 ∧ mapGet? s.pwr.changing domFC = none) ∧
    (State.reset.pwr.capNoted = false ∧ State.reset.pwr.aboveCap < 1000 ∧
      1000 ≤ (withPwr (fun p => { p with aboveCap := 1000 }) State.reset).pwr.aboveCap ∧
      (withPwr (fun p => { p with capNoted := true }) State.reset).pwr.capNoted = true) ∧
    (State.reset.pwr.slump = none ∧ State.reset.pwr.tripped = false ∧ State.reset.tooHot = false ∧
      (withPwr (fun p => { p with stackTemp := [(0, 95)] }) State.reset).tooHot = true) ∧
    ((slumping 0 false).pwr.slump = some (0, 0) ∧ (slumping 2 true).pwr.slump = some (2, 0) ∧ (slumping 2 true).pwr.saved = true ∧
      (slumping 0 false).pwr.saved = false) ∧
    ((enrolled (some 4)).sec.enrolled = some 4 ∧ (enrolled none).sec.enrolled = none) ∧
    (State.reset.sec.fwRunning = false ∧ firmware.sec.fwRunning = true) ∧
    (State.reset.fld fwB FW_STATUS.CODE ≠ 1 ∧ (State.reset.setFld fwB FW_STATUS.CODE 1).fld fwB FW_STATUS.CODE = 1 ∧
      fwCheck (State.reset.setFld fwB FW_STATUS.CODE 1).fwImage 0 ≠ 2) ∧
    (∀ s ∈ [firmware, resetting 1 0 (following tbLOCKED 0 [])], s.resetDue 1 0 = true ∧ s.jtag.heldReset = false) ∧
    (following tbLOCKED 0 []).tbState = tbLOCKED ∧ (following tbLOCKED 0 []).tbGM = false ∧
    (let s := resetting 2 0 (ready dsRUNNING)
     s.resetDue 2 0 = true ∧ (s.stack 0).queues = [] ∧ (s.stack 0).answers = [] ∧ (s.die 0).clear = none ∧ (s.die 0).atCut = [] ∧
       ((List.range 4).all fun i => ((s.die 0).slot i).load.isNone) = true ∧ (s.copy 0).queue = [] ∧ (s.copy 0).running = [] ∧
       (s.die 0).hold = none) ∧
    (∀ d ∈ [12, 13], (resetting 2 d base0).resetDue 2 d = true ∧
      ((List.range' (12 + (d - 12) * 4) 4).all fun e => ((resetting 2 d base0).copy e).queue.isEmpty &&
        ((resetting 2 d base0).copy e).running.isEmpty) = true) := by
  refine ⟨?_, ?_, ?_, ?_, ?_, ?_, ?_, ?_, ?_, ?_, ?_, ?_, ?_, ?_, ?_⟩ <;> decide +kernel

/-- The image that runs is the one that was verified. -/
theorem witness_PowerAndResetsFollowTheirCommands_warm : shake256 firmware.fwImage 32 = firmware.sec.fwDigest := by
  simp only [firmware, State.fwImage]

/-- The neutral point as a key, encoded; the signature of every message under it is itself and 0. -/
def neutral : List Byte := 1 :: List.replicate 56 0

/-- A firmware image of 256 bytes, SVN 5 and raising the minimum, signed under that key. -/
def anImage : List Byte :=
  wordBytes (([0x4657494D, 0x10040, 256, 0x50001, 0, 0, 0xA1, 0] : List Nat).map (BitVec.ofNat 32)) ++ neutral ++ List.replicate 3 0 ++
    neutral ++ List.replicate 107 0

/-- It lies in the store, and GO has been written. -/
def going : State := { (State.reset.setFld fwB FW_STATUS.CODE 1) with mem := writeBytes [] storeAddr anImage }

/-- Where the chip's key is that one, the image verifies. -/
theorem witness_PowerAndResetsFollowTheirCommands_verified
    (h : shake256 neutral 32 = (List.range 32).map Config.cleuloKeyDigest) : fwCheck going.fwImage going.sec.minSvn = 2 := by
  have hi : going.fwImage = anImage := by decide +kernel
  have hk : (anImage.drop 32).take 57 = neutral := by decide +kernel
  have hm : going.sec.minSvn = 0 := by decide +kernel
  have hv : edVerify neutral (shake256 (anImage.take 32 ++ anImage.drop 256) 64) ((anImage.drop 92).take 114) = true := by decide +kernel
  have hf : fwFormat anImage = true := by decide +kernel
  have h6 : wordAt anImage 24 % 256 = 0xA1 := by decide +kernel
  simp [fwCheck, hi, hk, hm, hv, hf, h6, h]

/-- The host port is ON, and FW_STATUS shows `code`. -/
def hostOn (code : Nat) : State := (on [domHost, domC 0, domM 0] State.reset).setFld fwB FW_STATUS.CODE code

/-- A held access of function 0 at `off`, with or without a posted write in front of it. -/
def heldHost (off : Nat) (read posted : Bool) : State :=
  let s := hostOn 2
  { s with host := { s.host with
      held := [⟨0, off, read, false, 1⟩], posted := if posted then [⟨0, 1, true, 1, 8, stOK, false, []⟩] else [] } }

/-- A read of 4 bytes waits for device 2 of the far tier. -/
def farWaits : State :=
  let s := on [domCXL] State.reset
  { s with far := { s.far with queues := [(2, [access (farAddr 0) (.read 4) .none])] } }

/-- One entry of grain 1 in the buffer at grain `t`, `ring` in the ring. -/
def journalled (t : Nat) (ring : List JEntry) : State :=
  { State.reset with tb := { State.reset.tb with now := t }, jrn := { State.reset.jrn with buf := [anEntry 0], ring := ring } }

theorem witness_PortsAndJournalFollowTheirEvents :
    (∀ code ∈ [0, 1, 2], (hostOn code).domOn domHost = true ∧ (hostOn code).fld fwB FW_STATUS.CODE = code) ∧
    (let s := hostOn 2
     let a := s.winBase 3 + 0x100
     let v := s.setFld (pwrB + PWR_DOM.stride * domFC) PWR_DOM.STATE 1
     a < 0x18000000000 ∧ a % 256 + 8 ≤ 256 ∧ 0x100 + 8 ≤ s.winSize 3 ∧ s.domState domFC ≠ 1 ∧
       (v.domState domFC = 1 ∧ v.noWake = false ∧ mapGet? v.pwr.changing domFC = none) ∧ s.partLets false a 8 = true ∧
       (∀ w ∈ [true, false], s.rightsLet (some 3) a 8 w = true) ∧ s.fabric.held = [] ∧
       s.winSize 3 < s.winSize 3 + ([5] : List Byte).length) ∧
    (∀ p ∈ [true, false], ∀ r ∈ [true, false], (heldHost (chB 0 + CH_DB_REQ.off) r p).host.held.find? (fun e => e.fn == 0) =
        some ⟨0, chB 0 + CH_DB_REQ.off, r, false, 1⟩ ∧
      ((heldHost (chB 0 + CH_DB_REQ.off) r p).host.posted.any fun q => q.fn == 0 && q.write) = p) ∧
    locate (chB 0 + CH_DB_REQ.off) = some (.ch, 0, CH_DB_REQ.off) ∧
    (farWaits.domOn domCXL = true ∧ (∃ r ∈ mapGet [] farWaits.far.queues 2, r.id = 1) ∧
      ∀ r ∈ mapGet [] farWaits.far.queues 2, r.id ≠ 9) ∧
    ([5].length + (State.reset.chan 0x11).reqQ.length ≤ 8) ∧
    (State.reset.jtag.heldReset = false ∧ (Machine.State.reset.holdReset).jtag.heldReset = true) ∧
    ((journalled 5 []).jrn.buf = [] ++ [anEntry 0] ∧ (journalled 5 []).now ≤ (anEntry 0).grain + 200000 ∧
      (anEntry 0).grain + 200000 < (journalled 200002 []).now ∧ (journalled 200002 []).jrn.ring.length < 32768) := by decide +kernel

/-- The ring is full. -/
theorem witness_PortsAndJournalFollowTheirEvents_full :
    (journalled 200002 (List.replicate 32768 (anEntry 1))).jrn.ring.length = 32768 := by
  simp only [journalled, List.length_replicate]

theorem witness_IdleStepPassesOneGrain :
    State.reset.pending = [] ∧ State.reset.clocksRun = true ∧ (withPwr (fun p => { p with tripped := true }) State.reset).clocksRun = false ∧
    ((List.range 12).all fun d => !State.reset.dieRuns d && (State.reset.die d).clear.isNone &&
      decide ((State.reset.die d).wallTo ≤ (State.reset.die d).wall)) = true := by decide +kernel

/-- A byte of memory is listed, and a command waits. -/
def oneByte : State := { State.reset with mem := writeBytes [] 0x100 [5], pending := [.fwGo] }

theorem witness_StepRunsTheFrontCommand : oneByte.pending = .fwGo :: [] := by decide +kernel

theorem witness_EveryStepKeepsCanonicalForm : oneByte.canon = true ∧ oneByte.mem ≠ [] ∧ ∃ t, step oneByte = .next t :=
  ⟨by decide +kernel, by decide +kernel, _, rfl⟩

theorem witness_RunsGoOnInCanonicalStates : oneByte.canon = true ∧ State.reset.canon = true := by decide +kernel

/-! ### Well-formed and ill-formed commands -/

theorem test_wf_micro : (Instr.tags 0 0 wTags).wf = true ∧ (Instr.mma 0 0 wMma).wf = true ∧ (Instr.nop 0 0 wTags).wf = false ∧
    (Instr.nop 0 0 (wNop ||| (1 <<< 96))).wf = false ∧ (Instr.send 0 0 (wSend ||| (2 <<< 113))).wf = false ∧
    (Instr.idle 0 0 (wIdle ||| 1)).wf = false := by decide +kernel

theorem test_wf_vector : (Instr.add 0 0 (wVop 0x02 0 0)).wf = true ∧ (Instr.add 0 0 (wVop 0x03 0 0)).wf = false ∧
    (Instr.add 0 0 (wVop 0x02 0 0 ||| 0x10000)).wf = false := by decide +kernel

theorem test_wf_core : (Instr.scalarFpOp 0 0xF0000000).wf = true ∧ (Instr.scalarFpOp 0 0xE0000000).wf = false ∧
    (Instr.vadd 0 0xE0000000).wf = true ∧ (Instr.vadd 0 0xE0000001).wf = false ∧ (Instr.grain 0 0xF8000040).wf = true ∧
    (Instr.grain 0 0xF8000041).wf = false ∧ (Instr.coreAtomic 0 0 0 0 256 false 0 false).wf = false := by decide +kernel

theorem test_wf_agents : (Instr.fenceComplete .pkc).wf = true ∧
    (∀ a ∈ [Agent.host 16 false, .core 128, .tile 12 0, .tile 0 768, .dieSeq 12, .solver 8, .copy 20, .remote 32768],
      (Instr.fenceComplete a).wf = false) := by decide +kernel

theorem test_wf_registerWrite : (Instr.registerWrite .pkc 8 true 0).wf = true ∧ (Instr.registerWrite .pkc 4 true 0).wf = false ∧
    (Instr.registerWrite .pkc 2 false 0).wf = false ∧ (Instr.registerWrite .pkc 0x4000000 false 0).wf = false := by decide +kernel

theorem test_wf_window : (Instr.scratchWindowAccess 0 ⟨0x1FE, .read 2, 0, 0⟩).wf = true ∧
    (Instr.scratchWindowAccess 0 ⟨0x1FE, .read 3, 0, 0⟩).wf = false ∧ (Instr.scratchWindowAccess 0 ⟨0, .write [] false false, 0, 0⟩).wf = false ∧
    (Instr.scratchWindowAccess 0 ⟨0x40000000, .atomic, 0, 0⟩).wf = false ∧ (Instr.scratchWindowAccess 0 ⟨0, .atomic, 0, 32768⟩).wf = false := by
  decide +kernel

/-- A packet of no bytes. -/
def noBytes : Packet :=
  { tc := 0, hops := 0, detour := false, member := false, kind := 0, length := 0, dst := 0, src := 0, via := 0, epoch := 0, seq := 0,
    srcDie := 0, srcUnit := 0, job := 0, space := 0, addr := 0, word7 := 0, payload := [], rsv := false }

theorem test_wf_packet : noBytes.wf = true ∧ ([{ noBytes with tc := 8 }, { noBytes with length := 1 }, { noBytes with seq := 65536 },
    { noBytes with addr := 2 ^ 45 }, { noBytes with dst := 32768 }, { noBytes with srcUnit := 1024 }].all fun p =>
      !(Instr.cmdFwd p).wf && !(Instr.packetForward none p false).wf) = true := by decide +kernel

theorem test_wf_commands : (Instr.nopCommand hPkg []).wf = true ∧ (Instr.nopCommand { hPkg with chan := 0x180 } []).wf = false ∧
    (Instr.nopCommand { hPkg with role := 8 } []).wf = false ∧ (Instr.nopCommand { hPkg with entry := 32768 } []).wf = false ∧
    (Instr.commandLaunch 0x180 0).wf = false ∧ (Instr.domainChangeDone 256).wf = false ∧ (Instr.slumpDetect 4).wf = false ∧
    (Instr.laneWake (.lane 9)).wf = false ∧ (Instr.laneWake .host).wf = true := by decide +kernel

theorem test_wf_units : (Instr.sensorSample [⟨.die 0 7, 0, 0⟩, ⟨.stack 11, 0, 0⟩]).wf = true ∧ (Instr.sensorSample [⟨.die 0 8, 0, 0⟩]).wf = false ∧
    (Instr.sensorSample [⟨.stack 12, 0, 0⟩]).wf = false ∧ (Instr.droopDetect 13 16).wf = false ∧
    (Instr.scratchScrub 0 [⟨0, 32, .dataSingle⟩]).wf = false ∧ (Instr.memScrub 0 [⟨0, 32, .sectorOne⟩]).wf = false ∧
    (Instr.portRelease 0 4).wf = false ∧ (Instr.congSample 0 0 0 (List.replicate 37 0)).wf = false ∧
    (Instr.tbSync 0 ⟨0, 16, false, 0⟩ 0).wf = false ∧ (Instr.routeNotice noBytes [32768]).wf = false := by decide +kernel

theorem test_wf_data : (Instr.staticRouteArrival 0 0 0 0 [5]).wf = false ∧ (Instr.scratchArrival 0 0 0 255 [5, 5] false false).wf = false ∧
    (Instr.flitReceive 0 .clean 0 []).wf = false ∧ (Instr.flitReceive 0 .clean 0 (List.replicate 64 0)).wf = true ∧
    (Instr.hostWindowWrite 0 0 [] false false).wf = false ∧ (Instr.hostWindowRead 0 0 4097).wf = false ∧
    (Instr.mctpMessageReceive 128 0 true []).wf = false ∧ (Instr.mctpMessageReceive 0 (2 ^ 32) true []).wf = false ∧
    (Instr.mgmtResp noBytes 65536).wf = false ∧ (Instr.ftBadResponse 0 65536).wf = false := by decide +kernel

theorem test_wf_collectives : (Instr.doneReceive 0 0 0 [] (2 ^ 32)).wf = false ∧
    (Instr.upMessageReceive { (upOf 8 []) with child := 32768 }).wf = false ∧ (Instr.releaseReceive { releaseOf stOK 0 false with status := 65536 }).wf = false ∧
    (Instr.chunkReceive { chunkOf true with sender := 32768 }).wf = false := by decide +kernel

end Sys2Proof.Tests
end

section
/-! PROOFS. Register writes (R4-R10, R497): what one coded write changes, which writes a block takes as coded writes, and what
REGISTER_WRITE does to a register of a block without side effects and to a shadowed register of a die. -/

namespace Sys2Proof.Machine

/-! ### Optional reads of a map -/

theorem mapGet?_mapPut_same {α : Type} (m : FMap α) (k : Nat) (v : α) : mapGet? (mapPut m k v) k = some v := by
  induction m with
  | nil => simp [mapPut, mapGet?]
  | cons e r ih =>
    obtain ⟨i, w⟩ := e
    simp only [mapPut]
    split
    · simp [mapGet?]
    · split
      · simp [mapGet?]
      case isFalse hi => simp [mapGet?, hi, ih]

theorem mapGet?_mapErase_same {α : Type} (m : FMap α) (k : Nat) : mapGet? (mapErase m k) k = none := by
  induction m with
  | nil => rfl
  | cons e r ih =>
    obtain ⟨i, w⟩ := e
    by_cases hi : i = k
    · simpa [mapErase, hi] using ih
    · simpa [mapErase, mapGet?, hi] using ih

/-! ### One write by the access codes -/

/-- The shadow values after a coded write: RWS bits wait while the owner runs, and nothing waits any more where they were
stored at once (R8). -/
def codedShadow (m : FMap Shadow) (a : Nat) (r : RegDesc) (runs : Bool) (v : Word) : FMap Shadow :=
  if r.rws = 0 then m
  else if runs then mapPut m a ⟨BitVec.ofNat 32 r.rws, v &&& BitVec.ofNat 32 r.rws⟩
  else mapErase m a

/-- The state after a coded write (R6). -/
def State.coded (s : State) (a : Nat) (r : RegDesc) (runs : Bool) (v : Word) : State :=
  { s.setReg a (codedValue r runs (s.reg a) v) with shadow := codedShadow s.shadow a r runs v }

theorem State.codedWrite_eq (s : State) (a : Nat) (r : RegDesc) (runs : Bool) (v : Word) :
    s.codedWrite a r runs v = (s.coded a r runs v, runs && r.rwl != 0) := by
  by_cases h : r.rws = 0
  · simp only [State.codedWrite, State.coded, codedShadow, codedValue, h, if_true]
    rfl
  · cases runs <;> simp [State.codedWrite, State.coded, codedShadow, codedValue, h]

section
variable (s : State) (a : Nat) (r : RegDesc) (runs : Bool) (v : Word)

@[simp] theorem State.coded_mem : (s.coded a r runs v).mem = s.mem := rfl
@[simp] theorem State.coded_tags : (s.coded a r runs v).tags = s.tags := rfl
@[simp] theorem State.coded_dies : (s.coded a r runs v).dies = s.dies := rfl
@[simp] theorem State.coded_stackMap : (s.coded a r runs v).stackMap = s.stackMap := rfl
@[simp] theorem State.coded_tiles : (s.coded a r runs v).tiles = s.tiles := rfl
@[simp] theorem State.coded_cores : (s.coded a r runs v).cores = s.cores := rfl
@[simp] theorem State.coded_chans : (s.coded a r runs v).chans = s.chans := rfl
@[simp] theorem State.coded_shadow : (s.coded a r runs v).shadow = codedShadow s.shadow a r runs v := rfl

@[simp] theorem State.reg_coded_same : (s.coded a r runs v).reg a = codedValue r runs (s.reg a) v :=
  State.reg_setReg_same _ _ _

theorem State.reg_coded_other {x : Nat} (h : x ≠ a) : (s.coded a r runs v).reg x = s.reg x :=
  State.reg_setReg_other _ _ h.symm

end

/-! ### Where a register stands -/

theorem descOf_eq_some {a : Nat} {b : Blk} {u o : Nat} {r : RegDesc} {i : Nat} :
    descOf a = some (b, u, o, r, i) ↔ locate a = some (b, u, o) ∧ findDesc o (blkRows b u) = some (r, i) := by
  unfold descOf
  constructor
  · intro h
    split at h
    · cases h
    · next hl =>
      split at h
      · cases h
      · next hf =>
        cases h
        exact ⟨hl, hf⟩
  · rintro ⟨hl, hf⟩
    simp [hl, hf]

/-- One branch of a chain of conditions that answer a place: what holds of each answer holds of the chain's. -/
theorem ite_some_cases {α : Type} {p : Prop} [Decidable p] {q : α → Prop} {x y : α} {rest : Option α}
    (h : (if p then some x else rest) = some y) (hx : q x) (hrest : rest = some y → q y) : q y := by
  by_cases hp : p
  · rw [if_pos hp] at h
    cases h
    exact hx
  · rw [if_neg hp] at h
    exact hrest h

/-- A block of a compute die other than its sequencer, scratch and tiles, or a block of another die. -/
def offTiles (l : Blk × Nat × Nat) : Prop := l.1 ≠ .dsq ∧ l.1 ≠ .scr ∧ l.1 ≠ .tve

/-- The blocks of a compute die's sequencer, scratch and tiles lie in the first twelve ranges of the map (R515). -/
theorem locate_above_compute {a : Nat} {b : Blk} {u o : Nat} (hk : ¬a / 0x1000000 < 12) (h : locate a = some (b, u, o)) :
    offTiles (b, u, o) := by
  simp only [locate] at h
  rw [if_neg hk] at h
  generalize a / 0x1000000 = k, a % 0x1000000 = m at h
  by_cases hproc : k = 12 ∨ k = 13
  · rw [if_pos hproc] at h
    iterate 4 refine ite_some_cases h (by simp [offTiles]) fun h => ?_
    cases h
  rw [if_neg hproc] at h
  by_cases hfabric : k = 14
  · rw [if_pos hfabric] at h
    iterate 12 refine ite_some_cases h (by simp [offTiles]) fun h => ?_
    cases h
  rw [if_neg hfabric] at h
  refine ite_some_cases h (by simp [offTiles]) fun h => ?_
  cases h

theorem locate_dsq {a u o : Nat} (h : locate a = some (.dsq, u, o)) : u < 12 ∧ o < 0x1000 ∧ a = dsqB u + o := by
  have hk : a / 0x1000000 < 12 := Decidable.byContradiction fun hk => (locate_above_compute hk h).1 rfl
  simp only [locate] at h
  rw [if_pos hk] at h
  repeat' split at h
  all_goals cases h
  unfold dsqB
  omega

theorem locate_scr {a u o : Nat} (h : locate a = some (.scr, u, o)) : a = scrB u + o := by
  have hk : a / 0x1000000 < 12 := Decidable.byContradiction fun hk => (locate_above_compute hk h).2.1 rfl
  simp only [locate] at h
  rw [if_pos hk] at h
  repeat' split at h
  all_goals cases h
  unfold scrB
  omega

theorem locate_tve_inside {a u o : Nat} (h : locate a = some (.tve, u, o)) : 0x100000 ≤ a % 0x1000000 := by
  have hk : a / 0x1000000 < 12 := Decidable.byContradiction fun hk => (locate_above_compute hk h).2.2 rfl
  simp only [locate] at h
  rw [if_pos hk] at h
  repeat' split at h
  all_goals cases h
  omega

/-- A row that a block offset names describes a register at this offset. -/
theorem findRow_some {o : Nat} {rs : List RegDesc} {r : RegDesc} {i : Nat} (h : findRow o rs = some (r, i)) :
    r ∈ rs ∧ i < r.count ∧ o = r.off + r.stride * i := by
  induction rs with
  | nil => cases h
  | cons q rs ih =>
    simp only [findRow] at h
    split at h
    · next hq =>
      cases h
      obtain ⟨hlo, hmod, hcount⟩ := hq
      have hdiv := Nat.div_add_mod (o - r.off) r.stride
      exact ⟨List.mem_cons_self, hcount, by omega⟩
    · obtain ⟨hmem, hi, ho⟩ := ih h
      exact ⟨List.mem_cons_of_mem _ hmem, hi, ho⟩

theorem findDesc_some {o : Nat} {ts : List (Nat × List RegDesc)} {r : RegDesc} {i : Nat} (h : findDesc o ts = some (r, i)) :
    ∃ t ∈ ts, r ∈ t.2 ∧ i < r.count ∧ o = t.1 + r.off + r.stride * i := by
  induction ts with
  | nil => cases h
  | cons t ts ih =>
    obtain ⟨b, rs⟩ := t
    simp only [findDesc] at h
    split at h
    · next hrow =>
      cases h
      split at hrow
      · obtain ⟨hmem, hi, ho⟩ := findRow_some hrow
        exact ⟨(b, rs), List.mem_cons_self, hmem, hi, by dsimp only; omega⟩
      · cases hrow
    · obtain ⟨t, ht, hrest⟩ := ih h
      exact ⟨t, List.mem_cons_of_mem _ ht, hrest⟩

/-! ### Blocks without side effects -/

/-- A block without side effects takes a word as a coded write. -/
theorem State.writeWord_plain (s : State) (who : Agent) (role : Nat) {a : Nat} {b : Blk} {u o : Nat} {r : RegDesc} {i : Nat}
    (v : Word) (hd : descOf a = some (b, u, o, r, i)) (hp : plainBlock b = true) :
    s.writeWord who role a v = (s.coded a r (s.ownerRuns b u o) v, s.ownerRuns b u o && r.rwl != 0) := by
  obtain ⟨hl, hf⟩ := descOf_eq_some.mp hd
  rw [← State.codedWrite_eq]
  cases b
  case mem | tve | hst => simp only [State.writeWord, hl, hf]
  case glp | mgt => simp [State.writeWord, hl, hf, State.writeFabric, State.ownerRuns]
  all_goals cases hp

theorem plainBlock_ne_ch {b : Blk} (hp : plainBlock b = true) : b ≠ .ch := by
  rintro rfl
  cases hp

/-- A coded write in a block without side effects does not change whether an owner in such a block runs. -/
theorem State.ownerRuns_coded (s : State) {a : Nat} {b : Blk} {u o : Nat} (r : RegDesc) (runs : Bool) (v : Word) (u' o' : Nat)
    (hl : locate a = some (b, u, o)) (hp : plainBlock b = true) :
    (s.coded a r runs v).ownerRuns b u' o' = s.ownerRuns b u' o' := by
  cases b
  case tve =>
    have hin := locate_tve_inside hl
    have hst : dsqB (u' / 768) + DSQ_STATUS.STATE.off ≠ a := by
      simp only [dsqB, DSQ_STATUS.STATE]
      omega
    simp [State.ownerRuns, State.dieRuns, State.dieState, State.fld, State.reg_coded_other _ _ _ _ _ hst]
  case mem | hst | glp | mgt => rfl
  all_goals cases hp

/-! ### The words of one write -/

theorem State.writeWords_single (s : State) (who : Agent) (role a : Nat) (v : Word) :
    s.writeWords who role a [v] =
      (if (s.writeWord who role a v).2 then (s.writeWord who role a v).1.logRejected who a else (s.writeWord who role a v).1,
        (s.writeWord who role a v).2) := by
  have ho : writeOrder a [v] = [(0, v)] := by
    by_cases h : clearsAt a = true <;> simp [writeOrder, List.range_succ, h]
  simp [State.writeWords, ho]

/-- The words of a 64-bit write, those that clear bits first (R11). -/
theorem writeOrder_pair (a : Nat) (lo hi : Word) :
    writeOrder a [lo, hi] = [(0, lo), (1, hi)] ∨ writeOrder a [lo, hi] = [(1, hi), (0, lo)] := by
  cases h : clearsAt a <;> cases h' : clearsAt (a + 4) <;> simp [writeOrder, List.range_succ, h, h']

/-- Two registers of a block without side effects, none with an RWL field, take the halves of a write in one of the two
orders. -/
theorem State.writeWords_pair_plain (s : State) (who : Agent) (role : Nat) {a : Nat} {b : Blk} {u o : Nat} {r r' : RegDesc}
    {i i' : Nat} (lo hi : Word) (hd : descOf a = some (b, u, o, r, i)) (hd' : descOf (a + 4) = some (b, u, o + 4, r', i'))
    (hp : plainBlock b = true) (hr : r.rwl = 0) (hr' : r'.rwl = 0) :
    ∃ t, s.writeWords who role a [lo, hi] = (t, false) ∧
      (t = (s.coded a r (s.ownerRuns b u o) lo).coded (a + 4) r' (s.ownerRuns b u (o + 4)) hi ∨
        t = (s.coded (a + 4) r' (s.ownerRuns b u (o + 4)) hi).coded a r (s.ownerRuns b u o) lo) := by
  have hl := (descOf_eq_some.mp hd).1
  have hl' := (descOf_eq_some.mp hd').1
  obtain ho | ho := writeOrder_pair a lo hi
  · refine ⟨_, ?_, .inl rfl⟩
    simp [State.writeWords, ho, State.writeWord_plain _ _ _ _ hd hp, State.writeWord_plain _ _ _ _ hd' hp, hr, hr',
      State.ownerRuns_coded _ _ _ _ _ _ hl hp]
  · refine ⟨_, ?_, .inr rfl⟩
    simp [State.writeWords, ho, State.writeWord_plain _ _ _ _ hd hp, State.writeWord_plain _ _ _ _ hd' hp, hr, hr',
      State.ownerRuns_coded _ _ _ _ _ _ hl' hp]

/-! ### REGISTER_WRITE -/

theorem exec_registerWrite (who : Agent) (a : Nat) (wide : Bool) (v : Word64) (s : State) :
    exec (.registerWrite who a wide v) s = .next (s.registerWrite who (s.agentRole who) a wide v).1 := rfl

/-- The words of a write: one, or the two halves. -/
def wordsOf (wide : Bool) (v : Word64) : List Word :=
  if wide then [v.setWidth 32, (v >>> 32).setWidth 32] else [v.setWidth 32]

theorem words64_toNat (v : Word64) : words64 v.toNat = [v.setWidth 32, (v >>> 32).setWidth 32] := by
  have hhi : BitVec.ofNat 32 (v.toNat / 2 ^ 32) = (v >>> 32).setWidth 32 := by
    apply BitVec.eq_of_toNat_eq
    simp [Nat.shiftRight_eq_div_pow]
  rw [words64, hhi, BitVec.ofNat_toNat]

section
variable {who : Agent} (hw : ∀ fn secure, who ≠ .host fn secure)
include hw

theorem hostMiss_of_not_host (a : Nat) (wide : Bool) : hostMiss who a wide = none := by
  cases who
  case host fn secure => exact absurd rfl (hw fn secure)
  all_goals rfl

theorem mirrorOnly_of_not_host (a : Nat) : mirrorOnly who a = false := by
  cases who
  case host fn secure => exact absurd rfl (hw fn secure)
  all_goals rfl

/-- A misaligned write takes nothing (R4). -/
theorem State.registerWrite_misaligned (s : State) (role : Nat) {a : Nat} {wide : Bool} (v : Word64)
    (ha : regAligned a wide = false) : s.registerWrite who role a wide v = (s, false) := by
  simp [State.registerWrite, hostMiss_of_not_host hw, ha]

/-- A write to a block whose domain is not ON is logged and takes nothing (R497). -/
theorem State.registerWrite_off (s : State) (role : Nat) {a : Nat} {wide : Bool} (v : Word64) (ha : regAligned a wide = true)
    (hoff : s.blockOn a = false) : s.registerWrite who role a wide v = (s.logOff (agentPlace s who) 0 [a], false) := by
  simp [State.registerWrite, hostMiss_of_not_host hw, mirrorOnly_of_not_host hw, ha, hoff]

/-- A write to a block that is ON, other than a channel's, writes its words; the route tables follow the package controller
alone. -/
theorem State.registerWrite_on (s : State) (role : Nat) {a : Nat} {wide : Bool} {b : Blk} {u o : Nat} (v : Word64)
    (ha : regAligned a wide = true) (hon : s.blockOn a = true) (hl : locate a = some (b, u, o)) (hb : b ≠ .ch)
    (hroute : routeTable a = false ∨ who ≠ .pkc) :
    s.registerWrite who role a wide v = s.writeWords who role a (wordsOf wide v) := by
  have hro : (routeTable a && decide (who = .pkc)) = false := by
    obtain h | h := hroute <;> simp [h]
  have hvs : (if wide then words64 v.toNat else [BitVec.ofNat 32 v.toNat]) = wordsOf wide v := by
    rw [words64_toNat, BitVec.ofNat_toNat, wordsOf]
  unfold State.registerWrite
  simp only [hostMiss_of_not_host hw, mirrorOnly_of_not_host hw, ha, hon, hl, hro, hvs]
  cases b
  case ch => exact absurd rfl hb
  all_goals simp

/-- A 32-bit write of a register in a block without side effects is its coded write, logged where an RWL field is locked. -/
theorem exec_registerWrite_plain (s : State) {a : Nat} (v : Word64) {b : Blk} {u o : Nat} {r : RegDesc} {i : Nat}
    (hd : descOf a = some (b, u, o, r, i)) (hp : plainBlock b = true) (ha : a % 4 = 0) (hon : s.blockOn a = true)
    (hroute : routeTable a = false ∨ who ≠ .pkc) :
    let t := s.coded a r (s.ownerRuns b u o) (v.setWidth 32)
    exec (.registerWrite who a false v) s = .next (if s.ownerRuns b u o && r.rwl != 0 then t.logRejected who a else t) := by
  have hal : regAligned a false = true := by simp [regAligned, ha]
  rw [exec_registerWrite, State.registerWrite_on hw s _ v hal hon (descOf_eq_some.mp hd).1 (plainBlock_ne_ch hp) hroute]
  simp [wordsOf, State.writeWords_single, State.writeWord_plain _ _ _ _ hd hp]

/-- A 64-bit write over two registers of a block without side effects and without RWL fields is a coded write of each
half. -/
theorem exec_registerWrite_plain_wide (s : State) {a : Nat} (v : Word64) {b : Blk} {u o : Nat} {r r' : RegDesc} {i i' : Nat}
    (hd : descOf a = some (b, u, o, r, i)) (hd' : descOf (a + 4) = some (b, u, o + 4, r', i')) (hp : plainBlock b = true)
    (ha : a % 8 = 0) (hon : s.blockOn a = true) (hr : r.rwl = 0) (hr' : r'.rwl = 0)
    (hroute : routeTable a = false ∨ who ≠ .pkc) :
    ∃ t, exec (.registerWrite who a true v) s = .next t ∧
      t.reg a = codedValue r (s.ownerRuns b u o) (s.reg a) (v.setWidth 32) ∧
      t.reg (a + 4) = codedValue r' (s.ownerRuns b u (o + 4)) (s.reg (a + 4)) ((v >>> 32).setWidth 32) ∧
      (∀ x, x ≠ a → x ≠ a + 4 → t.reg x = s.reg x) ∧ t.mem = s.mem ∧ t.tags = s.tags := by
  have hal : regAligned a true = true := by simp [regAligned, ha]
  have hne : a ≠ a + 4 := by omega
  obtain ⟨t, hwr, ht⟩ := s.writeWords_pair_plain who (s.agentRole who) (v.setWidth 32) ((v >>> 32).setWidth 32) hd hd' hp hr hr'
  refine ⟨t, ?_, ?_⟩
  · rw [exec_registerWrite, State.registerWrite_on hw s _ v hal hon (descOf_eq_some.mp hd).1 (plainBlock_ne_ch hp) hroute]
    simp [wordsOf, hwr]
  · obtain rfl | rfl := ht
    · simp +contextual [State.reg_coded_other]
    · simp +contextual [State.reg_coded_other]

end

/-! ### Shadowed registers of a die (R8, R9) -/

/-- A row of a die whose RWS bits are all it stores. -/
def pureRws (r : RegDesc) : Bool := r.rw == 0 && r.rwl == 0 && r.w1c == 0

/-- While its owner runs, such a row keeps its value. -/
theorem codedValue_pureRws {r : RegDesc} (h : pureRws r = true) (old v : Word) : codedValue r true old v = old := by
  simp only [pureRws, Bool.and_eq_true, beq_iff_eq] at h
  obtain ⟨⟨hrw, -⟩, hw1c⟩ := h
  simp only [codedValue, hrw, hw1c, if_true, BitVec.and_zero, BitVec.or_zero, BitVec.not_zero,
    BitVec.and_allOnes]

/-- Offsets of the die-sequencer block that take a word as a coded write, and that a change of tasks leaves alone. -/
def dsqShadowed (o : Nat) : Bool :=
  o != DSQ_CTRL.off && decide (¬(TNM_SLOT.off ≤ o ∧ o < TNM_SLOT.off + 16)) && decide (o < 0x500) && o % 16 != 8

/-- Offsets of the scratch block that take a word as a coded write under the die. -/
def scrShadowed (o : Nat) : Bool := o != SCR_CLEAR.off && decide (o < 0x800)

theorem dsq_rows_pureRws : ∀ t ∈ blkRows .dsq 0, ∀ r ∈ t.2, r.rws ≠ 0 →
    pureRws r = true ∧ ∀ i < r.count, dsqShadowed (t.1 + r.off + r.stride * i) = true := by decide

theorem scr_rows_pureRws : ∀ t ∈ blkRows .scr 0, ∀ r ∈ t.2, r.rws ≠ 0 →
    pureRws r = true ∧ ∀ i < r.count, scrShadowed (t.1 + r.off + r.stride * i) = true := by decide

theorem findDesc_dsq_rws {u o : Nat} {r : RegDesc} {i : Nat} (h : findDesc o (blkRows .dsq u) = some (r, i)) (hr : r.rws ≠ 0) :
    pureRws r = true ∧ dsqShadowed o = true := by
  obtain ⟨t, ht, hrt, hi, rfl⟩ := findDesc_some h
  obtain ⟨hpure, hoff⟩ := dsq_rows_pureRws t ht r hrt hr
  exact ⟨hpure, hoff i hi⟩

theorem findDesc_scr_rws {u o : Nat} {r : RegDesc} {i : Nat} (h : findDesc o (blkRows .scr u) = some (r, i)) (hr : r.rws ≠ 0) :
    pureRws r = true ∧ scrShadowed o = true := by
  obtain ⟨t, ht, hrt, hi, rfl⟩ := findDesc_some h
  obtain ⟨hpure, hoff⟩ := scr_rows_pureRws t ht r hrt hr
  exact ⟨hpure, hoff i hi⟩

/-- Two states agree on the register at `a`, the shadow values, the memory and the tags. -/
structure AgreeAt (a : Nat) (s t : State) : Prop where
  reg : t.reg a = s.reg a
  shadow : t.shadow = s.shadow
  mem : t.mem = s.mem
  tags : t.tags = s.tags

theorem AgreeAt.refl (a : Nat) (s : State) : AgreeAt a s s := ⟨rfl, rfl, rfl, rfl⟩

theorem AgreeAt.trans {a : Nat} {s t u : State} (h : AgreeAt a s t) (h' : AgreeAt a t u) : AgreeAt a s u :=
  ⟨h'.reg.trans h.reg, h'.shadow.trans h.shadow, h'.mem.trans h.mem, h'.tags.trans h.tags⟩

theorem AgreeAt.setReg {a x : Nat} (s : State) (v : Word) (h : x ≠ a) : AgreeAt a s (s.setReg x v) :=
  ⟨State.reg_setReg_other _ _ h, rfl, rfl, rfl⟩

theorem AgreeAt.setFld {a b : Nat} (s : State) (f : Field) (v : Nat) (h : b + f.off ≠ a) : AgreeAt a s (s.setFld b f v) :=
  AgreeAt.setReg s _ h

theorem agreeAt_noteHolders (a : Nat) (s : State) (d : Nat) : AgreeAt a s (noteHolders s d) := ⟨rfl, rfl, rfl, rfl⟩

/-- The job table lies above every die. -/
theorem agreeAt_setJobMode {a : Nat} (s : State) (job : Nat) (relaxed throughput : Bool) (ha : a < glpB) :
    AgreeAt a s (s.setJobMode job relaxed throughput) := by
  unfold State.setJobMode
  split
  · exact .refl a s
  · dsimp only
    split
    · exact .refl a s
    · exact (AgreeAt.setFld _ _ _ (by omega)).trans (.setReg _ _ (by omega))

/-- A change of tasks writes TSK_STEPS and the job table alone. -/
theorem agreeAt_tasksChanged {a : Nat} (old s : State) {d o : Nat} (hd : d < 12) (ho : o < 0x1000) (h8 : o % 16 ≠ 8)
    (ha : a = dsqB d + o) : AgreeAt a s (tasksChanged old s d) := by
  have hglp : a < glpB := by
    simp only [dsqB, glpB] at *
    omega
  have hsteps : ∀ n, tskB d n + TSK_STEPS.STEPS.off ≠ a := by
    intro n
    simp only [tskB, dsqB, TSK_CFG.stride, TSK_STEPS.STEPS] at *
    omega
  unfold tasksChanged
  refine List.foldlRecOn (motive := AgreeAt a s) _ _ (.refl a s) fun t ht n _ => ht.trans ?_
  extract_lets restarted modes
  have hfirst : AgreeAt a t restarted := by
    simp only [restarted]
    split
    · exact .setFld _ _ _ (hsteps n)
    · exact .refl a t
  clear_value restarted
  split
  · exact hfirst.trans (agreeAt_setJobMode _ _ _ _ hglp)
  · exact hfirst

/-- The die-sequencer block takes a word of a shadowed register as a coded write, and follows the change of tasks on a die that
does not run. -/
theorem State.writeWord_dsq_rws (s : State) (who : Agent) (role : Nat) {a u o : Nat} {r : RegDesc} {i : Nat} (v : Word)
    (hl : locate a = some (.dsq, u, o)) (hf : findDesc o (blkRows .dsq u) = some (r, i)) (hr : r.rws ≠ 0)
    (ho : o ≠ STR_CTRL.off) (hneeds : s.validNeeds u o v = []) :
    s.writeWord who role a v =
      (if s.dieRuns u then s.coded a r true v else noteHolders (tasksChanged s (s.coded a r false v) u) u, false) := by
  obtain ⟨-, -, ha⟩ := locate_dsq hl
  obtain ⟨hpure, hoff⟩ := findDesc_dsq_rws hf hr
  simp only [pureRws, Bool.and_eq_true, beq_iff_eq] at hpure
  simp only [dsqShadowed, Bool.and_eq_true, bne_iff_ne, decide_eq_true_eq] at hoff
  obtain ⟨⟨⟨hctrl, hslot⟩, hlow⟩, -⟩ := hoff
  have hdrf : o ≠ 0x700 + DRF_CLEAR.off := by omega
  have howner : s.ownerRuns .dsq u o = s.dieRuns u := by
    simp only [State.ownerRuns]
    rw [if_neg (by omega), if_neg (by omega)]
  simp only [State.writeWord, hl, hf, State.writeDsq, hneeds, State.putDsq, if_neg hctrl, if_neg hslot, if_neg hdrf, howner,
    State.codedWrite_eq, ← ha, hpure]
  cases hrun : s.dieRuns u <;> simp [ho, hr]

/-- The scratch block takes a word of a shadowed register as a coded write, and notes the regions of a die that does not
run. -/
theorem State.writeWord_scr_rws (s : State) (who : Agent) (role : Nat) {a u o : Nat} {r : RegDesc} {i : Nat} (v : Word)
    (hl : locate a = some (.scr, u, o)) (hf : findDesc o (blkRows .scr u) = some (r, i)) (hr : r.rws ≠ 0) :
    s.writeWord who role a v =
      (if s.dieRuns u then s.coded a r true v else noteHolders (s.coded a r false v) u, false) := by
  obtain ⟨hpure, hoff⟩ := findDesc_scr_rws hf hr
  simp only [pureRws, Bool.and_eq_true, beq_iff_eq] at hpure
  simp only [scrShadowed, Bool.and_eq_true, bne_iff_ne, decide_eq_true_eq] at hoff
  obtain ⟨hclear, hlow⟩ := hoff
  have howner : s.ownerRuns .scr u o = s.dieRuns u := by
    simp only [State.ownerRuns]
    rw [if_neg (by omega)]
  simp only [State.writeWord, hl, hf, State.writeScr, if_neg hclear, howner, State.codedWrite_eq, ← locate_scr hl, hpure]
  cases hrun : s.dieRuns u <;> simp [hr]

theorem descOf_pureRws {a : Nat} {b : Blk} {u o : Nat} {r : RegDesc} {i : Nat} (hd : descOf a = some (b, u, o, r, i))
    (hb : b = .dsq ∨ b = .scr) (hr : r.rws ≠ 0) : pureRws r = true := by
  have hf := (descOf_eq_some.mp hd).2
  obtain rfl | rfl := hb
  · exact (findDesc_dsq_rws hf hr).1
  · exact (findDesc_scr_rws hf hr).1

/-- A word of a shadowed register of a die leaves, at this register and in shadow values, memory and tags, what its coded
write leaves; on a running die it leaves nothing else changed either. -/
theorem State.writeWord_shadowed (s : State) (who : Agent) (role : Nat) {a : Nat} {b : Blk} {u o : Nat} {r : RegDesc} {i : Nat}
    (v : Word) (hd : descOf a = some (b, u, o, r, i)) (hb : b = .dsq ∨ b = .scr) (hr : r.rws ≠ 0) (ho : o ≠ STR_CTRL.off)
    (hneeds : b = .dsq → s.validNeeds u o v = []) :
    ∃ t, s.writeWord who role a v = (t, false) ∧ AgreeAt a (s.coded a r (s.dieRuns u) v) t ∧
      (s.dieRuns u = true → t = s.coded a r true v) := by
  obtain ⟨hl, hf⟩ := descOf_eq_some.mp hd
  refine ⟨(s.writeWord who role a v).1, ?_⟩
  obtain rfl | rfl := hb
  · obtain ⟨hu, hlt, ha⟩ := locate_dsq hl
    have h8 : o % 16 ≠ 8 := by
      have hoff := (findDesc_dsq_rws hf hr).2
      simp only [dsqShadowed, Bool.and_eq_true, bne_iff_ne] at hoff
      exact hoff.2
    rw [s.writeWord_dsq_rws who role v hl hf hr ho (hneeds rfl)]
    cases hrun : s.dieRuns u
    · simpa using (agreeAt_tasksChanged _ _ hu hlt h8 ha).trans (agreeAt_noteHolders _ _ _)
    · simpa using AgreeAt.refl _ _
  · rw [s.writeWord_scr_rws who role v hl hf hr]
    cases hrun : s.dieRuns u
    · simpa using agreeAt_noteHolders _ _ _
    · simpa using AgreeAt.refl _ _

/-- A 32-bit write of a shadowed register of a die: on a running die its RWS bits wait and every register keeps its value; on
another die they are stored, and nothing waits. -/
theorem exec_registerWrite_shadowed {who : Agent} (hw : ∀ fn secure, who ≠ .host fn secure) (hpkc : who ≠ .pkc) (s : State)
    {a : Nat} (v : Word64) {b : Blk} {u o : Nat} {r : RegDesc} {i : Nat} (hd : descOf a = some (b, u, o, r, i))
    (hb : b = .dsq ∨ b = .scr) (hr : r.rws ≠ 0) (ho : o ≠ STR_CTRL.off) (ha : a % 4 = 0) (hon : s.blockOn a = true)
    (hneeds : b = .dsq → s.validNeeds u o (v.setWidth 32) = []) :
    ∃ t, exec (.registerWrite who a false v) s = .next t ∧ t.mem = s.mem ∧ t.tags = s.tags ∧
      (s.dieRuns u = true → (∀ x, t.reg x = s.reg x) ∧
        mapGet? t.shadow a = some ⟨BitVec.ofNat 32 r.rws, v.setWidth 32 &&& BitVec.ofNat 32 r.rws⟩) ∧
      (s.dieRuns u = false → t.reg a = codedValue r false (s.reg a) (v.setWidth 32) ∧ mapGet? t.shadow a = none) := by
  have hal : regAligned a false = true := by simp [regAligned, ha]
  have hch : b ≠ .ch := by
    obtain rfl | rfl := hb <;> decide
  obtain ⟨t, hwr, hagree, hrunning⟩ := s.writeWord_shadowed who (s.agentRole who) (v.setWidth 32) hd hb hr ho hneeds
  refine ⟨t, ?_, hagree.mem, hagree.tags, fun hrun => ⟨fun x => ?_, ?_⟩, fun hstop => ⟨?_, ?_⟩⟩
  · rw [exec_registerWrite, State.registerWrite_on hw s _ v hal hon (descOf_eq_some.mp hd).1 hch (.inr hpkc)]
    simp [wordsOf, State.writeWords_single, hwr]
  · rw [hrunning hrun]
    by_cases hx : x = a
    · subst hx
      rw [State.reg_coded_same, codedValue_pureRws (descOf_pureRws hd hb hr)]
    · exact State.reg_coded_other _ _ _ _ _ hx
  · rw [hagree.shadow, hrun]
    simp [codedShadow, hr, mapGet?_mapPut_same]
  · rw [hagree.reg, hstop, State.reg_coded_same]
  · rw [hagree.shadow, hstop]
    simp [codedShadow, hr, mapGet?_mapErase_same]

/-! ### Refused writes -/

/-- A write by an agent of the package to a block that is not ON is logged once, for the block (R497). -/
theorem State.logOff_single (s : State) (place job : Nat) {a : Nat} {b : Blk} {u o : Nat} (hl : locate a = some (b, u, o))
    (hoff : s.blockOn a = false) :
    s.logOff place job [a] = s.logRefused stDENIED (blkSource b) (s.blkUnit b u) place job [] := by
  have hdom : s.domOn (blkDomain b u) = false := by simpa [State.blockOn, hl] using hoff
  simp [State.logOff, hl, hdom]

/-- Settles O40: a write of a block without side effects is the coded write of each of its words; one of a shadowed register
of a die waits in the shadow while the die runs; a misaligned write and one to a block that is not ON take nothing. -/
theorem registerWritesFollowTheAccessCodes : Obligations.RegisterWritesFollowTheAccessCodes := by
  unfold Obligations.RegisterWritesFollowTheAccessCodes
  refine ⟨fun s c a v => ?_, ?_⟩
  · have hw : ∀ fn secure, Agent.core c ≠ .host fn secure := fun _ _ h => by cases h
    have hpkc : Agent.core c ≠ .pkc := fun h => by cases h
    refine ⟨?_, ?_, ?_, ?_, ?_⟩
    · intro b u o r i hd hp ha hon
      exact ⟨_, exec_registerWrite_plain hw s v hd hp ha hon (.inr hpkc), State.reg_coded_same _ _ _ _ _,
        fun x hx => State.reg_coded_other _ _ _ _ _ hx, rfl, rfl, rfl, rfl, rfl, rfl, rfl⟩
    · intro b u o r i r' i' hd hd' hp ha hon hr hr'
      exact exec_registerWrite_plain_wide hw s v hd hd' hp ha hon hr hr' (.inr hpkc)
    · intro b u o r i hd hb hr ho ha hon hneeds
      exact exec_registerWrite_shadowed hw hpkc s v hd hb hr ho ha hon hneeds
    · intro wide ha
      rw [exec_registerWrite, State.registerWrite_misaligned hw s _ v ha]
    · intro wide b u o ha hl hoff
      rw [exec_registerWrite, State.registerWrite_off hw s _ v ha hoff, State.logOff_single s _ _ hl hoff]
      rfl
  · intro s who a v b u o r i hd hp ha hon hw hroute hfree
    have hnone : (s.ownerRuns b u o && r.rwl != 0) = false := by
      obtain h | h := hfree <;> simp [h]
    refine ⟨s.coded a r (s.ownerRuns b u o) (v.setWidth 32), ?_, State.reg_coded_same _ _ _ _ _,
      fun x hx => State.reg_coded_other _ _ _ _ _ hx, rfl, rfl, rfl, rfl, rfl, rfl, rfl⟩
    simpa [hnone] using exec_registerWrite_plain hw s v hd hp ha hon (.inl hroute)

end Sys2Proof.Machine
end
